-- ==== Sys2Proof/Word.lean ====
section
/-! DEFINITION. The machine's word types (R6) and their plainest arithmetic. -/

namespace Sys2Proof

/-- A byte (R6, R7). -/
abbrev Byte := BitVec 8
/-- A half, 16 bits (R6). -/
abbrev Half := BitVec 16
/-- A word, 32 bits (R6). -/
abbrev Word := BitVec 32
/-- A dword, 64 bits (R6). -/
abbrev Dword := BitVec 64

/-- The Nat `n` as a word, modulo 2^32. -/
abbrev word (n : Nat) : Word := BitVec.ofNat 32 n
/-- The Nat `n` as a dword, modulo 2^64. -/
abbrev dword (n : Nat) : Dword := BitVec.ofNat 64 n

/-- Bits [hi:lo] of a Nat (R6). -/
def bits (n hi lo : Nat) : Nat := (n >>> lo) % 2 ^ (hi + 1 - lo)

/-- Bit `i` of a Nat. -/
def bitN (n i : Nat) : Bool := n.testBit i

/-- A Bool as 0 or 1. -/
def b2n (b : Bool) : Nat := if b then 1 else 0

end Sys2Proof
end

