-- ==== Sys2Proof/Syntax.lean ====
section
/-! DEFINITION. The instructions of the GX4 and the steps of its agents: one constructor of `Instr` for every row of
spec/opcode_table.json. Encodings are in Sys2Proof/Decode.lean; nothing here says what an instruction does. -/

namespace Sys2Proof

/-- The guard of a full or long instruction (R106): `grd` 0-23 names p0-p23, 31 executes always. -/
structure Guard where
  grd : BitVec 5
  neg : Bool
  deriving DecidableEq, Repr, Inhabited

/-- One operand field with the reading its entry gives it (R105, R107, R108, R119, R171, R196).
`reg`, `pair` and `run` hold a register code 0-255; `run` also the number of registers its entry fixes (0 where a queue's
entry size fixes it at run time, R222). `chan n pop` is a channel: popped or peeked as a source, pushed as a destination.
`imm` is an 8-bit immediate or a raw field. -/
inductive Opnd where
  | none
  | reg (code : BitVec 8)
  | pair (code : BitVec 8)
  | run (code : BitVec 8) (n : Nat)
  | pred (n : BitVec 8)
  | chan (n : BitVec 4) (pop : Bool)
  | imm (v : BitVec 8)
  deriving DecidableEq, Repr, Inhabited

/-- The operand fields that every full and long instruction shares (R104). -/
structure Args where
  guard : Guard
  la : BitVec 4
  d : Opnd
  a : Opnd
  b : Opnd
  c : Opnd
  deriving DecidableEq, Repr, Inhabited

/-- Integer types (R112). -/
inductive IntTy where
  | s32 | u32 | s64 | u64
  deriving DecidableEq, Repr, Inhabited

/-- Floating types (R112, R168). -/
inductive FTy where
  | f32 | f16x2 | bf16x2 | f64
  deriving DecidableEq, Repr, Inhabited

/-- Rounding codes (R112). -/
inductive Rnd where
  | rne | rz | ru | rd | sr
  deriving DecidableEq, Repr, Inhabited

/-- Relations of ICMP and FCMP (R131, R177). -/
inductive Rel where
  | eq | ne | lt | le | gt | ge
  deriving DecidableEq, Repr, Inhabited

/-- Scopes, codes 0-5 (R112, R237). -/
inductive Scope where
  | crew | cluster | die | device | tenant | system
  deriving DecidableEq, Repr, Inhabited

/-- Address spaces (R197). -/
inductive Space where
  | g | x | pv
  deriving DecidableEq, Repr, Inhabited

/-- Access widths (R197). -/
inductive Width where
  | u8 | s8 | u16 | s16 | w32 | w64
  deriving DecidableEq, Repr, Inhabited

/-- PSET's operation (R149). -/
inductive PsetOp where
  | and | or | xor
  deriving DecidableEq, Repr, Inhabited

/-- VOTE's variant (R153). -/
inductive VoteKind where
  | ballot | any | all
  deriving DecidableEq, Repr, Inhabited

/-- SHFL's variant (R154). -/
inductive ShflKind where
  | idx | up | down | xorl
  deriving DecidableEq, Repr, Inhabited

/-- The operation of REDUX and SCAN (R155). -/
inductive RedOp where
  | add | max | min | and | or | xor
  deriving DecidableEq, Repr, Inhabited

/-- The single type field of REDUX and SCAN (R155). -/
inductive RedTy where
  | int (t : IntTy)
  | flt (t : FTy)
  deriving DecidableEq, Repr, Inhabited

/-- ATOM's operation (R207). -/
inductive AtomOp where
  | add | exch | and | or | minS | maxS | minU | maxU
  deriving DecidableEq, Repr, Inhabited

/-- ATOMF's operation (R209). -/
inductive AtomFOp where
  | addF32 | minF32 | maxF32 | addF16x2 | addBF16x2
  deriving DecidableEq, Repr, Inhabited

/-- The kind of a draw (R321). -/
inductive DrawKind where
  | u32 | f32 | u64
  deriving DecidableEq, Repr, Inhabited

/-- The signedness of B's bytes in IDP4 (R129). -/
inductive Idp4B where
  | same | u8 | s8
  deriving DecidableEq, Repr, Inhabited

/-- A compact operation without its PAIR bit (R100): the two halves of a pair. -/
inductive CInstr where
  | nop
  | mov (d s : BitVec 8)
  | iadd (d s : BitVec 8)
  | isub (d s : BitVec 8)
  | and (d s : BitVec 8)
  | or (d s : BitVec 8)
  | xor (d s : BitVec 8)
  | shl (d : BitVec 8) (i : BitVec 7)
  | shr (d : BitVec 8) (i : BitVec 7)
  | sar (d : BitVec 8) (i : BitVec 7)
  | iaddi (d : BitVec 8) (i : BitVec 7)
  | movi (d : BitVec 8) (lit : BitVec 15)
  | fadd (d s : BitVec 8)
  | fmul (d s : BitVec 8)
  | fmax (d s : BitVec 8)
  | fmin (d s : BitVec 8)
  | imul (d s : BitVec 8)
  | imin (d s : BitVec 8)
  | imax (d s : BitVec 8)
  | ld (d s : BitVec 8) (i : BitVec 7)
  | st (d s : BitVec 8) (i : BitVec 7)
  | bra (off : BitVec 23)
  deriving DecidableEq, Repr, Inhabited

/-- A thread by its place: the crew's unique number, the squad's number, whether the squad is a shadow, the lane (R13, R17). -/
structure TRef where
  crew : Nat
  squad : Nat
  shadow : Bool
  lane : Nat
  deriving DecidableEq, Repr, Inhabited

/-- What executes an instruction: a thread of a vector core, a cluster's Easel core, or the management processor (R287, R433). -/
inductive Actor where
  | thread (t : TRef)
  | easel (cluster : Nat)
  | mp
  deriving DecidableEq, Repr, Inhabited

/-- What has a core cycle of its own (R29, R287, R433). -/
inductive Issuer where
  | core (c : Nat)
  | easel (cluster : Nat)
  | mp
  deriving DecidableEq, Repr, Inhabited

/-- Where an uncorrectable error strikes: in a thread's state (R451); in a dirty byte of an L1 granule of its core (R452), a clean byte
there, or a byte of its crew's scratchpad; in a Canvas row or the Ground of a cluster, an on-die entry of a Basin queue, or a sector that a
memory-side cache holds. Or a single-bit error of a structure, corrected in place (R451, R484): of core `core` for 0 to 2, the register
file, scratchpads and L1; device-wide for 3 to 6, Canvas, Ground, Basin entries and memory-side caches. -/
inductive SoftErr where
  | result (op : Nat)
  | reg (code : Nat)
  | pred (n : Nat)
  | dirty (granule : Nat)
  | clean (granule byte : Nat)
  | scratch (off : Nat)
  | canvas (cluster row : Nat)
  | ground (cluster : Nat)
  | entry (queue n : Nat)
  | sector (n : Nat)
  | corrected (core kind : Nat)
  deriving DecidableEq, Repr, Inhabited

/-- What another module asks of this one over Jenah Link (R467). -/
inductive PeerOp where
  | load (n : Nat)
  | store (n : Nat) (data : Nat)
  | atom (op : AtomOp) (data : Word)
  | atomf (op : AtomFOp) (data : Word)
  | cas (n : Nat) (expect new : Nat)
  | replay (token : Word) (fail : Bool)
  deriving DecidableEq, Repr, Inhabited

/-- What a scrub of a sector finds (R451, R452, R484). -/
inductive ScrubFind where
  | clean | corrected | uncorrectable
  deriving DecidableEq, Repr, Inhabited

/-- The instructions and steps of the GX4, in the order of spec/opcode_table.json. -/
inductive Instr where
  -- group 0 (R122-R137)
  | nop (x : Args)
  | iadd (x : Args) (ty : IntTy) (sat : Bool)
  | isub (x : Args) (ty : IntTy) (sat : Bool)
  | imul (x : Args) (ty : IntTy) (sat : Bool)
  | imulhi (x : Args) (ty : IntTy)
  | imad (x : Args) (ty : IntTy) (sat : Bool)
  | imin (x : Args) (ty : IntTy)
  | imax (x : Args) (ty : IntTy)
  | iabs (x : Args) (ty : IntTy) (sat : Bool)
  | and (x : Args) (ty : IntTy)
  | or (x : Args) (ty : IntTy)
  | xor (x : Args) (ty : IntTy)
  | andn (x : Args) (ty : IntTy)
  | lop3 (x : Args) (ty : IntTy)
  | shl (x : Args) (ty : IntTy)
  | shr (x : Args) (ty : IntTy)
  | sar (x : Args) (ty : IntTy)
  | rotl (x : Args) (ty : IntTy)
  | popc (x : Args) (ty : IntTy)
  | clz (x : Args) (ty : IntTy)
  | brev (x : Args) (ty : IntTy)
  | bfx (x : Args) (ty : IntTy)
  | bfi (x : Args) (ty : IntTy)
  | prmt (x : Args)
  | idp4 (x : Args) (ty : IntTy) (sat : Bool) (bb : Idp4B)
  | lea (x : Args) (ty : IntTy)
  | icmp (x : Args) (ty : IntTy) (rel : Rel)
  | sel (x : Args) (ty : IntTy)
  | mov (x : Args) (ty : IntTy)
  | movi (x : Args) (ty : IntTy) (lit : Word)
  | movs (x : Args)
  | movsw (x : Args)
  -- group 1 (R172)
  | fadd (x : Args) (ty : FTy) (rnd : Rnd)
  | fsub (x : Args) (ty : FTy) (rnd : Rnd)
  | fmul (x : Args) (ty : FTy) (rnd : Rnd)
  | ffma (x : Args) (ty : FTy) (rnd : Rnd)
  | fmin (x : Args) (ty : FTy)
  | fmax (x : Args) (ty : FTy)
  | fcmp (x : Args) (ty : FTy) (rel : Rel)
  | fclass (x : Args) (ty : FTy)
  | fdiv (x : Args) (ty : FTy) (rnd : Rnd)
  | fsqrt (x : Args) (ty : FTy) (rnd : Rnd)
  | frcp (x : Args) (ty : FTy) (rnd : Rnd)
  | frsq (x : Args)
  | fexp2 (x : Args)
  | flog2 (x : Args)
  | fsinpi (x : Args)
  | fcospi (x : Args)
  | ftanh (x : Args)
  | fscale (x : Args) (ty : FTy) (rnd : Rnd)
  | fdot2 (x : Args) (ty : FTy) (rnd : Rnd)
  | welf (x : Args) (rnd : Rnd)
  | wmerge (x : Args) (rnd : Rnd)
  | famax (x : Args) (ty : FTy)
  -- group 2 (R187-R195)
  | cvt (x : Args) (rnd : Rnd)
  | cvtn (x : Args) (ty : FTy) (rnd : Rnd)
  | cvtw (x : Args) (ty : FTy)
  | qnt (x : Args) (ty : FTy) (rnd : Rnd)
  | dqnt (x : Args) (ty : FTy) (rnd : Rnd)
  -- group 3 (R143-R167)
  | bra (x : Args) (off : BitVec 24)
  | brx (x : Args)
  | call (x : Args) (off : BitVec 24)
  | callx (x : Args)
  | ret (x : Args)
  | exit (x : Args)
  | yield (x : Args)
  | yieldRole (x : Args)
  | nap (x : Args)
  | pset (x : Args) (op : PsetOp)
  | pmov (x : Args)
  | vote (x : Args) (k : VoteKind)
  | shfl (x : Args) (k : ShflKind) (ty : IntTy)
  | redux (x : Args) (op : RedOp) (ty : RedTy)
  | scan (x : Args) (op : RedOp) (ty : RedTy)
  | matchL (x : Args) (ty : IntTy)
  | part (x : Args)
  | sqbar (x : Args)
  | crbar (x : Args)
  | mark (x : Args) (id : BitVec 16)
  | regb (x : Args)
  | bkpt (x : Args)
  | trap (x : Args)
  -- group 4 (R196-R225)
  | ld (x : Args) (w : Width) (sp : Space)
  | ldLong (x : Args) (w : Width) (sp : Space) (lit : Word)
  | st (x : Args) (w : Width) (sp : Space)
  | stLong (x : Args) (w : Width) (sp : Space) (lit : Word)
  | ldt (x : Args)
  | stt (x : Args)
  | atom (x : Args) (op : AtomOp) (sc : Scope)
  | atomLong (x : Args) (op : AtomOp) (sc : Scope) (lit : Word)
  | atomcas (x : Args) (wide : Bool) (sc : Scope)
  | atomcasLong (x : Args) (wide : Bool) (sc : Scope) (lit : Word)
  | atomf (x : Args) (op : AtomFOp) (sc : Scope)
  | atomfLong (x : Args) (op : AtomFOp) (sc : Scope) (lit : Word)
  | pref (x : Args)
  | prefLong (x : Args) (lit : Word)
  | fence (x : Args) (sc : Scope)
  | acq (x : Args) (sc : Scope)
  | acqLong (x : Args) (sc : Scope) (lit : Word)
  | rel (x : Args) (sc : Scope)
  | relLong (x : Args) (sc : Scope) (lit : Word)
  | bind (x : Args)
  | bindLong (x : Args) (lit : Word)
  | unbind (x : Args)
  | unbindLong (x : Args) (lit : Word)
  | promo (x : Args) (sc : Scope)
  | promoLong (x : Args) (sc : Scope) (lit : Word)
  | waita (x : Args) (ge : Bool) (sp : Space)
  | waitaLong (x : Args) (ge : Bool) (sp : Space) (lit : Word)
  | futr (x : Args) (sc : Scope)
  | futrLong (x : Args) (sc : Scope) (lit : Word)
  | futw (x : Args) (sc : Scope)
  | futwLong (x : Args) (sc : Scope) (lit : Word)
  | push (x : Args) (tr : Bool)
  | pop (x : Args) (tr : Bool)
  | qcfg (x : Args)
  | qstat (x : Args)
  -- group 5 (R226-R236)
  | cpy (x : Args)
  | cpyg (x : Args)
  | cpys (x : Args)
  | cpyc (x : Args)
  | cseal (x : Args)
  | cwait (x : Args)
  | chset (x : Args)
  | chsetLong (x : Args) (lit : Word)
  | chstat (x : Args)
  | mxreq (x : Args)
  -- group 6 (R285-R315)
  | palw (x : Args)
  | palr (x : Args)
  | mxla (x : Args)
  | mxlb (x : Args)
  | mxmm (x : Args)
  | mxepi (x : Args)
  | mxtile (x : Args)
  | mxsync (x : Args)
  | cvzero (x : Args)
  | cvld (x : Args)
  | cvst (x : Args)
  | mbxpop (x : Args) (tr : Bool)
  | mbxdone (x : Args)
  | mbxdoneLong (x : Args) (lit : Word)
  -- group 7
  | draw (x : Args) (k : DrawKind)
  | drawk (x : Args) (k : DrawKind)
  | result (x : Args)
  | mutl (x : Args)
  | spawn (x : Args)
  | trace (x : Args)
  | hinsp (x : Args)
  | hpoke (x : Args)
  | hresume (x : Args)
  | hret (x : Args)
  | replay (x : Args)
  | tlbinv (x : Args)
  -- compact forms (R99-R101); `p` is the PAIR bit
  | nopC (p : Bool)
  | movC (p : Bool) (d s : BitVec 8)
  | iaddC (p : Bool) (d s : BitVec 8)
  | isubC (p : Bool) (d s : BitVec 8)
  | andC (p : Bool) (d s : BitVec 8)
  | orC (p : Bool) (d s : BitVec 8)
  | xorC (p : Bool) (d s : BitVec 8)
  | shlC (p : Bool) (d : BitVec 8) (i : BitVec 7)
  | shrC (p : Bool) (d : BitVec 8) (i : BitVec 7)
  | sarC (p : Bool) (d : BitVec 8) (i : BitVec 7)
  | iaddiC (p : Bool) (d : BitVec 8) (i : BitVec 7)
  | moviC (p : Bool) (d : BitVec 8) (lit : BitVec 15)
  | faddC (p : Bool) (d s : BitVec 8)
  | fmulC (p : Bool) (d s : BitVec 8)
  | fmaxC (p : Bool) (d s : BitVec 8)
  | fminC (p : Bool) (d s : BitVec 8)
  | imulC (p : Bool) (d s : BitVec 8)
  | iminC (p : Bool) (d s : BitVec 8)
  | imaxC (p : Bool) (d s : BitVec 8)
  | ldC (p : Bool) (d s : BitVec 8) (i : BitVec 7)
  | stC (p : Bool) (d s : BitVec 8) (i : BitVec 7)
  | braC (p : Bool) (off : BitVec 23)
  -- steps of the device's agents (spec/95_what_each_step_holds.md)
  | compactPairIssue (fst snd : CInstr)
  | pickerCycle (who : Issuer)
  | meetingIssue (t : TRef)
  | yieldExpire (t : TRef)
  | napExpire (a : Actor)
  | longLatencyWriteback (a : Actor) (op : Nat)
  | waitaWake (a : Actor)
  | waitaHostPoll (a : Actor)
  | futureFill (fill : Nat)
  | l1Writeback (core ctx granule : Nat) (drop : Bool)
  | faultRecordPush (n : Nat)
  | replayItemProceed (n : Nat)
  | trapEntry (t : TRef)
  | handlerWatchdog (t : TRef)
  | singleStep (t : TRef)
  | softError (a : Actor) (what : SoftErr)
  | launchAccept (ctx : Nat)
  | launchComplete (launch : Nat)
  | crewPlace (crew core : Nat)
  | crewSteal (die victim : Nat)
  | preemptCrew (crew : Nat)
  | restoreCrew (crew core : Nat)
  | contextDepart (ctx : Nat)
  | crewScratchRelease (crew : Nat)
  | roleArm (crew : Nat)
  | jobStart (job : Nat)
  | jobTransferUnit (job unit : Nat)
  | completionAction (job : Nat)
  | emptyJobFinish (job : Nat)
  | copyIssueDeadlock (crew : Nat)
  | matrixStepExecute (cluster : Nat)
  | mbxdoneStore (cluster : Nat)
  | basinCommand (cmd : Nat)
  | basinWaiterAnswer (queue : Nat)
  | basinRefill (queue : Nat)
  | queueRelease (queue : Nat)
  | valeService (core : Nat)
  | pendingHandlePush (n : Nat)
  | taskDispatch (launch core : Nat)
  | taskCommit (launch : Nat)
  | deferredFaultReissue (t : TRef)
  | relaunch (id : Nat)
  | relaunchCompare (id : Nat)
  | pageMigrate (ctx va stack : Nat)
  | windowPush (fn slot : Nat)
  | windowPop (fn slot : Nat)
  | serviceReplay (fn : Nat)
  | serviceFail (fn : Nat)
  | snapshot (fn : Nat)
  | write (fn : Nat)
  | attest (fn : Nat)
  | recoveryImageWrite (image : List Byte)
  | launchQueueRegister (entry ctx queue : Nat)
  | launchQueueUnregister (entry : Nat)
  | slotBind (fn slot queue : Nat)
  | slotUnbind (fn slot : Nat)
  | traversalEnable (core : Nat)
  | traversalDisable (core : Nat)
  | traceEnable (core : Nat)
  | traceRestart (core : Nat)
  | traceSyncPeriodic (core : Nat)
  | traceSample (core : Nat)
  | plimitWrite (v : Word)
  | counterClear (off : Nat)
  | mgmtRegisterWrite (off n : Nat) (v : Dword)
  | boot
  | thermalThrottle (milliwatts celsius : Nat)
  | thermalShutdown (celsius : Nat)
  | linkFlitReplay (link : Nat)
  | portDown (port : Nat)
  | moduleUnreachable (device : Nat)
  | pcieLinkTrain (gen width : Nat)
  | easelStreamResume (cluster : Nat) (at' : Option Dword)
  | jenahPeerRequest (ctx die va : Nat) (op : PeerOp)
  | memoryScrub (stack sector : Nat) (find : ScrubFind)
  | vfEnable (n : Nat)
  | windowEntryWrite (fn slot i : Nat) (v : Word)
  deriving DecidableEq, Repr, Inhabited

end Sys2Proof
end

