-- ==== Sys2Proof/Decode.lean ====
section
/-! DEFINITION. Decoding, total on any bytes, and after it an encoder written from the same tables of spec/04_encoding.md and
of the entries' own field tables. Decode refuses by name (`DecodeErr`); the causes that depend on who executes (WRONG_ENGINE,
PRIVILEGED) or on the declared registers (BAD_REGISTER) are raised by Sys2Proof/Machine, in the order of R118. -/

namespace Sys2Proof

/-- Why a decode refuses (R118): ILLEGAL_LENGTH, UNDEFINED_OPCODE, RESERVED_FIELD. -/
inductive DecodeErr where
  | illegalLength
  | undefinedOpcode
  | reservedField
  deriving DecidableEq, Repr, Inhabited

/-- The fields of a full instruction (R104), bits as they stand. -/
structure Raw where
  md : BitVec 6
  la : BitVec 4
  cimm : Bool
  c : BitVec 8
  bpop : Bool
  bch : Bool
  b : BitVec 8
  apop : Bool
  ach : Bool
  a : BitVec 8
  dch : Bool
  d : BitVec 8
  gneg : Bool
  grd : BitVec 5
  op : BitVec 8
  lc : BitVec 2
  deriving DecidableEq, Repr, Inhabited

/-- One bit of a word as a Bool. -/
def bitAt {w : Nat} (v : BitVec w) (i : Nat) : Bool := v.getLsbD i

/-- The fields of the 64 bits of a full instruction (R104). -/
def Raw.ofBits (w : BitVec 64) : Raw where
  md := w.extractLsb' 58 6
  la := w.extractLsb' 54 4
  cimm := bitAt w 53
  c := w.extractLsb' 45 8
  bpop := bitAt w 44
  bch := bitAt w 43
  b := w.extractLsb' 35 8
  apop := bitAt w 34
  ach := bitAt w 33
  a := w.extractLsb' 25 8
  dch := bitAt w 24
  d := w.extractLsb' 16 8
  gneg := bitAt w 15
  grd := w.extractLsb' 10 5
  op := w.extractLsb' 2 8
  lc := w.extractLsb' 0 2

/-- The 64 bits of a full instruction, high field first (R104). -/
def Raw.toBits (r : Raw) : BitVec 64 :=
  r.md ++ r.la ++ BitVec.ofBool r.cimm ++ r.c ++ BitVec.ofBool r.bpop ++ BitVec.ofBool r.bch ++ r.b ++
  BitVec.ofBool r.apop ++ BitVec.ofBool r.ach ++ r.a ++ BitVec.ofBool r.dch ++ r.d ++ BitVec.ofBool r.gneg ++
  r.grd ++ r.op ++ r.lc

/-- A condition of a decode. -/
def need (b : Bool) : Option Unit := if b then some () else none

/-- Whether an integer type is 64 bits wide (R120). -/
def IntTy.wide : IntTy → Bool
  | .s32 | .u32 => false
  | .s64 | .u64 => true

/-- Whether an integer type is signed (R112). -/
def IntTy.signed : IntTy → Bool
  | .s32 | .s64 => true
  | .u32 | .u64 => false

/-- The integer type code (R112). -/
def IntTy.ofCode (n : Nat) : IntTy :=
  match n with
  | 0 => .s32
  | 1 => .u32
  | 2 => .s64
  | _ => .u64

def IntTy.code : IntTy → Nat
  | .s32 => 0
  | .u32 => 1
  | .s64 => 2
  | .u64 => 3

/-- Whether a floating type takes an even pair (R168). -/
def FTy.wide : FTy → Bool
  | .f64 => true
  | _ => false

/-- The floating type code; 100-111 have none (R112). -/
def FTy.ofCode (n : Nat) : Option FTy :=
  match n with
  | 0 => some .f32
  | 1 => some .f16x2
  | 2 => some .bf16x2
  | 3 => some .f64
  | _ => none

def FTy.code : FTy → Nat
  | .f32 => 0
  | .f16x2 => 1
  | .bf16x2 => 2
  | .f64 => 3

/-- The rounding code; 101-111 have none (R112). -/
def Rnd.ofCode (n : Nat) : Option Rnd :=
  match n with
  | 0 => some .rne
  | 1 => some .rz
  | 2 => some .ru
  | 3 => some .rd
  | 4 => some .sr
  | _ => none

def Rnd.code : Rnd → Nat
  | .rne => 0
  | .rz => 1
  | .ru => 2
  | .rd => 3
  | .sr => 4

/-- The relation code; 110 and 111 have none (R131, R177). -/
def Rel.ofCode (n : Nat) : Option Rel :=
  match n with
  | 0 => some .eq
  | 1 => some .ne
  | 2 => some .lt
  | 3 => some .le
  | 4 => some .gt
  | 5 => some .ge
  | _ => none

def Rel.code : Rel → Nat
  | .eq => 0
  | .ne => 1
  | .lt => 2
  | .le => 3
  | .gt => 4
  | .ge => 5

/-- The scope code; 6 and 7 have none (R112). -/
def Scope.ofCode (n : Nat) : Option Scope :=
  match n with
  | 0 => some .crew
  | 1 => some .cluster
  | 2 => some .die
  | 3 => some .device
  | 4 => some .tenant
  | 5 => some .system
  | _ => none

def Scope.code : Scope → Nat
  | .crew => 0
  | .cluster => 1
  | .die => 2
  | .device => 3
  | .tenant => 4
  | .system => 5

/-- The space code; 11 has none (R197). -/
def Space.ofCode (n : Nat) : Option Space :=
  match n with
  | 0 => some .g
  | 1 => some .x
  | 2 => some .pv
  | _ => none

def Space.code : Space → Nat
  | .g => 0
  | .x => 1
  | .pv => 2

/-- The width code; 110 and 111 have none (R197). -/
def Width.ofCode (n : Nat) : Option Width :=
  match n with
  | 0 => some .u8
  | 1 => some .s8
  | 2 => some .u16
  | 3 => some .s16
  | 4 => some .w32
  | 5 => some .w64
  | _ => none

def Width.code : Width → Nat
  | .u8 => 0
  | .s8 => 1
  | .u16 => 2
  | .s16 => 3
  | .w32 => 4
  | .w64 => 5

/-- The bytes an access of a width moves (R197). -/
def Width.bytes : Width → Nat
  | .u8 | .s8 => 1
  | .u16 | .s16 => 2
  | .w32 => 4
  | .w64 => 8

/-- PSET's variant (R149). -/
def PsetOp.ofCode (n : Nat) : Option PsetOp :=
  match n with
  | 0 => some .and
  | 1 => some .or
  | 2 => some .xor
  | _ => none

def PsetOp.code : PsetOp → Nat
  | .and => 0
  | .or => 1
  | .xor => 2

/-- VOTE's variant (R153). -/
def VoteKind.ofCode (n : Nat) : Option VoteKind :=
  match n with
  | 0 => some .ballot
  | 1 => some .any
  | 2 => some .all
  | _ => none

def VoteKind.code : VoteKind → Nat
  | .ballot => 0
  | .any => 1
  | .all => 2

/-- SHFL's variant (R154). -/
def ShflKind.ofCode (n : Nat) : Option ShflKind :=
  match n with
  | 0 => some .idx
  | 1 => some .up
  | 2 => some .down
  | 3 => some .xorl
  | _ => none

def ShflKind.code : ShflKind → Nat
  | .idx => 0
  | .up => 1
  | .down => 2
  | .xorl => 3

/-- The operation code of REDUX and SCAN; 011 and 111 have none (R155). -/
def RedOp.ofCode (n : Nat) : Option RedOp :=
  match n with
  | 0 => some .add
  | 1 => some .max
  | 2 => some .min
  | 4 => some .and
  | 5 => some .or
  | 6 => some .xor
  | _ => none

def RedOp.code : RedOp → Nat
  | .add => 0
  | .max => 1
  | .min => 2
  | .and => 4
  | .or => 5
  | .xor => 6

/-- Whether REDUX's operation is bitwise (R155). -/
def RedOp.bitwise : RedOp → Bool
  | .and | .or | .xor => true
  | _ => false

/-- The type code of REDUX and SCAN (R155). -/
def RedTy.ofCode (n : Nat) : RedTy :=
  match n with
  | 0 => .int .s32
  | 1 => .int .u32
  | 2 => .int .s64
  | 3 => .int .u64
  | 4 => .flt .f32
  | 5 => .flt .f16x2
  | 6 => .flt .bf16x2
  | _ => .flt .f64

def RedTy.code : RedTy → Nat
  | .int t => t.code
  | .flt t => 4 + t.code

def RedTy.wide : RedTy → Bool
  | .int t => t.wide
  | .flt t => t.wide

/-- ATOM's operation code (R207). -/
def AtomOp.ofCode (n : Nat) : AtomOp :=
  match n with
  | 0 => .add
  | 1 => .exch
  | 2 => .and
  | 3 => .or
  | 4 => .minS
  | 5 => .maxS
  | 6 => .minU
  | _ => .maxU

def AtomOp.code : AtomOp → Nat
  | .add => 0
  | .exch => 1
  | .and => 2
  | .or => 3
  | .minS => 4
  | .maxS => 5
  | .minU => 6
  | .maxU => 7

/-- ATOMF's operation code; 101-111 have none (R209). -/
def AtomFOp.ofCode (n : Nat) : Option AtomFOp :=
  match n with
  | 0 => some .addF32
  | 1 => some .minF32
  | 2 => some .maxF32
  | 3 => some .addF16x2
  | 4 => some .addBF16x2
  | _ => none

def AtomFOp.code : AtomFOp → Nat
  | .addF32 => 0
  | .minF32 => 1
  | .maxF32 => 2
  | .addF16x2 => 3
  | .addBF16x2 => 4

/-- The kind code of a draw; 011-111 have none (R321). -/
def DrawKind.ofCode (n : Nat) : Option DrawKind :=
  match n with
  | 0 => some .u32
  | 1 => some .f32
  | 2 => some .u64
  | _ => none

def DrawKind.code : DrawKind → Nat
  | .u32 => 0
  | .f32 => 1
  | .u64 => 2

/-- IDP4's variant (R129). -/
def Idp4B.ofCode (n : Nat) : Option Idp4B :=
  match n with
  | 0 => some .same
  | 1 => some .u8
  | 2 => some .s8
  | _ => none

def Idp4B.code : Idp4B → Nat
  | .same => 0
  | .u8 => 1
  | .s8 => 2

/-- The element count E of a packed register (R70, R188): 8, 4, 5 or 2; 0 for a code outside 0x01-0x09. -/
def packElems (f : Nat) : Nat :=
  match f with
  | 1 | 2 | 5 => 8
  | 3 | 4 | 7 => 4
  | 6 => 5
  | 8 | 9 => 2
  | _ => 0

/-- The registers of a run that holds `e` elements of a floating type (R188, R192). -/
def packRun (e : Nat) : FTy → Nat
  | .f32 => e
  | .f16x2 | .bf16x2 => (e + 1) / 2
  | .f64 => 2 * e

namespace Raw

/-- A channel operand's code: bits [7:4] zero (R108). -/
def chanOf (v : BitVec 8) (pop : Bool) : Option Opnd :=
  if v.toNat < 16 then some (.chan (v.setWidth 4) pop) else none

def dN (r : Raw) : Option Opnd := if r.d = 0 ∧ r.dch = false then some .none else none
def dR (r : Raw) : Option Opnd := if r.dch then none else some (.reg r.d)
def dC (r : Raw) : Option Opnd := if r.dch then chanOf r.d false else some (.reg r.d)
def dP (r : Raw) : Option Opnd := if r.dch then none else some (.pair r.d)
def dW (r : Raw) (wide : Bool) : Option Opnd := if wide then r.dP else r.dC
def dWR (r : Raw) (wide : Bool) : Option Opnd := if wide then r.dP else r.dR
def dQ (r : Raw) : Option Opnd := if r.dch then none else some (.pred r.d)
def dRun (r : Raw) (n : Nat) : Option Opnd := if r.dch then none else some (.run r.d n)

def aN (r : Raw) : Option Opnd := if r.a = 0 ∧ r.ach = false ∧ r.apop = false then some .none else none
def aR (r : Raw) : Option Opnd := if r.ach || r.apop then none else some (.reg r.a)
def aC (r : Raw) : Option Opnd := if r.ach then chanOf r.a r.apop else r.aR
def aP (r : Raw) : Option Opnd := if r.ach || r.apop then none else some (.pair r.a)
def aW (r : Raw) (wide : Bool) : Option Opnd := if wide then r.aP else r.aC
def aQ (r : Raw) : Option Opnd := if r.ach || r.apop then none else some (.pred r.a)
def aRun (r : Raw) (n : Nat) : Option Opnd := if r.ach || r.apop then none else some (.run r.a n)

def bN (r : Raw) : Option Opnd := if r.b = 0 ∧ r.bch = false ∧ r.bpop = false then some .none else none
def bR (r : Raw) : Option Opnd := if r.bch || r.bpop then none else some (.reg r.b)
def bC (r : Raw) : Option Opnd := if r.bch then chanOf r.b r.bpop else r.bR
def bP (r : Raw) : Option Opnd := if r.bch || r.bpop then none else some (.pair r.b)
def bW (r : Raw) (wide : Bool) : Option Opnd := if wide then r.bP else r.bC
def bWR (r : Raw) (wide : Bool) : Option Opnd := if wide then r.bP else r.bR
def bQ (r : Raw) : Option Opnd := if r.bch || r.bpop then none else some (.pred r.b)
def bRun (r : Raw) (n : Nat) : Option Opnd := if r.bch || r.bpop then none else some (.run r.b n)
/-- B as a raw 8-bit value, BCH and BPOP zero (R111, R127, R162, R188, R321). -/
def bX (r : Raw) : Option Opnd := if r.bch || r.bpop then none else some (.imm r.b)

def cN (r : Raw) : Option Opnd := if r.c = 0 ∧ r.cimm = false then some .none else none
def cR (r : Raw) : Option Opnd := if r.cimm then none else some (.reg r.c)
def cP (r : Raw) : Option Opnd := if r.cimm then none else some (.pair r.c)
def cWR (r : Raw) (wide : Bool) : Option Opnd := if wide then r.cP else r.cR
def cQ (r : Raw) : Option Opnd := if r.cimm then none else some (.pred r.c)
def cRun (r : Raw) (n : Nat) : Option Opnd := if r.cimm then none else some (.run r.c n)
/-- C as a required immediate in lo..hi (R105). -/
def cI (r : Raw) (lo hi : Nat) : Option Opnd :=
  if r.cimm ∧ lo ≤ r.c.toNat ∧ r.c.toNat ≤ hi then some (.imm r.c) else none
/-- C as a register or an immediate in lo..hi. -/
def cRI (r : Raw) (lo hi : Nat) : Option Opnd := if r.cimm then r.cI lo hi else r.cR
def cWRI (r : Raw) (wide : Bool) : Option Opnd := if r.cimm then r.cI 0 255 else r.cWR wide

/-- The second source S (R119): register form B with C zero, or immediate form C with B zero. -/
def s (r : Raw) (wide : Bool) : Option (Opnd × Opnd) :=
  if r.cimm then do return (← r.bN, ← r.cI 0 255) else do return (← r.bW wide, ← r.cN)

/-- MOD[5:3] and MOD[2:0] (R112). -/
def hi3 (r : Raw) : Nat := r.md.toNat / 8
def lo3 (r : Raw) : Nat := r.md.toNat % 8

/-- An integer type with variant 000 and SAT = 0 (R112). -/
def ity (r : Raw) : Option IntTy :=
  if r.hi3 = 0 ∧ r.lo3 < 4 then some (IntTy.ofCode r.lo3) else none
/-- An integer type and SAT with variant 000. -/
def itySat (r : Raw) : Option (IntTy × Bool) :=
  if r.hi3 = 0 then some (IntTy.ofCode (r.lo3 % 4), 4 ≤ r.lo3) else none
/-- A type with SAT = 0 whatever the variant, which the entry reads itself. -/
def ityV (r : Raw) : Option IntTy := if r.lo3 < 4 then some (IntTy.ofCode r.lo3) else none
/-- A floating type and a rounding, rne to rd. -/
def ftyRnd (r : Raw) : Option (FTy × Rnd) := do
  let t ← FTy.ofCode r.lo3
  let m ← Rnd.ofCode r.hi3
  need (m != .sr)
  return (t, m)
/-- A floating type with rounding 000 only. -/
def fty0 (r : Raw) : Option FTy := if r.hi3 = 0 then FTy.ofCode r.lo3 else none
/-- MOD zero. -/
def m0 (r : Raw) : Option Unit := need (r.md == 0)
/-- A scope in MOD[2:0] with MOD[5:3] zero. -/
def scope0 (r : Raw) : Option Scope := if r.hi3 = 0 then Scope.ofCode r.lo3 else none
/-- The variants 000 plain and 001 `.try`. -/
def try? (r : Raw) : Option Bool :=
  if r.md = 0 then some false else if r.md = 8 then some true else none

/-- Whether LA may be nonzero by the opcode alone (R113). -/
def longOp (r : Raw) : Bool :=
  (0x28 ≤ r.op.toNat && r.op.toNat ≤ 0x30) ||
  [0x80, 0x82, 0x84, 0x85, 0x86, 0x8F, 0x92, 0xE0, 0xE1].contains r.op.toNat ||
  (r.op.toNat == 0x41 && r.hi3 == 4)

/-- The guard and the lookahead field, checked (R106, R113). -/
def head (r : Raw) : Option (Guard × BitVec 4) :=
  if (r.grd.toNat < 24 ∨ (r.grd = 31 ∧ r.gneg = false)) ∧
     (r.la = 0 ∨ r.longOp = true ∨ r.apop = true ∨ r.bpop = true)
  then some (⟨r.grd, r.gneg⟩, r.la) else none

/-- The operand fields, once each has its reading. -/
def args (r : Raw) (d a b c : Opnd) : Option Args :=
  match r.head with
  | some (g, la) => some ⟨g, la, d, a, b, c⟩
  | none => none

/-- D, A and S of an integer or logic entry (R122, R123). -/
def das (r : Raw) (wide sWide : Bool) : Option Args := do
  let (b, c) ← r.s sWide
  r.args (← r.dW wide) (← r.aW wide) b c

/-- Every operand field zero. -/
def zzzz (r : Raw) : Option Args := do r.args (← r.dN) (← r.aN) (← r.bN) (← r.cN)

end Raw

open Raw

/-- Group 0 (R122-R137). -/
def decodeG0 (r : Raw) : Option Instr :=
  match r.op.toNat with
  | 0x00 => do r.m0; return .nop (← r.zzzz)
  | 0x01 => do let (t, s) ← r.itySat; return .iadd (← r.das t.wide t.wide) t s
  | 0x02 => do let (t, s) ← r.itySat; return .isub (← r.das t.wide t.wide) t s
  | 0x03 => do let (t, s) ← r.itySat; return .imul (← r.das t.wide t.wide) t s
  | 0x04 => do let t ← r.ity; return .imulhi (← r.das t.wide t.wide) t
  | 0x05 => do
    let (t, s) ← r.itySat
    return .imad (← r.args (← r.dW t.wide) (← r.aW t.wide) (← r.bW t.wide) (← r.cWRI t.wide)) t s
  | 0x06 => do let t ← r.ity; return .imin (← r.das t.wide t.wide) t
  | 0x07 => do let t ← r.ity; return .imax (← r.das t.wide t.wide) t
  | 0x08 => do
    let (t, s) ← r.itySat
    need t.signed
    return .iabs (← r.args (← r.dW t.wide) (← r.aW t.wide) (← r.bN) (← r.cN)) t s
  | 0x09 => do let t ← r.ity; return .and (← r.das t.wide t.wide) t
  | 0x0A => do let t ← r.ity; return .or (← r.das t.wide t.wide) t
  | 0x0B => do let t ← r.ity; return .xor (← r.das t.wide t.wide) t
  | 0x0C => do let t ← r.ity; return .andn (← r.das t.wide t.wide) t
  | 0x0D => do
    let t ← r.ity
    return .lop3 (← r.args (← r.dWR t.wide) (← r.aW t.wide) (← r.bW t.wide) (← r.cI 0 255)) t
  | 0x0E => do let t ← r.ity; return .shl (← r.das t.wide false) t
  | 0x0F => do let t ← r.ity; return .shr (← r.das t.wide false) t
  | 0x10 => do let t ← r.ity; return .sar (← r.das t.wide false) t
  | 0x11 => do let t ← r.ity; return .rotl (← r.das t.wide false) t
  | 0x12 => do let t ← r.ity; return .popc (← r.args (← r.dC) (← r.aW t.wide) (← r.bN) (← r.cN)) t
  | 0x13 => do let t ← r.ity; return .clz (← r.args (← r.dC) (← r.aW t.wide) (← r.bN) (← r.cN)) t
  | 0x14 => do let t ← r.ity; return .brev (← r.args (← r.dW t.wide) (← r.aW t.wide) (← r.bN) (← r.cN)) t
  | 0x15 => do
    let t ← r.ityV
    if r.hi3 = 0 then return .bfx (← r.args (← r.dW t.wide) (← r.aW t.wide) (← r.bC) (← r.cR)) t
    else if r.hi3 = 1 then return .bfx (← r.args (← r.dW t.wide) (← r.aW t.wide) (← r.bX) (← r.cI 0 255)) t
    else none
  | 0x16 => do
    let t ← r.ityV
    need (!t.signed)
    if r.hi3 = 0 then return .bfi (← r.args (← r.dWR t.wide) (← r.aW t.wide) (← r.bC) (← r.cR)) t
    else if r.hi3 = 1 then return .bfi (← r.args (← r.dWR t.wide) (← r.aW t.wide) (← r.bX) (← r.cI 0 255)) t
    else none
  | 0x17 => do r.m0; return .prmt (← r.args (← r.dC) (← r.aC) (← r.bC) (← r.cR))
  | 0x18 => do
    let bb ← Idp4B.ofCode r.hi3
    let t := IntTy.ofCode (r.lo3 % 4)
    need (!t.wide)
    return .idp4 (← r.args (← r.dC) (← r.aC) (← r.bC) (← r.cWRI false)) t (4 ≤ r.lo3) bb
  | 0x19 => do
    let t ← r.ity
    need (!t.wide)
    return .lea (← r.args (← r.dP) (← r.aC) (← r.bP) (← r.cI 0 63)) t
  | 0x1A => do
    let t ← r.ityV
    let rel ← Rel.ofCode r.hi3
    let (b, c) ← r.s t.wide
    return .icmp (← r.args (← r.dQ) (← r.aW t.wide) b c) t rel
  | 0x1B => do
    let t ← r.ity
    return .sel (← r.args (← r.dW t.wide) (← r.aW t.wide) (← r.bW t.wide) (← r.cQ)) t
  | 0x1C => do let t ← r.ity; return .mov (← r.args (← r.dW t.wide) (← r.aW t.wide) (← r.bN) (← r.cN)) t
  | 0x1E => do r.m0; return .movs (← r.args (← r.dR) (← r.aN) (← r.bN) (← r.cI 0 255))
  | 0x1F => do
    r.m0
    return .movsw (← r.args (← r.dN) (← r.aW (r.c == 0x32)) (← r.bN) (← r.cI 0 255))
  | _ => none

/-- Groups 1 and 2 (R172, R187-R195). -/
def decodeG12 (r : Raw) : Option Instr :=
  match r.op.toNat with
  | 0x20 => do let (t, m) ← r.ftyRnd; return .fadd (← r.args (← r.dW t.wide) (← r.aW t.wide) (← r.bW t.wide) (← r.cN)) t m
  | 0x21 => do let (t, m) ← r.ftyRnd; return .fsub (← r.args (← r.dW t.wide) (← r.aW t.wide) (← r.bW t.wide) (← r.cN)) t m
  | 0x22 => do let (t, m) ← r.ftyRnd; return .fmul (← r.args (← r.dW t.wide) (← r.aW t.wide) (← r.bW t.wide) (← r.cN)) t m
  | 0x23 => do
    let (t, m) ← r.ftyRnd
    return .ffma (← r.args (← r.dW t.wide) (← r.aW t.wide) (← r.bW t.wide) (← r.cWR t.wide)) t m
  | 0x24 => do let t ← r.fty0; return .fmin (← r.args (← r.dW t.wide) (← r.aW t.wide) (← r.bW t.wide) (← r.cN)) t
  | 0x25 => do let t ← r.fty0; return .fmax (← r.args (← r.dW t.wide) (← r.aW t.wide) (← r.bW t.wide) (← r.cN)) t
  | 0x26 => do
    let t ← FTy.ofCode r.lo3
    need (t == .f32 || t == .f64)
    let rel ← Rel.ofCode r.hi3
    return .fcmp (← r.args (← r.dQ) (← r.aW t.wide) (← r.bW t.wide) (← r.cN)) t rel
  | 0x27 => do
    let t ← r.fty0
    need (t == .f32 || t == .f64)
    return .fclass (← r.args (← r.dC) (← r.aW t.wide) (← r.bN) (← r.cN)) t
  | 0x28 => do
    let (t, m) ← r.ftyRnd
    need (t == .f32 || t == .f64)
    return .fdiv (← r.args (← r.dW t.wide) (← r.aW t.wide) (← r.bW t.wide) (← r.cN)) t m
  | 0x29 => do
    let (t, m) ← r.ftyRnd
    need (t == .f32 || t == .f64)
    return .fsqrt (← r.args (← r.dW t.wide) (← r.aW t.wide) (← r.bN) (← r.cN)) t m
  | 0x2A => do
    let (t, m) ← r.ftyRnd
    need (t == .f32 || t == .f64)
    return .frcp (← r.args (← r.dW t.wide) (← r.aW t.wide) (← r.bN) (← r.cN)) t m
  | 0x2B => do r.m0; return .frsq (← r.args (← r.dC) (← r.aC) (← r.bN) (← r.cN))
  | 0x2C => do r.m0; return .fexp2 (← r.args (← r.dC) (← r.aC) (← r.bN) (← r.cN))
  | 0x2D => do r.m0; return .flog2 (← r.args (← r.dC) (← r.aC) (← r.bN) (← r.cN))
  | 0x2E => do r.m0; return .fsinpi (← r.args (← r.dC) (← r.aC) (← r.bN) (← r.cN))
  | 0x2F => do r.m0; return .fcospi (← r.args (← r.dC) (← r.aC) (← r.bN) (← r.cN))
  | 0x30 => do r.m0; return .ftanh (← r.args (← r.dC) (← r.aC) (← r.bN) (← r.cN))
  | 0x31 => do
    let (t, m) ← r.ftyRnd
    let (b, c) ← r.s false
    return .fscale (← r.args (← r.dW t.wide) (← r.aW t.wide) b c) t m
  | 0x32 => do
    let (t, m) ← r.ftyRnd
    need (t == .f16x2 || t == .bf16x2)
    return .fdot2 (← r.args (← r.dC) (← r.aC) (← r.bC) (← r.cR)) t m
  | 0x33 => do
    let (t, m) ← r.ftyRnd
    need (t == .f32)
    return .welf (← r.args (← r.dRun 3) (← r.aC) (← r.bN) (← r.cN)) m
  | 0x34 => do
    let (t, m) ← r.ftyRnd
    need (t == .f32)
    return .wmerge (← r.args (← r.dRun 3) (← r.aRun 3) (← r.bN) (← r.cN)) m
  | 0x35 => do
    let t ← r.fty0
    need (t != .f64)
    let c ← if r.cimm then r.cI 0 0 else r.cQ
    return .famax (← r.args (← r.dR) (← r.aC) (← r.bN) c) t
  | 0x40 => do
    let (t, m) ← r.ftyRnd
    need (t == .f32)
    need (r.c.toNat % 16 < 8 && r.c.toNat / 16 < 8)
    let w (k : Nat) : Bool := k == 3 || k == 6 || k == 7
    return .cvt (← r.args (← r.dW (w (r.c.toNat % 16))) (← r.aW (w (r.c.toNat / 16))) (← r.bN) (← r.cI 0 255)) m
  | 0x41 => do
    let t ← FTy.ofCode r.lo3
    let m ← Rnd.ofCode r.hi3
    let c ← r.cI 1 9
    need (!(m == .sr && r.c.toNat ≤ 4))
    return .cvtn (← r.args (← r.dC) (← r.aRun (packRun (packElems r.c.toNat) t)) (← r.bX) c) t m
  | 0x42 => do
    let t ← r.fty0
    let c ← r.cI 1 9
    need (!(t == .f16x2 && r.c == 9) && !(t == .bf16x2 && r.c == 8))
    return .cvtw (← r.args (← r.dRun (packRun (packElems r.c.toNat) t)) (← r.aC) (← r.bN) c) t
  | 0x43 => do
    let (t, m) ← r.ftyRnd
    need (t != .f64)
    let c ← r.cI 1 4
    return .qnt (← r.args (← r.dC) (← r.aRun (packRun (packElems r.c.toNat) t)) (← r.bR) c) t m
  | 0x44 => do
    let (t, m) ← r.ftyRnd
    need (t != .f64)
    let c ← r.cI 1 4
    return .dqnt (← r.args (← r.dRun (packRun (packElems r.c.toNat) t)) (← r.aC) (← r.bR) c) t m
  | _ => none

/-- The 24-bit parcel offset of BRA and CALL, class and pop bits zero (R143). -/
def branchOff (r : Raw) : Option (BitVec 24) :=
  if r.dch || r.ach || r.apop || r.bch || r.bpop then none else some (r.b ++ r.a ++ r.d)

/-- Group 3 (R143-R167). -/
def decodeG3 (r : Raw) : Option Instr :=
  match r.op.toNat with
  | 0x60 => do r.m0; let o ← branchOff r; return .bra (← r.args .none .none .none (← r.cN)) o
  | 0x61 => do r.m0; return .brx (← r.args (← r.dN) (← r.aP) (← r.bN) (← r.cN))
  | 0x62 => do r.m0; let o ← branchOff r; return .call (← r.args .none .none .none (← r.cN)) o
  | 0x63 => do r.m0; return .callx (← r.args (← r.dN) (← r.aP) (← r.bN) (← r.cN))
  | 0x64 => do r.m0; return .ret (← r.zzzz)
  | 0x65 => do r.m0; return .exit (← r.zzzz)
  | 0x66 => do
    let t ← r.try?
    let x ← r.zzzz
    return if t then .yieldRole x else .yield x
  | 0x67 => do
    r.m0
    let (b, c) ← r.s false
    return .nap (← r.args (← r.dN) (← r.aN) b c)
  | 0x68 => do
    need (r.lo3 == 0)
    let o ← PsetOp.ofCode r.hi3
    return .pset (← r.args (← r.dQ) (← r.aQ) (← r.bQ) (← r.cI 0 7)) o
  | 0x69 => do
    need (r.lo3 == 0)
    if r.hi3 = 0 then return .pmov (← r.args (← r.dC) (← r.aN) (← r.bN) (← r.cN))
    else if r.hi3 = 1 then return .pmov (← r.args (← r.dN) (← r.aC) (← r.bC) (← r.cN))
    else none
  | 0x6A => do
    need (r.lo3 == 0)
    let k ← VoteKind.ofCode r.hi3
    let (b, c) ← r.s false
    let d ← if k == .ballot then r.dC else r.dQ
    return .vote (← r.args d (← r.aQ) b c) k
  | 0x6B => do
    let t ← r.ityV
    let k ← ShflKind.ofCode r.hi3
    return .shfl (← r.args (← r.dW t.wide) (← r.aW t.wide) (← r.bC) (← r.cRI 0 255)) k t
  | 0x6C => do
    let o ← RedOp.ofCode r.hi3
    let t := RedTy.ofCode r.lo3
    need (!(o.bitwise && 4 ≤ r.lo3))
    return .redux (← r.das t.wide false) o t
  | 0x6D => do
    let o ← RedOp.ofCode r.hi3
    let t := RedTy.ofCode r.lo3
    need (!(o.bitwise && 4 ≤ r.lo3))
    return .scan (← r.das t.wide false) o t
  | 0x6E => do
    let t ← r.ity
    let (b, c) ← r.s false
    return .matchL (← r.args (← r.dC) (← r.aW t.wide) b c) t
  | 0x6F => do
    r.m0
    let (b, c) ← r.s false
    return .part (← r.args (← r.dN) (← r.aN) b c)
  | 0x70 => do
    r.m0
    let (b, c) ← r.s false
    return .sqbar (← r.args (← r.dN) (← r.aN) b c)
  | 0x71 => do r.m0; return .crbar (← r.args (← r.dN) (← r.aN) (← r.bN) (← r.cI 0 15))
  | 0x72 => do
    r.m0
    if r.ach || r.apop || r.bch || r.bpop then none
    else return .mark (← r.args (← r.dN) .none .none (← r.cN)) (r.b ++ r.a)
  | 0x73 => do r.m0; return .regb (← r.zzzz)
  | 0x74 => do r.m0; return .bkpt (← r.args (← r.dN) (← r.aN) (← r.bN) (← r.cI 0 255))
  | 0x75 => do r.m0; return .trap (← r.args (← r.dN) (← r.aN) (← r.bN) (← r.cI 0 15))
  | _ => none

/-- The B operand of a memory operand: the offset byte of the full form, zero in the long form (R110, R111). -/
def memB (r : Raw) (long : Bool) : Option Opnd := if long then r.bN else r.bX

/-- The memory operand's base by space: one register for `.x`, a pair otherwise (R52, R198). -/
def memA (r : Raw) (sp : Space) : Option Opnd := if sp = .x then r.aR else r.aP

/-- LD and WAITA's space in MOD[1:0], MOD[2] zero (R196, R197). -/
def spaceOf (r : Raw) : Option Space := if r.lo3 < 4 then Space.ofCode r.lo3 else none

/-- The memory instructions in their full (`lit = none`) and long forms (R196, R110). -/
def decodeMem (r : Raw) (lit : Option Word) : Option Instr :=
  let lg := lit.isSome
  let l := lit.getD 0
  match r.op.toNat with
  | 0x80 => do
    let w ← Width.ofCode r.hi3
    let sp ← spaceOf r
    let x ← r.args (← r.dW (w == .w64)) (← memA r sp) (← memB r lg) (← r.cN)
    return if lg then .ldLong x w sp l else .ld x w sp
  | 0x81 => do
    let w ← Width.ofCode r.hi3
    let sp ← spaceOf r
    let x ← r.args (← r.dN) (← memA r sp) (← memB r lg) (← r.cWR (w == .w64))
    return if lg then .stLong x w sp l else .st x w sp
  | 0x84 => do
    let sc ← Scope.ofCode r.lo3
    let o := AtomOp.ofCode r.hi3
    let x ← r.args (← r.dR) (← r.aP) (← memB r lg) (← r.cR)
    return if lg then .atomLong x o sc l else .atom x o sc
  | 0x85 => do
    let sc ← Scope.ofCode r.lo3
    need (r.hi3 < 2)
    let w := r.hi3 == 1
    let x ← r.args (← r.dWR w) (← r.aP) (← memB r lg) (← r.cRun (if w then 4 else 2))
    return if lg then .atomcasLong x w sc l else .atomcas x w sc
  | 0x86 => do
    let sc ← Scope.ofCode r.lo3
    let o ← AtomFOp.ofCode r.hi3
    let x ← r.args (← r.dR) (← r.aP) (← memB r lg) (← r.cR)
    return if lg then .atomfLong x o sc l else .atomf x o sc
  | 0x87 => do
    r.m0
    let x ← r.args (← r.dN) (← r.aP) (← memB r lg) (← r.cN)
    return if lg then .prefLong x l else .pref x
  | 0x89 => do
    let sc ← r.scope0
    let x ← r.args (← r.dP) (← r.aP) (← memB r lg) (← r.cN)
    return if lg then .acqLong x sc l else .acq x sc
  | 0x8A => do
    let sc ← r.scope0
    let x ← r.args (← r.dN) (← r.aP) (← memB r lg) (← r.cP)
    return if lg then .relLong x sc l else .rel x sc
  | 0x8B => do
    r.m0
    let x ← r.args (← r.dP) (← r.aP) (← memB r lg) (← r.cR)
    return if lg then .bindLong x l else .bind x
  | 0x8C => do
    r.m0
    let x ← r.args (← r.dN) (← r.aP) (← memB r lg) (← r.cN)
    return if lg then .unbindLong x l else .unbind x
  | 0x8D => do
    let sc ← r.scope0
    let x ← r.args (← r.dN) (← r.aP) (← memB r lg) (← r.cN)
    return if lg then .promoLong x sc l else .promo x sc
  | 0x8E => do
    need (r.hi3 < 2)
    let sp ← spaceOf r
    need (sp != .pv)
    let x ← r.args (← r.dR) (← memA r sp) (← memB r lg) (← r.cR)
    return if lg then .waitaLong x (r.hi3 == 1) sp l else .waita x (r.hi3 == 1) sp
  | 0x8F => do
    let sc ← r.scope0
    let x ← r.args (← r.dR) (← r.aP) (← memB r lg) (← r.cN)
    return if lg then .futrLong x sc l else .futr x sc
  | 0x90 => do
    let sc ← r.scope0
    let x ← r.args (← r.dN) (← r.aP) (← memB r lg) (← r.cR)
    return if lg then .futwLong x sc l else .futw x sc
  | 0xCC => do
    r.m0
    let x ← r.args (← r.dN) (← r.aP) (← memB r lg) (← r.cR)
    return if lg then .mbxdoneLong x l else .mbxdone x
  | _ => none

/-- Groups 4 and 5 without a memory operand (R196). -/
def decodeG45 (r : Raw) : Option Instr :=
  match r.op.toNat with
  | 0x82 => do r.m0; return .ldt (← r.args (← r.dC) (← r.aRun 4) (← r.bN) (← r.cI 0 255))
  | 0x83 => do r.m0; return .stt (← r.args (← r.dN) (← r.aRun 4) (← r.bR) (← r.cI 0 255))
  | 0x88 => do let sc ← r.scope0; return .fence (← r.zzzz) sc
  | 0x91 => do
    let t ← r.try?
    let d ← if t then r.dQ else r.dN
    return .push (← r.args d (← r.aC) (← r.bN) (← r.cRun 0)) t
  | 0x92 => do
    let t ← r.try?
    let c ← if t then r.cQ else r.cN
    return .pop (← r.args (← r.dRun 0) (← r.aC) (← r.bN) c) t
  | 0x93 => do r.m0; return .qcfg (← r.args (← r.dN) (← r.aC) (← r.bN) (← r.cRun 8))
  | 0x94 => do r.m0; return .qstat (← r.args (← r.dP) (← r.aC) (← r.bN) (← r.cN))
  | 0xA0 => do r.m0; return .cpy (← r.args (← r.dN) (← r.aRun 4) (← r.bRun 4) (← r.cI 0 255))
  | 0xA1 => do r.m0; return .cpyg (← r.args (← r.dN) (← r.aRun 4) (← r.bRun 4) (← r.cI 0 255))
  | 0xA2 => do r.m0; return .cpys (← r.args (← r.dN) (← r.aRun 4) (← r.bRun 4) (← r.cI 0 255))
  | 0xA3 => do r.m0; return .cpyc (← r.args (← r.dN) (← r.aRun 4) (← r.bRun 8) (← r.cI 0 255))
  | 0xA4 => do r.m0; return .cseal (← r.zzzz)
  | 0xA5 => do r.m0; return .cwait (← r.args (← r.dN) (← r.aN) (← r.bN) (← r.cI 0 7))
  | 0xA6 => do
    r.m0
    let c ← r.cI 0 63
    let k := r.c.toNat / 16
    let a ← if k = 1 ∨ k = 2 then r.aR else r.aN
    return .chset (← r.args (← r.dN) a (← r.bN) c)
  | 0xA7 => do r.m0; return .chstat (← r.args (← r.dR) (← r.aN) (← r.bN) (← r.cI 0 15))
  | 0xA8 => do r.m0; return .mxreq (← r.args (← r.dN) (← r.aRun 8) (← r.bN) (← r.cN))
  | _ => none

/-- Group 6 but MBXDONE (R315). -/
def decodeG6 (r : Raw) : Option Instr :=
  match r.op.toNat with
  | 0xC0 => do r.m0; return .palw (← r.args (← r.dN) (← r.aRun 16) (← r.bN) (← r.cRI 0 255))
  | 0xC1 => do r.m0; return .palr (← r.args (← r.dRun 16) (← r.aN) (← r.bN) (← r.cRI 0 255))
  | 0xC2 => do r.m0; return .mxla (← r.args (← r.dN) (← r.aRun 4) (← r.bN) (← r.cRI 0 255))
  | 0xC3 => do r.m0; return .mxlb (← r.args (← r.dN) (← r.aRun 4) (← r.bN) (← r.cRI 0 255))
  | 0xC4 => do r.m0; return .mxmm (← r.args (← r.dN) (← r.aN) (← r.bN) (← r.cRI 1 128))
  | 0xC5 => do r.m0; return .mxepi (← r.args (← r.dN) (← r.aRun 4) (← r.bN) (← r.cN))
  | 0xC6 => do r.m0; return .mxtile (← r.args (← r.dN) (← r.aRun 8) (← r.bN) (← r.cN))
  | 0xC7 => do r.m0; return .mxsync (← r.zzzz)
  | 0xC8 => do r.m0; return .cvzero (← r.zzzz)
  | 0xC9 => do r.m0; return .cvld (← r.args (← r.dN) (← r.aRun 4) (← r.bN) (← r.cRI 0 255))
  | 0xCA => do r.m0; return .cvst (← r.args (← r.dN) (← r.aRun 4) (← r.bN) (← r.cRI 0 255))
  | 0xCB => do
    let t ← r.try?
    let c ← if t then r.cQ else r.cN
    return .mbxpop (← r.args (← r.dRun 8) (← r.aN) (← r.bN) c) t
  | _ => none

/-- Group 7 (R321, R334, R335, R369, R396, R439, R446, R449). -/
def decodeG7 (r : Raw) : Option Instr :=
  match r.op.toNat with
  | 0xE0 => do
    need (r.lo3 == 0)
    let k ← DrawKind.ofCode r.hi3
    return .draw (← r.args (← r.dWR (k == .u64)) (← r.aN) (← r.bN) (← r.cI 0 7)) k
  | 0xE1 => do
    need (r.lo3 == 0)
    let k ← DrawKind.ofCode r.hi3
    need (r.b.toNat < 8)
    return .drawk (← r.args (← r.dWR (k == .u64)) (← r.aP) (← r.bX) (← r.cRI 0 255)) k
  | 0xE2 => do r.m0; return .result (← r.args (← r.dN) (← r.aR) (← r.bN) (← r.cI 0 3))
  | 0xE3 => do r.m0; return .mutl (← r.args (← r.dN) (← r.aP) (← r.bN) (← r.cN))
  | 0xE4 => do r.m0; return .spawn (← r.args (← r.dN) (← r.aP) (← r.bP) (← r.cI 1 32))
  | 0xE5 => do r.m0; return .trace (← r.args (← r.dN) (← r.aR) (← r.bR) (← r.cN))
  | 0xE6 => do r.m0; return .hinsp (← r.args (← r.dR) (← r.aN) (← r.bN) (← r.cI 0 255))
  | 0xE7 => do r.m0; return .hpoke (← r.args (← r.dN) (← r.aR) (← r.bN) (← r.cI 0 255))
  | 0xE8 => do r.m0; return .hresume (← r.args (← r.dN) (← r.aN) (← r.bN) (← r.cI 0 1))
  | 0xE9 => do r.m0; return .hret (← r.args (← r.dN) (← r.aN) (← r.bN) (← r.cI 0 0))
  | 0xEA => do
    r.m0
    let c ← r.cI 0 3
    if r.c.toNat % 2 = 0 then return .replay (← r.args (← r.dN) (← r.aP) (← r.bR) c)
    else return .replay (← r.args (← r.dN) (← r.aR) (← r.bN) c)
  | 0xEB => do
    r.m0
    let c ← r.cI 0 2
    if r.c = 0 then return .tlbinv (← r.args (← r.dN) (← r.aP) (← r.bR) c)
    else if r.c = 1 then return .tlbinv (← r.args (← r.dN) (← r.aN) (← r.bR) c)
    else return .tlbinv (← r.args (← r.dN) (← r.aN) (← r.bN) c)
  | _ => none

/-- Whether a major opcode is assigned (R116). -/
def opAssigned (op : Nat) : Bool :=
  op ≤ 0x35 || (0x40 ≤ op && op ≤ 0x44) || (0x60 ≤ op && op ≤ 0x75) || (0x80 ≤ op && op ≤ 0x94) ||
  (0xA0 ≤ op && op ≤ 0xA8) || (0xC0 ≤ op && op ≤ 0xCC) || (0xE0 ≤ op && op ≤ 0xEB)

/-- Whether an opcode has a memory operand, and so a long form (R110, R196). -/
def opMem (op : Nat) : Bool :=
  [0x80, 0x81, 0x84, 0x85, 0x86, 0x87, 0x89, 0x8A, 0x8B, 0x8C, 0x8D, 0x8E, 0x8F, 0x90, 0xCC].contains op

/-- The full form (R104): MOVI has none (R110). -/
def decodeFullFields (r : Raw) : Option Instr :=
  let op := r.op.toNat
  if opMem op then decodeMem r none
  else if op < 0x20 then decodeG0 r
  else if op < 0x60 then decodeG12 r
  else if op < 0x80 then decodeG3 r
  else if op < 0xC0 then decodeG45 r
  else if op < 0xE0 then decodeG6 r
  else decodeG7 r

/-- The long form (R110): MOVI, the memory operands and CHSET; every other opcode raises RESERVED_FIELD. -/
def decodeLongFields (r : Raw) (lit : Word) : Option Instr :=
  let op := r.op.toNat
  if opMem op then decodeMem r (some lit)
  else if op = 0x1D then do
    let t ← r.ity
    return .movi (← r.args (← r.dW t.wide) (← r.aN) (← r.bN) (← r.cN)) t lit
  else if op = 0xA6 then do
    r.m0
    return .chsetLong (← r.args (← r.dN) (← r.aN) (← r.bN) (← r.cI 0 63)) lit
  else none

/-- The 22 compact operations (R100, R101). `none` where a field shown as 0 is not, or a shift amount is above 31. -/
def decodeCompact (w : Word) : Except DecodeErr CInstr :=
  let i := w.extractLsb' 25 7
  let s := w.extractLsb' 17 8
  let d := w.extractLsb' 9 8
  let rs (k : BitVec 8 → BitVec 8 → CInstr) : Except DecodeErr CInstr :=
    if i = 0 then .ok (k d s) else .error .reservedField
  let sh (k : BitVec 8 → BitVec 7 → CInstr) : Except DecodeErr CInstr :=
    if s = 0 ∧ i.toNat < 32 then .ok (k d i) else .error .reservedField
  match (w.extractLsb' 3 6).toNat with
  | 0 => if i = 0 ∧ s = 0 ∧ d = 0 then .ok .nop else .error .reservedField
  | 1 => rs .mov
  | 2 => rs .iadd
  | 3 => rs .isub
  | 4 => rs .and
  | 5 => rs .or
  | 6 => rs .xor
  | 7 => sh .shl
  | 8 => sh .shr
  | 9 => sh .sar
  | 10 => if s = 0 then .ok (.iaddi d i) else .error .reservedField
  | 11 => .ok (.movi d (s ++ i))
  | 12 => rs .fadd
  | 13 => rs .fmul
  | 14 => rs .fmax
  | 15 => rs .fmin
  | 16 => rs .imul
  | 17 => rs .imin
  | 18 => rs .imax
  | 19 => .ok (.ld d s i)
  | 20 => .ok (.st d s i)
  | 21 => .ok (.bra (d ++ s ++ i))
  | _ => .error .undefinedOpcode

/-- The instruction of a compact operation with its PAIR bit. -/
def CInstr.toInstr (p : Bool) : CInstr → Instr
  | .nop => .nopC p
  | .mov d s => .movC p d s
  | .iadd d s => .iaddC p d s
  | .isub d s => .isubC p d s
  | .and d s => .andC p d s
  | .or d s => .orC p d s
  | .xor d s => .xorC p d s
  | .shl d i => .shlC p d i
  | .shr d i => .shrC p d i
  | .sar d i => .sarC p d i
  | .iaddi d i => .iaddiC p d i
  | .movi d l => .moviC p d l
  | .fadd d s => .faddC p d s
  | .fmul d s => .fmulC p d s
  | .fmax d s => .fmaxC p d s
  | .fmin d s => .fminC p d s
  | .imul d s => .imulC p d s
  | .imin d s => .iminC p d s
  | .imax d s => .imaxC p d s
  | .ld d s i => .ldC p d s i
  | .st d s i => .stC p d s i
  | .bra o => .braC p o

/-- The parcels an instruction with first parcel `p0` occupies (R96); 0 for length code 11. -/
def parcelsOf (p0 : Word) : Nat :=
  match (p0.extractLsb' 0 2).toNat with
  | 0 => 1
  | 1 => 2
  | 2 => 3
  | _ => 0

/-- The fields of a full or long instruction's first two parcels; parcel 0 holds bits [31:0] (R104, R7). -/
def rawOf (p0 p1 : Word) : Raw := Raw.ofBits (p1 ++ p0)

/-- Decode an instruction of up to three parcels in memory order (R96, R118). -/
def decode (p0 p1 p2 : Word) : Except DecodeErr Instr :=
  match parcelsOf p0 with
  | 1 => match decodeCompact p0 with
    | .ok c => .ok (c.toInstr (bitAt p0 2))
    | .error e => .error e
  | 2 =>
    let r := rawOf p0 p1
    if opAssigned r.op.toNat then
      match decodeFullFields r with
      | some i => .ok i
      | none => .error .reservedField
    else .error .undefinedOpcode
  | 3 =>
    let r := rawOf p0 p1
    if opAssigned r.op.toNat then
      match decodeLongFields r p2 with
      | some i => .ok i
      | none => .error .reservedField
    else .error .undefinedOpcode
  | _ => .error .illegalLength

/-- The word at a list's head, little-endian (R7); bytes past the end read zero. -/
def leWord (l : List Byte) : Word :=
  (l.getD 3 0) ++ (l.getD 2 0) ++ (l.getD 1 0) ++ (l.getD 0 0)

/-- Decode the instruction that stands at the head of a byte list. -/
def decodeBytes (l : List Byte) : Except DecodeErr Instr :=
  decode (leWord l) (leWord (l.drop 4)) (leWord (l.drop 8))

/-- `n` bytes of a number, least significant first (R7). -/
def leBytes : Nat → Nat → List Byte
  | 0, _ => []
  | n + 1, v => BitVec.ofNat 8 (v % 256) :: leBytes n (v / 256)

/-- The instruction the decoder reads from the low `nbits` bits of `w`, laid out as the device stores them. -/
def decodeTableWord (nbits w : Nat) : Option Instr :=
  match decodeBytes (leBytes 12 (w % 2 ^ nbits)) with
  | .ok i => some i
  | .error _ => none

/-! ### The encoder -/

/-- A field's value and class bit for D. -/
def encD (r : Raw) : Opnd → Raw
  | .none => r
  | .reg c => { r with d := c }
  | .pair c => { r with d := c }
  | .run c _ => { r with d := c }
  | .pred n => { r with d := n }
  | .chan n _ => { r with d := n.setWidth 8, dch := true }
  | .imm v => { r with d := v }

def encA (r : Raw) : Opnd → Raw
  | .none => r
  | .reg c => { r with a := c }
  | .pair c => { r with a := c }
  | .run c _ => { r with a := c }
  | .pred n => { r with a := n }
  | .chan n p => { r with a := n.setWidth 8, ach := true, apop := p }
  | .imm v => { r with a := v }

def encB (r : Raw) : Opnd → Raw
  | .none => r
  | .reg c => { r with b := c }
  | .pair c => { r with b := c }
  | .run c _ => { r with b := c }
  | .pred n => { r with b := n }
  | .chan n p => { r with b := n.setWidth 8, bch := true, bpop := p }
  | .imm v => { r with b := v }

def encC (r : Raw) : Opnd → Raw
  | .none => r
  | .reg c => { r with c := c }
  | .pair c => { r with c := c }
  | .run c _ => { r with c := c }
  | .pred n => { r with c := n }
  | .chan n _ => { r with c := n.setWidth 8 }
  | .imm v => { r with c := v, cimm := true }

/-- The fields of a full or long instruction (R104). -/
def encRaw (op : Nat) (md : Nat) (lc : Nat) (x : Args) : Raw :=
  let r : Raw :=
    { md := BitVec.ofNat 6 md, la := x.la, cimm := false, c := 0, bpop := false, bch := false, b := 0, apop := false,
      ach := false, a := 0, dch := false, d := 0, gneg := x.guard.neg, grd := x.guard.grd, op := BitVec.ofNat 8 op,
      lc := BitVec.ofNat 2 lc }
  encC (encB (encA (encD r x.d) x.a) x.b) x.c

/-- The two parcels of a field record, first parcel first. -/
def Raw.parcels (r : Raw) : List Word :=
  [r.toBits.extractLsb' 0 32, r.toBits.extractLsb' 32 32]

/-- A full instruction's parcels. -/
def encFull (op md : Nat) (x : Args) : List Word := (encRaw op md 1 x).parcels

/-- A long instruction's parcels (R110). -/
def encLong (op md : Nat) (x : Args) (lit : Word) : List Word := (encRaw op md 2 x).parcels ++ [lit]

/-- BRA and CALL: the offset over B, A and D (R143). -/
def encBranch (op : Nat) (x : Args) (off : BitVec 24) : List Word :=
  { encRaw op 0 1 x with
    d := off.extractLsb' 0 8, a := off.extractLsb' 8 8, b := off.extractLsb' 16 8 }.parcels

/-- A compact parcel (R99). -/
def encCompact (cop : Nat) (p : Bool) (d s : BitVec 8) (i : BitVec 7) : List Word :=
  [i ++ s ++ d ++ BitVec.ofNat 6 cop ++ BitVec.ofBool p ++ (0 : BitVec 2)]

/-- MOD of an integer entry: variant, SAT, type (R112). -/
def imod (v : Nat) (sat : Bool) (t : IntTy) : Nat := v * 8 + (if sat then 4 else 0) + t.code
/-- MOD of a floating entry: rounding or relation, type (R112). -/
def fmod (v : Nat) (t : FTy) : Nat := v * 8 + t.code
/-- The variant of BFX and BFI: 001 with immediates (R127). -/
def bfVar (x : Args) : Nat :=
  match x.c with
  | .imm _ => 1
  | _ => 0
/-- PMOV's variant: 000 writes a register, 001 writes predicates (R150). -/
def pmovVar (x : Args) : Nat :=
  match x.d with
  | .none => 1
  | _ => 0

/-- The parcels of an instruction in memory order; a step of an agent has no encoding. -/
def encode : Instr → Option (List Word)
  | .nop x => some (encFull 0x00 0 x)
  | .iadd x t s => some (encFull 0x01 (imod 0 s t) x)
  | .isub x t s => some (encFull 0x02 (imod 0 s t) x)
  | .imul x t s => some (encFull 0x03 (imod 0 s t) x)
  | .imulhi x t => some (encFull 0x04 (imod 0 false t) x)
  | .imad x t s => some (encFull 0x05 (imod 0 s t) x)
  | .imin x t => some (encFull 0x06 (imod 0 false t) x)
  | .imax x t => some (encFull 0x07 (imod 0 false t) x)
  | .iabs x t s => some (encFull 0x08 (imod 0 s t) x)
  | .and x t => some (encFull 0x09 (imod 0 false t) x)
  | .or x t => some (encFull 0x0A (imod 0 false t) x)
  | .xor x t => some (encFull 0x0B (imod 0 false t) x)
  | .andn x t => some (encFull 0x0C (imod 0 false t) x)
  | .lop3 x t => some (encFull 0x0D (imod 0 false t) x)
  | .shl x t => some (encFull 0x0E (imod 0 false t) x)
  | .shr x t => some (encFull 0x0F (imod 0 false t) x)
  | .sar x t => some (encFull 0x10 (imod 0 false t) x)
  | .rotl x t => some (encFull 0x11 (imod 0 false t) x)
  | .popc x t => some (encFull 0x12 (imod 0 false t) x)
  | .clz x t => some (encFull 0x13 (imod 0 false t) x)
  | .brev x t => some (encFull 0x14 (imod 0 false t) x)
  | .bfx x t => some (encFull 0x15 (imod (bfVar x) false t) x)
  | .bfi x t => some (encFull 0x16 (imod (bfVar x) false t) x)
  | .prmt x => some (encFull 0x17 0 x)
  | .idp4 x t s bb => some (encFull 0x18 (imod bb.code s t) x)
  | .lea x t => some (encFull 0x19 (imod 0 false t) x)
  | .icmp x t r => some (encFull 0x1A (imod r.code false t) x)
  | .sel x t => some (encFull 0x1B (imod 0 false t) x)
  | .mov x t => some (encFull 0x1C (imod 0 false t) x)
  | .movi x t l => some (encLong 0x1D (imod 0 false t) x l)
  | .movs x => some (encFull 0x1E 0 x)
  | .movsw x => some (encFull 0x1F 0 x)
  | .fadd x t m => some (encFull 0x20 (fmod m.code t) x)
  | .fsub x t m => some (encFull 0x21 (fmod m.code t) x)
  | .fmul x t m => some (encFull 0x22 (fmod m.code t) x)
  | .ffma x t m => some (encFull 0x23 (fmod m.code t) x)
  | .fmin x t => some (encFull 0x24 (fmod 0 t) x)
  | .fmax x t => some (encFull 0x25 (fmod 0 t) x)
  | .fcmp x t r => some (encFull 0x26 (fmod r.code t) x)
  | .fclass x t => some (encFull 0x27 (fmod 0 t) x)
  | .fdiv x t m => some (encFull 0x28 (fmod m.code t) x)
  | .fsqrt x t m => some (encFull 0x29 (fmod m.code t) x)
  | .frcp x t m => some (encFull 0x2A (fmod m.code t) x)
  | .frsq x => some (encFull 0x2B 0 x)
  | .fexp2 x => some (encFull 0x2C 0 x)
  | .flog2 x => some (encFull 0x2D 0 x)
  | .fsinpi x => some (encFull 0x2E 0 x)
  | .fcospi x => some (encFull 0x2F 0 x)
  | .ftanh x => some (encFull 0x30 0 x)
  | .fscale x t m => some (encFull 0x31 (fmod m.code t) x)
  | .fdot2 x t m => some (encFull 0x32 (fmod m.code t) x)
  | .welf x m => some (encFull 0x33 (fmod m.code .f32) x)
  | .wmerge x m => some (encFull 0x34 (fmod m.code .f32) x)
  | .famax x t => some (encFull 0x35 (fmod 0 t) x)
  | .cvt x m => some (encFull 0x40 (fmod m.code .f32) x)
  | .cvtn x t m => some (encFull 0x41 (fmod m.code t) x)
  | .cvtw x t => some (encFull 0x42 (fmod 0 t) x)
  | .qnt x t m => some (encFull 0x43 (fmod m.code t) x)
  | .dqnt x t m => some (encFull 0x44 (fmod m.code t) x)
  | .bra x o => some (encBranch 0x60 x o)
  | .brx x => some (encFull 0x61 0 x)
  | .call x o => some (encBranch 0x62 x o)
  | .callx x => some (encFull 0x63 0 x)
  | .ret x => some (encFull 0x64 0 x)
  | .exit x => some (encFull 0x65 0 x)
  | .yield x => some (encFull 0x66 0 x)
  | .yieldRole x => some (encFull 0x66 8 x)
  | .nap x => some (encFull 0x67 0 x)
  | .pset x o => some (encFull 0x68 (o.code * 8) x)
  | .pmov x => some (encFull 0x69 (pmovVar x * 8) x)
  | .vote x k => some (encFull 0x6A (k.code * 8) x)
  | .shfl x k t => some (encFull 0x6B (imod k.code false t) x)
  | .redux x o t => some (encFull 0x6C (o.code * 8 + t.code) x)
  | .scan x o t => some (encFull 0x6D (o.code * 8 + t.code) x)
  | .matchL x t => some (encFull 0x6E (imod 0 false t) x)
  | .part x => some (encFull 0x6F 0 x)
  | .sqbar x => some (encFull 0x70 0 x)
  | .crbar x => some (encFull 0x71 0 x)
  | .mark x id =>
    some ({ encRaw 0x72 0 1 x with a := id.extractLsb' 0 8, b := id.extractLsb' 8 8 }.parcels)
  | .regb x => some (encFull 0x73 0 x)
  | .bkpt x => some (encFull 0x74 0 x)
  | .trap x => some (encFull 0x75 0 x)
  | .ld x w sp => some (encFull 0x80 (w.code * 8 + sp.code) x)
  | .ldLong x w sp l => some (encLong 0x80 (w.code * 8 + sp.code) x l)
  | .st x w sp => some (encFull 0x81 (w.code * 8 + sp.code) x)
  | .stLong x w sp l => some (encLong 0x81 (w.code * 8 + sp.code) x l)
  | .ldt x => some (encFull 0x82 0 x)
  | .stt x => some (encFull 0x83 0 x)
  | .atom x o sc => some (encFull 0x84 (o.code * 8 + sc.code) x)
  | .atomLong x o sc l => some (encLong 0x84 (o.code * 8 + sc.code) x l)
  | .atomcas x w sc => some (encFull 0x85 ((if w then 8 else 0) + sc.code) x)
  | .atomcasLong x w sc l => some (encLong 0x85 ((if w then 8 else 0) + sc.code) x l)
  | .atomf x o sc => some (encFull 0x86 (o.code * 8 + sc.code) x)
  | .atomfLong x o sc l => some (encLong 0x86 (o.code * 8 + sc.code) x l)
  | .pref x => some (encFull 0x87 0 x)
  | .prefLong x l => some (encLong 0x87 0 x l)
  | .fence x sc => some (encFull 0x88 sc.code x)
  | .acq x sc => some (encFull 0x89 sc.code x)
  | .acqLong x sc l => some (encLong 0x89 sc.code x l)
  | .rel x sc => some (encFull 0x8A sc.code x)
  | .relLong x sc l => some (encLong 0x8A sc.code x l)
  | .bind x => some (encFull 0x8B 0 x)
  | .bindLong x l => some (encLong 0x8B 0 x l)
  | .unbind x => some (encFull 0x8C 0 x)
  | .unbindLong x l => some (encLong 0x8C 0 x l)
  | .promo x sc => some (encFull 0x8D sc.code x)
  | .promoLong x sc l => some (encLong 0x8D sc.code x l)
  | .waita x ge sp => some (encFull 0x8E ((if ge then 8 else 0) + sp.code) x)
  | .waitaLong x ge sp l => some (encLong 0x8E ((if ge then 8 else 0) + sp.code) x l)
  | .futr x sc => some (encFull 0x8F sc.code x)
  | .futrLong x sc l => some (encLong 0x8F sc.code x l)
  | .futw x sc => some (encFull 0x90 sc.code x)
  | .futwLong x sc l => some (encLong 0x90 sc.code x l)
  | .push x t => some (encFull 0x91 (if t then 8 else 0) x)
  | .pop x t => some (encFull 0x92 (if t then 8 else 0) x)
  | .qcfg x => some (encFull 0x93 0 x)
  | .qstat x => some (encFull 0x94 0 x)
  | .cpy x => some (encFull 0xA0 0 x)
  | .cpyg x => some (encFull 0xA1 0 x)
  | .cpys x => some (encFull 0xA2 0 x)
  | .cpyc x => some (encFull 0xA3 0 x)
  | .cseal x => some (encFull 0xA4 0 x)
  | .cwait x => some (encFull 0xA5 0 x)
  | .chset x => some (encFull 0xA6 0 x)
  | .chsetLong x l => some (encLong 0xA6 0 x l)
  | .chstat x => some (encFull 0xA7 0 x)
  | .mxreq x => some (encFull 0xA8 0 x)
  | .palw x => some (encFull 0xC0 0 x)
  | .palr x => some (encFull 0xC1 0 x)
  | .mxla x => some (encFull 0xC2 0 x)
  | .mxlb x => some (encFull 0xC3 0 x)
  | .mxmm x => some (encFull 0xC4 0 x)
  | .mxepi x => some (encFull 0xC5 0 x)
  | .mxtile x => some (encFull 0xC6 0 x)
  | .mxsync x => some (encFull 0xC7 0 x)
  | .cvzero x => some (encFull 0xC8 0 x)
  | .cvld x => some (encFull 0xC9 0 x)
  | .cvst x => some (encFull 0xCA 0 x)
  | .mbxpop x t => some (encFull 0xCB (if t then 8 else 0) x)
  | .mbxdone x => some (encFull 0xCC 0 x)
  | .mbxdoneLong x l => some (encLong 0xCC 0 x l)
  | .draw x k => some (encFull 0xE0 (k.code * 8) x)
  | .drawk x k => some (encFull 0xE1 (k.code * 8) x)
  | .result x => some (encFull 0xE2 0 x)
  | .mutl x => some (encFull 0xE3 0 x)
  | .spawn x => some (encFull 0xE4 0 x)
  | .trace x => some (encFull 0xE5 0 x)
  | .hinsp x => some (encFull 0xE6 0 x)
  | .hpoke x => some (encFull 0xE7 0 x)
  | .hresume x => some (encFull 0xE8 0 x)
  | .hret x => some (encFull 0xE9 0 x)
  | .replay x => some (encFull 0xEA 0 x)
  | .tlbinv x => some (encFull 0xEB 0 x)
  | .nopC p => some (encCompact 0 p 0 0 0)
  | .movC p d s => some (encCompact 1 p d s 0)
  | .iaddC p d s => some (encCompact 2 p d s 0)
  | .isubC p d s => some (encCompact 3 p d s 0)
  | .andC p d s => some (encCompact 4 p d s 0)
  | .orC p d s => some (encCompact 5 p d s 0)
  | .xorC p d s => some (encCompact 6 p d s 0)
  | .shlC p d i => some (encCompact 7 p d 0 i)
  | .shrC p d i => some (encCompact 8 p d 0 i)
  | .sarC p d i => some (encCompact 9 p d 0 i)
  | .iaddiC p d i => some (encCompact 10 p d 0 i)
  | .moviC p d l => some (encCompact 11 p d (l.extractLsb' 7 8) (l.extractLsb' 0 7))
  | .faddC p d s => some (encCompact 12 p d s 0)
  | .fmulC p d s => some (encCompact 13 p d s 0)
  | .fmaxC p d s => some (encCompact 14 p d s 0)
  | .fminC p d s => some (encCompact 15 p d s 0)
  | .imulC p d s => some (encCompact 16 p d s 0)
  | .iminC p d s => some (encCompact 17 p d s 0)
  | .imaxC p d s => some (encCompact 18 p d s 0)
  | .ldC p d s i => some (encCompact 19 p d s i)
  | .stC p d s i => some (encCompact 20 p d s i)
  | .braC p o => some (encCompact 21 p (o.extractLsb' 15 8) (o.extractLsb' 7 8) (o.extractLsb' 0 7))
  | _ => none

/-- Decode a list of one to three parcels. -/
def decodeWords : List Word → Except DecodeErr Instr
  | [a] => decode a 0 0
  | [a, b] => decode a b 0
  | [a, b, c] => decode a b c
  | _ => .error .illegalLength

end Sys2Proof
end

