-- ==== Sys2Proof/Machine/Flags.lean ====
section
/-! DEFINITION. The device has no flag register: what other machines call flags are results here (predicates of ICMP and FCMP,
saturation). This file holds the values of integer operands and the exact and narrowed integer results of R122-R132 and R79. -/

namespace Sys2Proof.Machine

/-- The operand width of a type (R120). -/
def IntTy.w (t : IntTy) : Nat := if t.wide then 64 else 32

/-- The pattern that captured words hold: one word, or two with the low first (R7). -/
def natOf : List Word → Nat
  | [] => 0
  | [a] => a.toNat
  | a :: b :: _ => a.toNat + 2 ^ 32 * b.toNat

/-- A pattern of `w` bits as two's complement (R5). -/
def sint (w n : Nat) : Int := if n < 2 ^ (w - 1) then (n : Int) else (n : Int) - 2 ^ w

/-- A pattern read as its type says. -/
def intVal (t : IntTy) (n : Nat) : Int := if t.signed then sint (IntTy.w t) n else (n : Int)

/-- An integer modulo 2^w as a pattern. -/
def wrapTo (w : Nat) (x : Int) : Nat := (x % 2 ^ w).toNat

/-- SatInt: the nearest value of the type (R79). -/
def satInt (signed : Bool) (w : Nat) (x : Int) : Int :=
  let lo : Int := if signed then -(2 ^ (w - 1)) else 0
  let hi : Int := if signed then 2 ^ (w - 1) - 1 else 2 ^ w - 1
  if x < lo then lo else if hi < x then hi else x

/-- A pattern of a width as words, the low first. -/
def wordsOf (wide : Bool) (n : Nat) : List Word := if wide then [word n, word (n / 2 ^ 32)] else [word n]

/-- Narrow an exact result (R122). -/
def narrow (t : IntTy) (sat : Bool) (x : Int) : List Word :=
  wordsOf t.wide (wrapTo (IntTy.w t) (if sat then satInt t.signed (IntTy.w t) x else x))

/-- The 8-bit immediate of IADD, ISUB, IMUL, IMULHI, IMAD, IMIN, IMAX, ICMP and IDP4: sign-extended for the signed types,
zero-extended for the others (R119). -/
def immInt (t : IntTy) (i : BitVec 8) : Int := if t.signed then i.toInt else (i.toNat : Int)

/-- S of an arithmetic entry as its type reads it (R119, R122). -/
def srcS (t : IntTy) (c : Opnd) (b : List Word) : Int :=
  match c with
  | .imm i => immInt t i
  | _ => intVal t (natOf b)

/-- S of a logic entry as a pattern: an immediate is zero-extended (R119). -/
def srcN (c : Opnd) (b : List Word) : Nat :=
  match c with
  | .imm i => i.toNat
  | _ => natOf b

/-- C of IMAD and IDP4 as its type reads it (R122, R129). -/
def srcC (t : IntTy) (c : Opnd) (v : List Word) : Int :=
  match c with
  | .imm i => immInt t i
  | _ => intVal t (natOf v)

/-- ANDN on patterns of `w` bits (R123). -/
def nandn (w a b : Nat) : Nat := a &&& ((2 ^ w - 1) ^^^ (b % 2 ^ w))

/-- LOP3 bit by bit: the index has A lowest and the old D highest (R125). -/
def lop3N (f a b d : Nat) : Nat → Nat
  | 0 => 0
  | i + 1 =>
    lop3N f a b d i + (if f.testBit (b2n (a.testBit i) + 2 * b2n (b.testBit i) + 4 * b2n (d.testBit i)) then 2 ^ i else 0)

/-- Shifts and rotation by the whole 32-bit amount (R124). -/
def shlN (w a n : Nat) : Nat := if w ≤ n then 0 else a * 2 ^ n % 2 ^ w
def shrN (w a n : Nat) : Nat := if w ≤ n then 0 else a / 2 ^ n
def sarN (w a n : Nat) : Nat := wrapTo w (sint w a / 2 ^ (min n w))
def rotlN (w a n : Nat) : Nat := (a * 2 ^ (n % w)) % 2 ^ w + a / 2 ^ (w - n % w)

/-- The number of 1 bits below `w` (R126). -/
def popcN (a : Nat) : Nat → Nat
  | 0 => 0
  | i + 1 => popcN a i + b2n (a.testBit i)

/-- The number of 0 bits above the highest 1 bit, `w` for 0 (R126). -/
def clzN (a : Nat) : Nat → Nat
  | 0 => 0
  | i + 1 => if a.testBit i then 0 else 1 + clzN a i

/-- Bit i moved to bit w-1-i, for i below `k` (R126). -/
def brevN (w a : Nat) : Nat → Nat
  | 0 => 0
  | i + 1 => brevN w a i + (if a.testBit i then 2 ^ (w - 1 - i) else 0)

/-- BFX (R127). -/
def bfxN (signed : Bool) (w a p l : Nat) : Nat :=
  if w ≤ p ∨ l = 0 then 0
  else
    let n := min l (w - p)
    let f := a / 2 ^ p % 2 ^ n
    if signed ∧ f.testBit (n - 1) then wrapTo w ((f : Int) - 2 ^ n) else f

/-- BFI (R127). -/
def bfiN (w a d p l : Nat) : Nat :=
  let m := if w ≤ p then 0 else (2 ^ l - 1) * 2 ^ p % 2 ^ w
  nandn w d m ||| ((a * 2 ^ p) &&& m)

/-- One byte of PRMT: selector, zero mask, fill mask (R128); `prev` is the result's byte below, none for byte 0. [DEDUCED, log 19] -/
def prmtByte (ab c n : Nat) (prev : Option Nat) : Nat :=
  let x := bits ab (8 * bits c (3 * n + 2) (3 * n) + 7) (8 * bits c (3 * n + 2) (3 * n))
  let x := if c.testBit (12 + n) then 0 else x
  if c.testBit (16 + n) then (if (prev.getD x).testBit 7 then 0xFF else 0) else x

/-- PRMT (R128). [DEDUCED, log 19] -/
def prmtN (a b c : Nat) : Nat :=
  let ab := a + 2 ^ 32 * b
  let r0 := prmtByte ab c 0 none
  let r1 := prmtByte ab c 1 (some r0)
  let r2 := prmtByte ab c 2 (some r1)
  let r3 := prmtByte ab c 3 (some r2)
  r0 + 2 ^ 8 * r1 + 2 ^ 16 * r2 + 2 ^ 24 * r3

/-- A byte of a word, signed or not. -/
def byteVal (signed : Bool) (n i : Nat) : Int :=
  let b := bits n (8 * i + 7) (8 * i)
  if signed then sint 8 b else (b : Int)

/-- The exact sum of IDP4 (R129). -/
def idp4X (sa sb : Bool) (a b : Nat) (c : Int) : Int :=
  c + byteVal sa a 0 * byteVal sb b 0 + byteVal sa a 1 * byteVal sb b 1 + byteVal sa a 2 * byteVal sb b 2 +
  byteVal sa a 3 * byteVal sb b 3

/-- A relation of integers (R131). -/
def relInt (r : Rel) (a b : Int) : Bool :=
  match r with
  | .eq => decide (a = b)
  | .ne => decide (a ≠ b)
  | .lt => decide (a < b)
  | .le => decide (a ≤ b)
  | .gt => decide (b < a)
  | .ge => decide (b ≤ a)

/-- A predicate result as a captured word. -/
def boolWord (b : Bool) : List Word := [word (b2n b)]

end Sys2Proof.Machine
end

