-- ==== Sys2Proof/Config.lean ====
section
/-! DEFINITION. What an implementation fixes and the values the manual leaves free. Every `opaque` here has no body: no proof
can see a value of it, so a claim that mentions one holds for every value. -/

namespace Sys2Proof.Config

/-- Which step of the device's agents comes next when nothing is under way (R3: picker timing, write-backs, placement, job
units, arrivals from outside are free). The step numbered `tick` of a run takes `schedule tick`. [DESIGN CHOICE, log 3] -/
opaque schedule : Nat → Instr

/-- A free bit: the `n`th free choice of a run (R3, R239, R445: a kept translation may or may not be used). [DESIGN CHOICE, log 4] -/
opaque freeBit : Nat → Bool

/-- A free word: the `n`th value of a run that the manual leaves unspecified (R4, R108, R451). [DESIGN CHOICE, log 4] -/
opaque freeWord : Nat → Word

/-- A free number: a choice among finitely many the manual leaves open is this number modulo their count. [DESIGN CHOICE, log 4] -/
opaque freeNat : Nat → Nat

/-- SM3 of a byte string (R468, R470): named by its standard only, so any function. [DESIGN CHOICE, log 15] -/
opaque sm3 : List Byte → List Byte

/-- SM2 verification of an image: digest, then whole image (signature and key hash included) (R468). [DESIGN CHOICE, log 15] -/
opaque sm2Verify : List Byte → List Byte → Bool

/-- SM2 signature with the identity key over report bytes (R469, R470). [DESIGN CHOICE, log 15] -/
opaque sm2Sign : List Byte → List Byte

/-- The 64 bytes of the identity public key (R469). [DESIGN CHOICE, log 15] -/
opaque identityKey : List Byte

/-- The image that stands in flash before the first boot (R468). [DESIGN CHOICE, log 15] -/
opaque flashImage : List Byte

/-- Where the management processor starts in a verified image (R468 gives no address). [DESIGN CHOICE, log 15] -/
opaque mpEntry : List Byte → Dword

/-- Where the boot ROM loads a verified image, as the management processor's fetches see it (R468 gives no address).
[DESIGN CHOICE, log 15] -/
opaque mpImageAt : List Byte → Dword

/-- The function that owns a context: 0 the PF, 1 to 16 the VFs (R461, R464; set by firmware, no register holds it).
[DESIGN CHOICE, log 14] -/
opaque owner : Nat → Fin 17

/-- Its number. [DESIGN CHOICE, log 14] -/
def ctxFunction (ctx : Nat) : Nat := (owner ctx).val

/-- The window slot that firmware binds as a function's service slot (R464 gives no number). [DESIGN CHOICE, log 14] -/
opaque serviceSlot : Nat → Fin 16

/-- Whether enumeration found that the root complex completes AtomicOps of `n` bytes (R206). [DESIGN CHOICE, log 13] -/
opaque atomicOps : Nat → Bool

/-- The 64 KiB frame of module `device` behind a page (EA[50:16], its die code included) of that module's context `pctx` (R467): the
peer's tables are its own state. [DESIGN CHOICE, log 12] -/
opaque peerFrame : (device pctx page : Nat) → Nat

/-- The power a rail draws, in milliwatts, when it is read (R483). [DESIGN CHOICE, log 16] -/
opaque railPower : Nat → Nat → Word

end Sys2Proof.Config
end

