-- ==== Sys2Proof/Machine/State.lean ====
section
/-! DEFINITION. The state of the device, plain data, and its value right after reset. Each field's docstring names the rule of
spec/ that gives it. Operations over it are in Sys2Proof/Machine/Ops.lean and the family files. -/

namespace Sys2Proof.Machine

/-- A sparse map by number, in rising order of key and without entries equal to the default its reader names. -/
abbrev Cells (α : Type) := List (Nat × α)

/-- Why the model stops where the device could not stand at all. [DESIGN CHOICE, log 60] -/
inductive Fault where
  /-- Raised by every instruction when no actor is named or the named actor holds no thread: a state no run reaches
  (Sys2Proof.Machine.step names the actor from the threads it holds). Safe: it only stops. -/
  | noActor
  deriving DecidableEq, Repr, Inhabited

/-- Why the model declines an instruction. [DESIGN CHOICE, log 60] -/
inductive Refusal where
  /-- Raised only by an arm of `exec` that has no meaning yet. Safe. -/
  | notModelled (mnemonic : String)
  deriving DecidableEq, Repr, Inhabited

/-! ### Threads -/

/-- Where a result goes: D's reading once the channel place is known (R109). -/
inductive Dest where
  | none
  | reg (code : Nat)
  | pair (code : Nat)
  | run (code n : Nat)
  | pred (n : Nat)
  /-- A register and a predicate: FAMAX (R184). -/
  | regPred (code n : Nat)
  /-- A place of a LOCAL ring (R109). -/
  | chan (c : Nat) (place : Nat)
  /-- The word of a command on its way to a BASIN channel's queue (R358). -/
  | send (cmd : Nat)
  /-- The request that an EASEL channel's push has taken in its cluster's mailbox (R235). -/
  | post (request : Nat)
  deriving DecidableEq, Repr, Inhabited

/-- A cause as it is raised (R441): its code, DETAIL, the access that faulted (R438), whether EPC names the following
instruction (R436), and EWID where it is not the thread's own (R281). -/
structure Cause where
  code : Nat
  detail : Dword := 0
  faddr : Dword := 0
  access : Word := 0xFF
  next : Bool := false
  ewid : Option Dword := none
  /-- EPC, where it is neither the instruction nor the one after it in memory: SINGLE_STEP (R440). -/
  epc : Option Dword := none
  deriving DecidableEq, Repr, Inhabited

/-- The trap record (R438). The fields from `len` on are what HRESUME and HRET need of the faulting instruction (R440): its length, its
destinations (two for a compact pair), whether it captured sources and how many, those past OPND15, and whether it was a fetch.
[DEDUCED, log 23] -/
structure TrapRec where
  cause : Nat := 0
  detail : Dword := 0
  epc : Dword := 0
  ewid : Dword := 0
  fpc : Dword := 0
  faddr : Dword := 0
  access : Word := 0
  res0 : Word := 0
  res1 : Word := 0
  savep : Word := 0
  savev : Cells Word := []
  opnd : Cells Word := []
  len : Nat := 8
  dests : List Dest := []
  captured : Bool := false
  nsrc : Nat := 0
  rest : List Word := []
  fetch : Bool := false
  /-- The instruction's parcels as its operand-log entry records them; none recorded: empty (R442). -/
  parcels : List Word := []
  deriving DecidableEq, Repr, Inhabited

/-- What a channel table entry names (R233). -/
inductive ChanKind where
  | unset
  | loc (base depth : Nat)
  | basin (q : Nat)
  | easel
  deriving DecidableEq, Repr, Inhabited

/-- A place of a LOCAL ring: reserved until filled (R109). -/
structure Place where
  id : Nat
  full : Bool
  deriving DecidableEq, Repr, Inhabited

/-- A channel table entry of one lane (R17, R108, R233): its kind and, for LOCAL, the ring's places in order. The word of place
j stands in the ring's register (head + j) mod depth. [DESIGN CHOICE, log 53] -/
structure Chan where
  kind : ChanKind := .unset
  head : Nat := 0
  places : List Place := []
  deriving DecidableEq, Repr, Inhabited

/-- The thread's open idempotent region (R163): start address and the nine recorded counters. -/
structure Region where
  pc : Dword
  dcount : Cells Word
  rcount : Word
  deriving DecidableEq, Repr, Inhabited

/-- An arrival at a collective (R36, R151): the instruction, its captured sources, its mask, tile code and its destination. -/
structure Arrival where
  instr : Instr
  pc : Dword
  mask : Word
  srcs : List Word
  dest : Dest
  deriving DecidableEq, Repr, Inhabited

/-- A watch of WAITA (R217). `addr` is the scratch offset or the global address. -/
structure Watch where
  scratch : Bool
  addr : Dword
  ge : Bool
  cmp : Word
  dest : Dest
  len : Nat
  /-- The word's physical address (0 for scratch), and the value of the first write that met the condition (R217). -/
  pa : Nat := 0
  hit : Option Word := none
  /-- The issue group of the WAITA (R19). -/
  group : Nat := 0
  deriving DecidableEq, Repr, Inhabited

/-- The condition a thread waits on (R32). -/
inductive Wait where
  | none
  /-- Trap: the cause waits for outstanding results before entry (R436). -/
  | trap
  /-- Page-fault park of a fetch, or of an instruction whose thread cannot go on (R32, R442); `item` in the wait tables. -/
  | park (item : Nat)
  /-- Deferred park of a speculative task (R385). -/
  | deferred
  /-- Membership (R36). -/
  | meeting (a : Arrival)
  /-- Crew barrier (R161). -/
  | crbar (n : Nat)
  /-- Address: WAITA (R217). -/
  | addr (w : Watch)
  /-- Address: held by a speculative limit, or waiting for the frontier (R380, R384). -/
  | frontier
  /-- Copy batch: CWAIT `some n`, CSEAL `none` (R231, R232). -/
  | batch (n : Option Nat)
  /-- Channel: an empty or full channel (R109), by channel number, entries needed and places needed. -/
  | channel (needs : List (Nat × Nat × Nat))
  /-- Mailbox: MXREQ to a full mailbox, MBXPOP of an empty one (R236, R292). -/
  | mailbox
  /-- Nap: until the cycle named of the core it began on (R33, R35). -/
  | nap (on : Issuer) (till : Nat)
  /-- Page-fault park or address: the next issue must wait for a parked instruction or an unfilled FUTR of the thread (R32, R219). -/
  | flight (f : Nat)
  /-- Channel: the thread's command waits at a Basin queue (R223, R352). -/
  | command (cmd : Nat)
  deriving DecidableEq, Repr, Inhabited

/-- A formed meeting (R28, R36) as each of its members keeps it: its own arrival, and the lanes of the squad that meet. -/
structure Meet where
  arr : Arrival
  lanes : Nat
  deriving DecidableEq, Repr, Inhabited

/-- A thread of a vector core, an Easel core's thread or the management processor's (R17, R287, R433).
[DESIGN CHOICE, log 6, DEDUCED, log 8] -/
structure Thread where
  /-- WID (R13, R23). -/
  wid : Dword := 0
  /-- Program counter (R96). -/
  pc : Dword := 0
  /-- Registers v0 up (R17), sparse, default 0. -/
  regs : Cells Word := []
  /-- Declared register count (R17, R18); 64 on the Easel core and the management processor (R287). -/
  nregs : Nat := 0
  /-- p0-p23 (R17). -/
  preds : BitVec 24 := 0
  /-- DCOUNT0-DCOUNT7 (R318). -/
  dcount : Cells Word := []
  /-- RCOUNT (R318). -/
  rcount : Word := 0
  /-- This lane's channel table, sparse, default unset (R17, R21, R233). -/
  chans : Cells Chan := []
  /-- Context (R17, R433). -/
  ctx : Nat := 0
  /-- Launch number in State.launches; none on the management processor. -/
  launch : Option Nat := none
  /-- Private window: global base and size (R435). -/
  privBase : Dword := 0
  privSize : Nat := 0
  /-- The condition waited on (R32). -/
  wait : Wait := .none
  /-- Its meeting has formed and is to issue (R28, R36): the thread is eligible again. -/
  met : Option Meet := none
  /-- Eligibility time (R27). -/
  elig : Nat := 0
  /-- Slot on the core, 0-2047 (R27). -/
  slot : Nat := 0
  /-- Yielded (R34): the cycle of YIELD and the threads of S still to issue. -/
  yielded : Option (Nat × List Actor) := none
  exited : Bool := false
  /-- Open region (R163). -/
  region : Option Region := none
  /-- Registers written since the last REGB (R451). -/
  written : List Nat := []
  /-- Last block identifier (R162). -/
  lastBlock : Half := 0
  /-- Trap record (R438). -/
  trap : TrapRec := {}
  /-- In the trap handler (R436), and core cycles spent there (R437). -/
  inHandler : Bool := false
  handlerCycles : Nat := 0
  /-- A raised cause awaiting outstanding results (R436.1). -/
  pending : Option (Cause × TrapRec) := none
  /-- SOFT_ERROR to raise before the next issue (R451). -/
  softErr : Option Dword := none
  /-- Captured sources with which the next issue runs instead of reading any (R109, R440, R386), and its reserved place. -/
  replay : Option (List Word × List Dest) := none
  /-- Parked at its instruction, the thread holds an operand-log entry of its squad: the issue group that took it (R442). -/
  log : Option Nat := none
  /-- The parcels with which the next issue runs while `replay` holds its sources; empty: it is fetched (R442). -/
  parcels : List Word := []
  /-- What the Basin has answered to the BASIN reads of the instruction at a pc: pc, channel and words (R358). -/
  got : List (Dword × Nat × List Word) := []
  /-- Single step: 0 off, 1 armed by HRESUME, 2 the stepped instruction has issued (R440). -/
  stepping : Nat := 0
  /-- The address of the stepped instruction (R438, R440), and the first identifier its flights can have. -/
  stepPc : Dword := 0
  stepMark : Nat := 0
  /-- The next issue at the pc does not match a breakpoint (R479). -/
  bpSkip : Bool := false
  /-- Copies issued since the last CSEAL (R231). -/
  unsealed : List Nat := []
  /-- Unfinished sealed batches, oldest first, each the jobs in it (R231). -/
  batches : List (List Nat) := []
  /-- Pending COPY_FAULTs (R281). -/
  copyFaults : List Cause := []
  /-- The last FRONTIER value read (R367). -/
  frontierSeen : Option Nat := none
  /-- The last CLOCK value read (R138): no later read is lower, on whichever core. -/
  clockSeen : Nat := 0
  /-- This thread re-issues a deferred instruction: another cause becomes DEFERRED_FAULT (R386). -/
  reissuing : Bool := false
  /-- Bindings that an UNBIND of another thread has removed and that may still be in effect for this one (R247). -/
  kept : List (Dword × Dword × Word) := []
  deriving DecidableEq, Repr, Inhabited

/-- A thread's choice vector block (R326): its base, the entry count C, and whether draws are recorded or replayed. -/
structure Block where
  base : Nat
  c : Nat
  record : Bool
  deriving DecidableEq, Repr, Inhabited

/-- What an outstanding or posted instruction still has to do (R114, R201, R442). Addresses are effective addresses. [DEDUCED, log 7] -/
inductive Work where
  /-- A result already computed at issue. -/
  | value (ws : List Word)
  /-- A load of `.g` or `.pv`: space, global address, bytes, sign-extended. -/
  | load (sp : Space) (ea : Dword) (n : Nat) (signed : Bool)
  /-- An LDT from a global tensor: Palette entry captured, coordinates (R205, R296). -/
  | tload (ent : List Word) (co : List Word)
  /-- A parked posted store: space, global address, bytes, data. -/
  | store (sp : Space) (ea : Dword) (n : Nat) (v : Dword)
  /-- A parked STT. -/
  | tstore (ent : List Word) (co : List Word) (ws : List Word)
  /-- ATOM, ATOMCAS, ATOMF with operands (R207-R209). -/
  | atom (ea : Dword) (op : AtomOp) (v : Word) (sc : Scope)
  | cas (ea : Dword) (wide : Bool) (ws : List Word) (sc : Scope)
  | atomf (ea : Dword) (op : AtomFOp) (v : Word) (sc : Scope)
  /-- FUTR, and whether it is registered at the home (R219). -/
  | futr (ea : Dword) (sc : Scope) (registered : Bool)
  /-- REL (R215) and FUTW (R220), posted, with the regions bound to the object at issue (R247). -/
  | rel (ea : Dword) (v : Dword) (sc : Scope) (bound : List (Dword × Word))
  | futw (ea : Dword) (v : Word) (sc : Scope) (bound : List (Dword × Word))
  /-- A command sent to a Basin queue (R351); `tryP` the predicate of a `.try` form. -/
  | basin (cmd : Nat) (tryP : Option Nat)
  /-- DRAW: its coordinate and kind, the first two words generated there, and the block that records or replays it (R322, R330-R332). -/
  | draw (stream : Nat) (k : Word) (kind : DrawKind) (g0 g1 : Word) (blk : Option Block)
  /-- A RESULT whose block writes are still to be performed (R334): block, result word and value. -/
  | result (blk : Block) (w : Nat) (v : Word)
  /-- A result that MOVS of a draw counter waits for (R320): a stochastic conversion, with the roundings by which RCOUNT
  advances and the capture it makes at retirement (R185, R190), or a DRAWK, which advances nothing. -/
  | sr (ws : List Word) (n : Nat) (pal : Nat) (amax : Word)
  deriving DecidableEq, Repr, Inhabited

/-- The instruction advances a draw counter when it retires (R318). -/
def Work.counts : Work → Bool
  | .draw _ _ _ _ _ _ => true
  | .sr _ _ _ _ => true
  | _ => false

/-- An instruction that has issued and is not yet done: an outstanding long-latency instruction (R114), a posted or parked
access (R201, R448). It outlives its thread (R44). -/
structure Flight where
  id : Nat
  owner : Actor
  /-- The issue group it issued in (R28, R442). -/
  group : Nat
  pc : Dword
  len : Nat
  ctx : Nat
  core : Nat
  launch : Option Nat
  crew : Nat
  /-- Window count (R114): open while `long`. -/
  window : Nat
  long : Bool
  dest : Dest
  work : Work
  /-- Captured sources (R442). -/
  srcs : List Word
  /-- Holds an operand-log entry of its squad (R442). -/
  log : Bool
  /-- Parked: the wait-table item (R448). -/
  park : Option Nat
  /-- The owner has exited or was discarded: no result is delivered (R44, R165). -/
  orphan : Bool
  /-- The instruction's parcels (R442). -/
  parcels : List Word := []
  /-- Its thread has issued a later instruction: what that one causes a parked load must not return (R242). -/
  later : Bool := false
  /-- Bytes a parked load stands to return, by address: what they were before another's write that `later` may have caused (R242). -/
  fixed : List (Nat × Byte) := []
  /-- Its thread has performed a release since it issued: a release of another thread may carry it (R243, R244). -/
  released : Bool := false
  deriving DecidableEq, Repr, Inhabited

/-! ### Squads, crews, launches, contexts -/

/-- A squad (R17). -/
structure Squad where
  crew : Nat
  num : Nat
  shadow : Bool
  /-- s0-s31, sparse, default 0 (R19, R21). -/
  sregs : Cells Word := []
  /-- For each squad register, the issue group and lane that wrote it last (R19). -/
  swrote : Cells (Nat × Nat) := []
  /-- PART (R25). -/
  part : Nat := 5
  /-- ROLE (R26): LOADER bit 0, SHADOW bit 1, PRODUCER bit 2. -/
  role : BitVec 3 := 0
  /-- Squad slot on the core, 0-63 (R476), and the cycle it became resident (R474). -/
  slot : Nat := 0
  since : Nat := 0
  retired : Bool := false
  deriving DecidableEq, Repr, Inhabited

/-- Where a crew stands (R425-R431, R283). -/
inductive Residence where
  | ready (die : Nat)
  | on (core : Nat)
  | saved (die : Nat)
  /-- All squads retired; the scratch allocation waits for its jobs (R283). -/
  | draining (core : Nat)
  deriving DecidableEq, Repr, Inhabited

/-- A crew (R17). -/
structure Crew where
  id : Nat
  ctx : Nat
  launch : Nat
  /-- Crew number, mixed radix of fields 2-5 (R425); for a spawned task 0. -/
  num : Nat
  /-- Compute squads and whether each has a shadow squad (R42). -/
  squads : Nat
  shadows : Bool
  at' : Residence
  /-- Scratchpad contents, sparse, default 0, and footprint in bytes (R198). -/
  scratch : List Host.Cell := []
  /-- The bytes of the scratchpad whose check fails (R451). -/
  scratchBad : List Nat := []
  scratchSize : Nat := 0
  /-- BANKCONF (R299). -/
  bankconf : Word := 0
  /-- First private window of the crew: base of window 0 (R435). -/
  privBase : Dword := 0
  /-- Role arming (R276): cycles or pops below ROLELOW, and armed. -/
  armCount : Nat := 0
  armed : Bool := false
  /-- Placement order on its core (R427) and the state whether it has begun to run (R428). -/
  placed : Nat := 0
  begun : Bool := false
  /-- Cycles of the copy-issue-deadlock pattern (R284). -/
  deadlock : Nat := 0
  /-- The cluster it was pre-empted from, where its launch has an Easel entry (R22, R314). -/
  cluster : Option Nat := none
  /-- The key of the task it runs (R363), and the relaunch it runs (R341). -/
  task : Option Nat := none
  relaunch : Option Nat := none
  deriving DecidableEq, Repr, Inhabited

/-- The fields of a launch packet (R419), kept for the launch's life. -/
structure Packet where
  prio : Nat := 4
  deterministic : Bool := false
  ordered : Bool := false
  record : Bool := false
  replay : Bool := false
  enumerate : Bool := false
  regs : Nat := 1
  squads : Nat := 1
  producer : Nat := 0xFF
  choiceC : Nat := 0
  scratch : Nat := 0
  privSize : Nat := 0
  kentry : Dword := 0
  sentry : Dword := 0
  hentry : Dword := 0
  eentry : Dword := 0
  w : List Nat := [5, 0, 0, 0, 0, 0]
  e : List Nat := [32, 1, 1, 1, 1, 1]
  seed : Dword := 0
  cvbase : Dword := 0
  palimg : Dword := 0
  palcount : Nat := 0
  spawnq : Nat := 0
  shape : List Word := []
  disptab : Dword := 0
  rolelow : Nat := 0
  rolehigh : Nat := 64
  roletime : Nat := 1
  rolepops : Nat := 1
  ageLimit : Nat := 1
  raypool : Dword := 0
  raycount : Nat := 0
  valecount : Nat := 0
  valetab : Dword := 0
  doneaddr : Dword := 0
  donevalue : Word := 0
  deriving DecidableEq, Repr, Inhabited

/-- A launch from acceptance to its completion record (R422-R424). [DEDUCED, log 62] -/
structure Launch where
  id : Nat
  ctx : Nat
  /-- (PARENT, CALL) as one 128-bit number (R421). -/
  number : Nat
  pkt : Packet
  /-- The die its crews are dealt to first (R425). -/
  die : Nat := 0
  done : Bool := false
  /-- Refused or cancelled (R423): the status and OFFSET its record will report, 0 while it runs. -/
  status : Nat := 0
  offset : Nat := 0
  /-- The bindings in effect at its acceptance: they are in effect for every crew of it, whatever UNBIND removes since (R247, R249). -/
  bound : List (Dword × Dword × Word) := []
  deriving DecidableEq, Repr, Inhabited

/-- A launch-queue entry the dispatcher has popped and whose packet it reads (R421, R422). -/
structure Accept where
  id : Nat
  ctx : Nat
  words : List Word
  park : Option Nat := none
  /-- Pages whose read REPLAY has failed (R449): address / 65536. -/
  lost : List Nat := []
  deriving DecidableEq, Repr, Inhabited

/-- A context: Palette, binding table and the windows taken from its private pool (R294, R212, R435). [DEDUCED, log 62] -/
structure Ctx where
  id : Nat
  /-- Entry id 1-255: its 16 words; default all zero (R294). -/
  palette : Cells (List Word) := []
  /-- (object, region base, length) (R212), at most 64. -/
  bindings : List (Dword × Dword × Word) := []
  /-- Allocated private windows: (byte offset in the pool, bytes) (R435). -/
  windows : List (Nat × Nat) := []
  /-- The context is off the device (R405). -/
  away : Bool := false
  deriving DecidableEq, Repr, Inhabited

/-! ### Memory -/

/-- An 8-byte granule of a core's L1 (R200, R239): a clean copy, and dirty bytes under a mask (bit i: byte i). [DESIGN CHOICE, log 9] -/
structure L1Line where
  core : Nat
  ctx : Nat
  /-- Virtual address / 8. -/
  gran : Nat
  clean : Option Dword
  mask : BitVec 8
  dirty : Dword
  /-- A FENCE or a release without bound regions has completed since the clean copy was made (R250, R259). -/
  old : Bool := false
  /-- A copy job of the core that wrote here has performed its completion action since the clean copy was made (R246, R265). -/
  behind : Bool := false
  /-- The bytes of the clean copy whose check fails (R451). -/
  bad : BitVec 8 := 0
  deriving DecidableEq, Repr, Inhabited

/-- A translation an MTLB keeps (R443, R445): the level of the leaf (0, 1, 2), the virtual page number at that level and
the leaf entry. -/
structure Tlb where
  owner : Nat
  ctx : Nat
  level : Nat
  vpn : Nat
  leaf : Dword
  deriving DecidableEq, Repr, Inhabited

/-- What a parked item is (R448). -/
inductive ItemKind where
  | flight (op : Nat)
  | fetch (a : Actor)
  | self (a : Actor)
  | job (j : Nat)
  | step (cluster : Nat)
  | vale (launch vale : Nat)
  | dispatch (entry : Nat)
  | relaunch (r : Nat)
  deriving DecidableEq, Repr, Inhabited

/-- A wait-table key (R448). -/
inductive Key where
  | page (ctx : Nat) (page : Nat)
  | token (t : Word)
  deriving DecidableEq, Repr, Inhabited

/-- The state of a parked item: in an entry, waiting for a free entry, or removed by REPLAY and to proceed or fail (R449). -/
inductive ItemSt where
  | parked
  | waiting
  | proceed
  | failed
  deriving DecidableEq, Repr, Inhabited

/-- A parked item; the entries of table `table` (0-3 the dies, 4 the I/O die) are its items' distinct keys (R448). -/
structure Item where
  id : Nat
  table : Nat
  key : Key
  kind : ItemKind
  st : ItemSt
  addr : Dword
  /-- ACCESS word of the parked access (R438). -/
  access : Word
  deriving DecidableEq, Repr, Inhabited

/-- A fault record on its way to a context's FAULTQ (R450): eight words. -/
structure FaultRec where
  ctx : Nat
  words : List Word
  deriving DecidableEq, Repr, Inhabited

/-! ### Streamers (R263-R284) -/

inductive JobKind where
  | cpy | cpyg | cpys | cpyc | easel
  deriving DecidableEq, Repr, Inhabited

inductive JobSt where
  | queued | started | acted
  deriving DecidableEq, Repr, Inhabited

/-- A job of a core's streamer (R263). -/
structure Job where
  id : Nat
  core : Nat
  crew : Nat
  ctx : Nat
  kind : JobKind
  /-- The issuing thread; none for an Easel job. -/
  owner : Option TRef
  ownerWid : Dword := 0
  /-- Captured Palette entries (R296): global tensor and scratch tile. -/
  gent : List Word := []
  tile : List Word := []
  org : List Word := []
  /-- The scratch bytes an Easel job reads and writes: offset and length (R266). -/
  footR : List (Nat × Nat) := []
  footW : List (Nat × Nat) := []
  /-- CPYG: index list offset and count (R226), and the indices read at start (R269). -/
  idxOff : Nat := 0
  n : Nat := 0
  idx : List Word := []
  cword : Nat := 0
  cvalue : Word := 0
  add : Bool := false
  noact : Bool := false
  vaddr : Dword := 0
  vexpect : Word := 0
  vnew : Word := 0
  refused : Bool := false
  st : JobSt := .queued
  /-- Transfer units done, by number (R264). -/
  units : List Nat := []
  /-- Ended by an unrecoverable fault (R281). -/
  dead : Bool := false
  park : Option Nat := none
  sealed : Bool := false
  /-- Holds one of its squad's reserved slots rather than a pool slot (R273). -/
  reserved : Bool := false
  /-- The Easel step it serves: cluster and step. -/
  step : Option (Nat × Nat) := none
  /-- The frontier task that issued it: the job reads and writes over that task's own versions (R268). -/
  task : Option (Nat × Nat) := none
  deriving DecidableEq, Repr, Inhabited

/-! ### The matrix engine (R285-R314) -/

inductive StepOp where
  | mxla | mxlb | mxmm (m : Nat) | mxepi | mxtile | cvzero | cvld | cvst
  deriving DecidableEq, Repr, Inhabited

/-- A step in the engine's queue with what it captured at issue (R296, R307). -/
structure Step where
  id : Nat
  op : StepOp
  /-- Palette identifier named, 0 for none. -/
  pal : Nat := 0
  /-- Captured Palette entries by identifier, companions included. -/
  ents : Cells (List Word) := []
  /-- The run's words: origin, epilogue settings or MXTILE's operands. -/
  ws : List Word := []
  /-- The crew whose scratchpad it uses, and the streamer job that carries its scratch side. -/
  crew : Option Nat := none
  job : Option Nat := none
  park : Option Nat := none
  /-- The stream's flights before it have numbers below this (R308). -/
  before : Nat := 0
  /-- How far it has got: the pass's operation of an MXTILE, the box under way, the boxes read, and of the box under way the transfer
  units done and the codes read, by element (R310, R312). -/
  sub : Nat := 0
  phase : Nat := 0
  got : List (List (Option Nat)) := []
  units : List Nat := []
  codes : Cells Nat := []
  deriving DecidableEq, Repr, Inhabited

/-- An MBXDONE that waits for earlier steps (R293): the last step issued before it. -/
structure Mbxdone where
  after : Nat
  /-- The stream's flights before it have numbers below this. -/
  before : Nat
  ea : Dword
  v : Word
  deriving DecidableEq, Repr, Inhabited

/-- A request in a mailbox (R291) and the thread that posts it, whose crew tags it; its words are none while a channel's push has only
taken the place (R109, R235). -/
structure MailReq where
  id : Nat
  owner : Actor
  words : Option (List Word)
  deriving DecidableEq, Repr, Inhabited

/-- A cluster's matrix engine and what belongs with it (R285). [DESIGN CHOICE, log 6] -/
structure Engine where
  owner : Option Nat := none
  /-- The launch whose `.easel` stream runs, and its packet, which governs the stream for as long as the ownership lasts (R288). -/
  launch : Option Nat := none
  pkt : Packet := {}
  /-- Row buffer: code of (row, k) at row*512+k, default 0; format (R285: INT8 = 3). -/
  rowbuf : Cells Half := []
  rowFmt : Nat := 3
  /-- Ground: cell (slab t, column j, k) at (t*1024+j)*32+k; format. -/
  ground : Cells Int := []
  gFmt : Nat := 3
  /-- Per (slab, column) at t*1024+j: block exponent, group scale (FP16 bits, default 1.0), zero point. -/
  geb : Cells Int := []
  gscale : Cells Half := []
  gz : Cells Nat := []
  /-- Columns whose B codes hold a NaN or an infinity (R94). -/
  gnan : List Nat := []
  /-- Canvas: FP32 bits of (i, j) at i*1024+j, default +0. -/
  canvas : Cells Word := []
  /-- The Canvas rows, and the Ground, whose check fails (R451). -/
  badRows : List Nat := []
  badGround : Bool := false
  /-- Epilogue settings, 4 words. -/
  epi : List Word := [0, 0, 0, 0]
  /-- Requests, oldest first (R291). -/
  mailbox : List MailReq := []
  /-- Current crew (R292). -/
  cur : Option Nat := none
  queue : List Step := []
  nextStep : Nat := 1
  /-- MXTILE's sequencer: the next pass boundary of the step at the queue's head (R312, R313), none before it starts. -/
  tilePass : Option Nat := none
  /-- Pending step fault (R310). -/
  pending : Option Cause := none
  mbxdones : List Mbxdone := []
  /-- The stream has ended (R288) or is stopped (R290); whether it has been started in this ownership. -/
  started : Bool := false
  ended : Bool := false
  stopped : Bool := false
  deriving DecidableEq, Repr, Inhabited

/-- Engine state saved with a context (R314, R430). -/
structure SavedEngine where
  ctx : Nat
  engine : Engine
  /-- The Easel thread, where its stream had started. -/
  easel : Option Thread
  crews : List Nat
  /-- The name by which the Easel thread's flights are known while it is saved: above every cluster's number. -/
  num : Nat
  deriving DecidableEq, Repr, Inhabited

/-! ### Basin queues (R346-R362) -/

/-- An entry: its words, arrival number, spill slot if spilled, and whether its check fails (R359). -/
structure QEntry where
  words : List Word
  arrival : Nat
  slot : Option Nat := none
  bad : Bool := false
  /-- Its push's sequence number and the services started on the die by then (R398). -/
  seq : Nat := 0
  at' : Nat := 0
  deriving DecidableEq, Repr, Inhabited

/-- Who sent a command (R351). -/
inductive Sender where
  | actor (a : Actor)
  | window (fn slot : Nat)
  deriving DecidableEq, Repr, Inhabited

inductive QOp where
  | push (words : List Word)
  | pop (count : Nat)
  /-- The reads an instruction makes of a BASIN channel, one command (R358): entries needed, entries removed, and the command the thread
  waits for: the first of those its instruction sends. -/
  | read (chan need pops lead : Nat)
  deriving DecidableEq, Repr, Inhabited

/-- A command on its way to a queue (R351); `flight` is the instruction that awaits its answer. A channel's push is not `filled`
until its result is written (R358). -/
structure QCmd where
  id : Nat
  q : Nat
  sender : Sender
  /-- The sender's context (R361). -/
  ctx : Nat
  filled : Bool := true
  op : QOp
  try' : Bool := false
  flight : Option Nat := none
  /-- Withdrawn by pre-emption; reissued when its crew is restored (R360). -/
  withdrawn : Bool := false
  deriving DecidableEq, Repr, Inhabited

/-- A configured queue (R347, R355, R356). -/
structure BQueue where
  id : Nat
  kind : Nat
  esize : Nat
  hostPush : Bool := false
  hostPop : Bool := false
  ctx : Nat := 0
  spillBase : Nat := 0
  spillLog : Nat := 0
  vector : Nat := 0
  irq : Bool := false
  ondie : List QEntry := []
  /-- FIFO spill ring: head slot and entries. -/
  spillHead : Nat := 0
  spill : List QEntry := []
  /-- ORDERED chunks: number, open or closed, entries sorted. -/
  chunks : List (Nat × Bool × List QEntry) := []
  waiters : List QCmd := []
  arrivals : Nat := 0
  /-- A QCFG has released it and QUEUE_RELEASE is to follow (R349). -/
  releasing : Bool := false
  deriving DecidableEq, Repr, Inhabited

/-! ### Ordered tasks, relaunches, rays -/

inductive TaskSt where
  | queued | running | finished
  deriving DecidableEq, Repr, Inhabited

/-- An uncommitted task of an ordered domain (R363-R380). -/
structure Task where
  launch : Nat
  /-- 128-bit key (R365). -/
  key : Nat
  depth : Nat
  st : TaskSt
  /-- Root number, or none for a spawned task. -/
  root : Option Nat
  arg0 : Word := 0
  arg1 : Word := 0
  lanes : Nat := 32
  calls : Nat := 0
  /-- Read set: home sectors, each with what it was read from, none for the home (R374); a sector read from several stands
  several times. -/
  reads : List (Nat × Option Nat) := []
  /-- Versions: (home byte address, byte) (R374). -/
  vers : List Host.Cell := []
  /-- Write set: the sectors written (R380). -/
  writes : List Nat := []
  /-- A limit holds its accesses (R380). -/
  held : Bool := false
  /-- The crew it runs as (R372); none while it is queued or has finished. -/
  crew : Option Nat := none
  deriving DecidableEq, Repr, Inhabited

/-- A queued or running relaunch (R338-R344). -/
structure Relaunch where
  id : Nat
  launch : Nat
  ctx : Nat
  /-- The 32 words of the descriptor (R336). -/
  desc : List Word
  crew : Option Nat := none
  /-- The relaunch count it started from (R339); a free word until it is read. -/
  rc : Word := 0
  park : Option Nat := none
  /-- The edit that failed its condition (R340). -/
  invalid : Option Nat := none
  /-- It ends with outcome FAULT and this cause (R339); the record or the wait word cannot be written. -/
  fault : Option Nat := none
  noRecord : Bool := false
  noWait : Bool := false
  deriving DecidableEq, Repr, Inhabited

/-- A ray in flight (R389, R398, R401): the vale it is QUEUED at and that vale's queue; its place among the handles that wait in
pending areas; the vales it has reached and not visited, and those it has visited; whether a hit stands in its record. A lost ray never
ends (R389, R404). [DESIGN CHOICE, log 50] -/
structure Ray where
  launch : Nat
  handle : Word
  vale : Nat
  q : Nat
  kept : Option Nat := none
  todo : List Nat := []
  visited : List Nat := []
  hit : Bool := false
  lost : Bool := false
  deriving DecidableEq, Repr, Inhabited

/-- A vale whose STATE is not READY (R390, R403): paging, or failed. -/
structure ValeState where
  launch : Nat
  vale : Nat
  failed : Bool
  deriving DecidableEq, Repr, Inhabited

/-! ### The host side and firmware -/

/-- A window slot's registers (R461). -/
structure Slot where
  fn : Nat
  num : Nat
  entry : List Word := [0, 0, 0, 0, 0, 0, 0, 0]
  done : Bool := true
  ok : Bool := false
  denied : Bool := false
  /-- The queue of the command in progress (R461, R462), and an unbinding that waits for it (R458). -/
  cmdQ : Nat := 0
  unbind : Bool := false
  deriving DecidableEq, Repr, Inhabited

/-- A core's trace unit beyond its registers (R475-R478): bytes written since BASE, records since the last SYNC, the last
sampled slot, and the cycle of the last sample. [DESIGN CHOICE, log 27] -/
structure TraceUnit where
  core : Nat
  off : Nat := 0
  sinceSync : Nat := 0
  lastSlot : Nat := 2047
  lastSample : Nat := 0
  /-- Squads whose SQUAD record has been written: (crew, number, shadow). -/
  known : List (Nat × Nat × Bool) := []
  deriving DecidableEq, Repr, Inhabited

/-- What the boot and host machinery holds (R453, R454, R466, R468-R470, R483). [DESIGN CHOICE, log 59] -/
structure Platform where
  /-- The image that runs or stands in flash (R468). -/
  flash : Option (List Byte) := none
  image : List Byte := []
  verified : Bool := false
  /-- FSTATUS.RECOVERY, and FSTATUS.READY of each function (R454). -/
  recovery : Bool := false
  ready : BitVec 17 := 0
  /-- Reports signed since boot (R470). -/
  reports : Nat := 0
  /-- PCI Express generation and width after training (R453); 0 untrained. -/
  pcieGen : Nat := 0
  pcieWidth : Nat := 0
  /-- VFs enabled (R453). -/
  vfs : Nat := 0
  /-- Jenah ports down, and modules no port reaches (R466). -/
  portsDown : List Nat := []
  unreachable : List Nat := []
  /-- Clocks are lowered (R483); the device stopped every context above 110 degrees. -/
  throttled : Bool := false
  stopped : Bool := false
  /-- Cores whose traversal unit is being enabled (R427). -/
  enabling : List Nat := []
  /-- MSI-X interrupts raised, (function, vector), newest first (R347, R453). -/
  msix : List (Nat × Nat) := []
  deriving DecidableEq, Repr, Inhabited

/-! ### Who acts -/

/-- The issue group under way (R28, R30, R19): who acts, who is still to act, the group's number, and the squad-register
writes of the group that take effect when it ends: (crew, squad, shadow, code, lane, word). -/
structure Group where
  who : Option Actor := none
  rest : List Actor := []
  num : Nat := 0
  swrites : List ((Nat × Nat × Bool) × Nat × Nat × Word) := []
  /-- The MARKs of the group not yet recorded: core, squad, lane, block identifier, and the lane's identifier before it (R416, R477). -/
  marks : List (Nat × (Nat × Nat × Bool) × Nat × Half × Half) := []
  /-- The scratch access set of the group's LDT or STT: crew and 8-byte word (R298). -/
  touch : List (Nat × Nat) := []
  /-- The squads whose role the group's YIELD.role has reassigned (R277). -/
  roled : List (Nat × Nat × Bool) := []
  /-- The core cycle the group was chosen in (R28), its threads, and those that turned out not to issue. -/
  by' : Option Issuer := none
  members : List Actor := []
  stalled : List Actor := []
  /-- The threads that were ready in that cycle (R34), and the free number that says which units are busy and whose parcels are still
  awaited in it (R27, R474). -/
  ready : List Actor := []
  busy : Nat := 0
  /-- The parcels of the instruction under way (R442), and the threads that issued in the cycle just over (R478). -/
  parcels : List Word := []
  issuers : List Actor := []
  deriving DecidableEq, Repr, Inhabited

/-- The state of the device. [DESIGN CHOICE, log 59] -/
structure State where
  /-- The issue group under way. -/
  grp : Group := {}
  /-- Steps that come next, before the schedule's (BOOT right after reset, R468). [DESIGN CHOICE, log 2] -/
  agenda : List Instr := []
  /-- The model's own counter: steps taken and free values used. [DESIGN CHOICE, log 4] -/
  tick : Nat := 0
  /-- The model's own counter for fresh identifiers (crews, flights, jobs, items, launches). [DESIGN CHOICE, log 4] -/
  next : Nat := 1
  /-- Threads of vector cores, Easel cores and the management processor (R17, R287, R433). -/
  threads : List (Actor × Thread) := []
  squads : List Squad := []
  crews : List Crew := []
  launches : List Launch := []
  ctxs : List Ctx := []
  /-- Core cycles since reset, per core, Easel core and management processor (R138). -/
  cycles : List (Issuer × Nat) := []
  flights : List Flight := []
  /-- Memory: device physical address below 2^39 (R444); 2^56 + a host bus address; 2^60 + device*2^39 + a peer's
  physical address (R467). Bytes, default 0. [DESIGN CHOICE, log 5, log 11] -/
  mem : List Host.Cell := []
  /-- Sectors of 32 bytes whose check fails: sector number and the bytes not yet rewritten (R452). -/
  failing : Cells (BitVec 32) := []
  l1 : List L1Line := []
  mtlb : List Tlb := []
  items : List Item := []
  /-- Serial numbers of tokens given (R448). -/
  tokens : Nat := 0
  records : List FaultRec := []
  jobs : List Job := []
  engines : Cells Engine := []
  savedEngines : List SavedEngine := []
  queues : List BQueue := []
  qcmds : List QCmd := []
  tasks : List Task := []
  relaunches : List Relaunch := []
  rays : List Ray := []
  vales : List ValeState := []
  /-- Next sequence number of the vale schedulers (R398), and services started per die. -/
  raySeq : Nat := 0
  services : Cells Nat := []
  /-- Management registers by offset of their words; an unlisted one reads as Sys2Proof.Machine.mgmtReset says (R455-R460,
  R475-R484). -/
  mgmt : Cells Word := []
  slots : List Slot := []
  traces : List TraceUnit := []
  plat : Platform := {}
  /-- Dispatcher: registration entry served last, per context (R422, R457). -/
  lastEntry : Cells Nat := []
  accepts : List Accept := []
  /-- The highest number (launch number, crew number) of a crew that a die has retired (R428). -/
  retiredTo : Cells Nat := []
  deriving DecidableEq, Repr, Inhabited

/-- The device right after reset (R10): no crew, no context, memory with nothing listed, and BOOT the next step (R468).
[DESIGN CHOICE, log 1] -/
def State.reset : State := { agenda := [.boot] }

/-- The answer of a step. -/
abbrev Out := Host.Outcome State Fault Refusal

end Sys2Proof.Machine
end

