-- ==== Sys2Proof/Machine/Cells.lean ====
section
/-! DEFINITION. Sparse maps by number in one canonical form, and the byte memories built on them (R7). -/

namespace Sys2Proof.Machine

/-- The value at key `k`; `d` where none is listed. -/
def cget {α : Type} (d : α) : Cells α → Nat → α
  | [], _ => d
  | (j, v) :: r, k => if k = j then v else cget d r k

/-- Put key `k` at its place among rising keys. -/
def cput {α : Type} : Cells α → Nat → α → Cells α
  | [], k, v => [(k, v)]
  | (j, u) :: r, k, v => if k < j then (k, v) :: (j, u) :: r else if k = j then (k, v) :: r else (j, u) :: cput r k v

/-- Set key `k` to `v`, keeping keys rising and listing no `d`. -/
def cset {α : Type} [DecidableEq α] (d : α) (m : Cells α) (k : Nat) (v : α) : Cells α :=
  if v = d then m.filter (fun p => p.1 != k) else cput m k v

/-- Every key of a map is above `b`. -/
def cabove {α : Type} (b : Nat) : Cells α → Bool
  | [] => true
  | (j, _) :: r => decide (b < j) && cabove b r

/-- Keys rise strictly and no entry equals the default. -/
def cwf {α : Type} [DecidableEq α] (d : α) : Cells α → Bool
  | [] => true
  | (j, v) :: r => cabove j r && decide (v ≠ d) && cwf d r

/-- The memory's canonical form: a byte not listed reads 0. -/
def Memory.wf (m : List Host.Cell) : Bool := cwf (0 : Byte) m

/-- One byte of memory. [DESIGN CHOICE, log 5] -/
def memByte (m : List Host.Cell) (a : Nat) : Byte := cget 0 m a

/-- `n` bytes at `a`, the least significant at `a` (R7). -/
def memRead (m : List Host.Cell) (a : Nat) : Nat → Nat
  | 0 => 0
  | n + 1 => (memByte m a).toNat + 256 * memRead m (a + 1) n

/-- Store the `n` low bytes of `v` at `a` (R7). -/
def memWrite (m : List Host.Cell) (a : Nat) : Nat → Nat → List Host.Cell
  | 0, _ => m
  | n + 1, v => memWrite (cset 0 m a (BitVec.ofNat 8 (v % 256))) (a + 1) n (v / 256)

/-- Store those of the 8 bytes of `v` at `a` whose bit of `mask` is set. -/
def memWriteMask (m : List Host.Cell) (a : Nat) (mask : BitVec 8) (v : Dword) : Nat → List Host.Cell
  | 0 => m
  | n + 1 =>
    let m' := memWriteMask m a mask v n
    if mask.getLsbD n then cset 0 m' (a + n) (v.extractLsb' (8 * n) 8) else m'

/-- Bytes `i` of `v` where the mask has bit `i`, else of `w`. -/
def mergeBytes (mask : BitVec 8) (v w : Dword) : Nat → Dword
  | 0 => 0
  | n + 1 =>
    let r := mergeBytes mask v w n
    let b := if mask.getLsbD n then v.extractLsb' (8 * n) 8 else w.extractLsb' (8 * n) 8
    r ||| (b.setWidth 64 <<< (8 * n))

/-- The mask of bytes lo .. lo+n-1 of a granule. -/
def byteMask (lo n : Nat) : BitVec 8 := BitVec.ofNat 8 ((2 ^ n - 1) * 2 ^ lo)

/-- The first element of a list that meets a test is replaced by `f` of it; none meets it: `l` unchanged. -/
def updFirst {α : Type} (p : α → Bool) (f : α → α) : List α → List α
  | [] => []
  | x :: r => if p x then f x :: r else x :: updFirst p f r

/-- Association by a decidable key: the value, if any. -/
def aget {κ α : Type} [DecidableEq κ] : List (κ × α) → κ → Option α
  | [], _ => none
  | (j, v) :: r, k => if k = j then some v else aget r k

/-- Set the value of a key in place, at the end where it is new. -/
def aset {κ α : Type} [DecidableEq κ] : List (κ × α) → κ → α → List (κ × α)
  | [], k, v => [(k, v)]
  | (j, u) :: r, k, v => if k = j then (k, v) :: r else (j, u) :: aset r k v

/-- Put an element before the first that it is not after. -/
def insertBy {α : Type} (le : α → α → Bool) (x : α) : List α → List α
  | [] => [x]
  | y :: r => if le x y then x :: y :: r else y :: insertBy le x r

/-- The elements in the order `le`, equal ones as they stood. -/
def sortBy {α : Type} (le : α → α → Bool) : List α → List α
  | [] => []
  | x :: r => insertBy le x (sortBy le r)

/-- Remove a key. -/
def adel {κ α : Type} [DecidableEq κ] (l : List (κ × α)) (k : κ) : List (κ × α) :=
  l.filter (fun p => decide (p.1 ≠ k))

end Sys2Proof.Machine
end

