-- ==== Sys2Proof/Machine/Access.lean ====
section
/-! DEFINITION. Reading and writing the parts of the state: threads, squads, crews, launches, contexts, management registers,
registers and predicates (R17, R18, R107), and the model's counters of fresh names and free values. -/

namespace Sys2Proof.Machine

/-! ### Threads and where they are -/

/-- The thread an actor holds. -/
def State.thread? (s : State) (a : Actor) : Option Thread := aget s.threads a

/-- Put a thread back. -/
def State.setThread (s : State) (a : Actor) (t : Thread) : State := { s with threads := aset s.threads a t }

/-- Change an actor's thread, if it has one. -/
def State.updThread (s : State) (a : Actor) (f : Thread → Thread) : State :=
  match s.thread? a with
  | some t => s.setThread a (f t)
  | none => s

/-- The acting thread, if any. -/
def State.acting (s : State) : Option (Actor × Thread) :=
  match s.grp.who with
  | some a => (s.thread? a).map (fun t => (a, t))
  | none => none

/-- The actor is a thread of a vector core. -/
def isVector : Actor → Bool
  | .thread _ => true
  | _ => false

/-- The lane of an actor; 0 off the vector cores. -/
def laneOf : Actor → Nat
  | .thread t => t.lane
  | _ => 0

/-- The crew of an actor; 0 off the vector cores. -/
def crewOf : Actor → Nat
  | .thread t => t.crew
  | _ => 0

/-- A squad's key: crew, number, shadow. -/
def squadKey : Actor → Nat × Nat × Bool
  | .thread t => (t.crew, t.squad, t.shadow)
  | _ => (0, 0, false)

def State.crew? (s : State) (n : Nat) : Option Crew := s.crews.find? (fun c => c.id == n)

def State.updCrew (s : State) (n : Nat) (f : Crew → Crew) : State :=
  { s with crews := updFirst (fun c => c.id == n) f s.crews }

def State.squad? (s : State) (k : Nat × Nat × Bool) : Option Squad :=
  s.squads.find? (fun q => q.crew == k.1 && q.num == k.2.1 && q.shadow == k.2.2)

def State.updSquad (s : State) (k : Nat × Nat × Bool) (f : Squad → Squad) : State :=
  { s with squads := updFirst (fun q => q.crew == k.1 && q.num == k.2.1 && q.shadow == k.2.2) f s.squads }

def State.launch? (s : State) (n : Nat) : Option Launch := s.launches.find? (fun l => l.id == n)

def State.ctx? (s : State) (n : Nat) : Option Ctx := s.ctxs.find? (fun c => c.id == n)

/-- A context's record; an unlisted context has an empty Palette and no binding. -/
def State.ctxOf (s : State) (n : Nat) : Ctx := (s.ctx? n).getD { id := n }

def State.updCtx (s : State) (n : Nat) (f : Ctx → Ctx) : State :=
  match s.ctx? n with
  | some _ => { s with ctxs := updFirst (fun c => c.id == n) f s.ctxs }
  | none => { s with ctxs := s.ctxs ++ [f { id := n }] }

/-- The packet that governs a thread; the management processor has none. -/
def State.pktOf (s : State) (t : Thread) : Packet :=
  match t.launch with
  | some l => ((s.launch? l).map (·.pkt)).getD {}
  | none => {}

/-- The core a crew is on, or drains on. -/
def Residence.core? : Residence → Option Nat
  | .on c => some c
  | .draining c => some c
  | _ => none

/-- The actor can act: a thread's crew is on a core. -/
def State.resident (s : State) (a : Actor) : Bool :=
  match a with
  | .thread t => match s.crew? t.crew with
    | some c => match c.at' with
      | .on _ => true
      | _ => false
    | none => false
  | _ => true

/-- The core of an actor: its crew's; the Easel core of cluster k counts as the cluster's first core (R137: its CORE field
reads zero); the management processor has none. -/
def State.coreOf (s : State) : Actor → Nat
  | .thread t => match s.crew? t.crew with
    | some c => c.at'.core?.getD 0
    | none => 0
  | .easel k => 4 * k
  | .mp => 0

/-- The compute die of a core (R23: 80 cores a die). -/
def dieOfCore (c : Nat) : Nat := c / 80
/-- The cluster of a core, 0-79. -/
def clusterOfCore (c : Nat) : Nat := c / 4

/-- What counts the cycles an actor lives by (R138, R287). -/
def State.issuerOf (s : State) : Actor → Issuer
  | .thread t => .core (s.coreOf (.thread t))
  | .easel k => .easel k
  | .mp => .mp

/-- Core cycles since reset (R138). -/
def State.cycle (s : State) (i : Issuer) : Nat := (aget s.cycles i).getD 0

/-- The live actors on a core. -/
def State.actorsOn (s : State) (core : Nat) : List Actor :=
  (s.threads.filter (fun p => match p.1 with
    | .thread t => !p.2.exited && (match s.crew? t.crew with
      | some c => decide (c.at' = .on core)
      | none => false)
    | _ => false)).map (·.1)

/-- The live lanes of a squad, as a mask of non-exited lanes. -/
def State.liveMask (s : State) (k : Nat × Nat × Bool) : Nat :=
  s.threads.foldl (fun m p => match p.1 with
    | .thread t => if t.crew = k.1 ∧ t.squad = k.2.1 ∧ t.shadow = k.2.2 ∧ p.2.exited = false then m ||| 2 ^ t.lane else m
    | _ => m) 0

/-- Engine of a cluster; absent: free, in the state of R285. -/
def State.engine (s : State) (k : Nat) : Engine := cget {} s.engines k
def State.setEngine (s : State) (k : Nat) (e : Engine) : State := { s with engines := cset {} s.engines k e }
def State.updEngine (s : State) (k : Nat) (f : Engine → Engine) : State := s.setEngine k (f (s.engine k))

def State.queue? (s : State) (q : Nat) : Option BQueue := s.queues.find? (fun x => x.id == q)
def State.updQueue (s : State) (q : Nat) (f : BQueue → BQueue) : State :=
  { s with queues := updFirst (fun x => x.id == q) f s.queues }

def State.job? (s : State) (j : Nat) : Option Job := s.jobs.find? (fun x => x.id == j)
def State.updJob (s : State) (j : Nat) (f : Job → Job) : State :=
  { s with jobs := updFirst (fun x => x.id == j) f s.jobs }

def State.item? (s : State) (i : Nat) : Option Item := s.items.find? (fun x => x.id == i)

def State.flight? (s : State) (f : Nat) : Option Flight := s.flights.find? (fun x => x.id == f)
def State.updFlight (s : State) (f : Nat) (g : Flight → Flight) : State :=
  { s with flights := updFirst (fun x => x.id == f) g s.flights }
def State.delFlight (s : State) (f : Nat) : State := { s with flights := s.flights.filter (fun x => x.id != f) }

/-- The flights of an actor whose results it awaits. -/
def State.flightsOf (s : State) (a : Actor) : List Flight := s.flights.filter (fun f => decide (f.owner = a) && !f.orphan)

/-- A fresh identifier. -/
def State.fresh (s : State) : Nat × State := (s.next, { s with next := s.next + 1 })

/-- A free word (R4), used once. -/
def State.freeWord (s : State) : Word × State := (Config.freeWord (65536 * s.tick), { s with tick := s.tick + 1 })
/-- The `i`th free word of the present tick (i below 65536): uses of one step that need several. [DESIGN CHOICE, log 4] -/
def State.fw (s : State) (i : Nat) : Word := Config.freeWord (65536 * s.tick + i)
/-- A free bit (R4), used once. [DESIGN CHOICE, log 4] -/
def State.freeBit (s : State) : Bool × State := (Config.freeBit s.tick, { s with tick := s.tick + 1 })
/-- A free number (R4), used once. [DESIGN CHOICE, log 4] -/
def State.freeNat (s : State) : Nat × State := (Config.freeNat s.tick, { s with tick := s.tick + 1 })

/-! ### Management registers (R455-R460) -/

/-- What an unlisted management word reads: the Reset column of R456, R458, R460, R475 and R481. -/
def mgmtReset (off : Nat) : Word :=
  if off = 0x018 then 2000
  else if 0x10000 ≤ off ∧ off < 0x21000 ∧ off % 0x1000 = 0 then 5
  else if 0x100000 ≤ off ∧ off < 0x100000 + 0x1000 * 320 ∧ off % 0x1000 = 8 then 0x100
  else 0

def State.mg (s : State) (off : Nat) : Word :=
  (aget s.mgmt off).getD (mgmtReset off)
def State.setMg (s : State) (off : Nat) (v : Word) : State :=
  { s with mgmt := if v = mgmtReset off then adel s.mgmt off else aset s.mgmt off v }
/-- A 64-bit management register, the low word at the lower offset. -/
def State.mg64 (s : State) (off : Nat) : Nat := (s.mg off).toNat + 2 ^ 32 * (s.mg (off + 4)).toNat
def State.setMg64 (s : State) (off v : Nat) : State := (s.setMg off (word v)).setMg (off + 4) (word (v / 2 ^ 32))
/-- Add to a 64-bit counter. -/
def State.addMg64 (s : State) (off n : Nat) : State := s.setMg64 off (s.mg64 off + n)
/-- Add one to a saturating 32-bit counter (R484). -/
def State.countMg (s : State) (off : Nat) : State :=
  if (s.mg off).toNat < 2 ^ 32 - 1 then s.setMg off (s.mg off + 1) else s
/-- The core block of a core (R455). -/
def coreBlock (c : Nat) : Nat := 0x100000 + 0x1000 * c
/-- The function block of a function (R455). -/
def fnBlock (f : Nat) : Nat := 0x10000 + 0x1000 * f

/-! ### Registers and predicates (R17, R18, R107) -/

/-- The word of a squad register before the group under way writes (R19). -/
def State.sreg (s : State) (k : Nat × Nat × Bool) (n : Nat) : Word :=
  match s.squad? k with
  | some q => cget 0 q.sregs n
  | none => 0

/-- The word a register code names: v0-v223 of the thread, s0-s31 of its squad (R107); a register of an installed LOCAL ring reads
the word that the ring keeps there (R108). -/
def State.reg (s : State) (a : Actor) (t : Thread) (code : Nat) : Word :=
  if code < 224 then cget 0 t.regs code else s.sreg (squadKey a) (code - 224)

/-- An ordinary write of a ring register leaves the ring's contents unspecified (R108): every register of the ring holds a free
word. -/
def Thread.spoilRings (t : Thread) (code : Nat) (free : Nat → Word) : Thread :=
  t.chans.foldl (fun (u : Thread) c => match c.2.kind with
    | .loc base depth =>
      if base ≤ code ∧ code < base + depth then
        { u with regs := (List.range depth).foldl (fun r i => cset 0 r (base + i) (free (1024 + base + i))) u.regs }
      else u
    | _ => u) t

/-- Write a thread register and note it as written since the last REGB (R451). -/
def Thread.setReg (t : Thread) (code : Nat) (v : Word) : Thread :=
  { t with regs := cset 0 t.regs code v,
           written := if t.region.isSome && !t.written.contains code then code :: t.written else t.written }

/-- Write a register of an actor: a squad register waits for the end of the issue group (R19). -/
def State.writeReg (s : State) (a : Actor) (code : Nat) (v : Word) : State :=
  if code < 224 then s.updThread a (fun t => (t.spoilRings code s.fw).setReg code v)
  else { s with grp := { s.grp with swrites := s.grp.swrites ++ [(squadKey a, code - 224, laneOf a, v)] } }

/-- Write a squad register directly, keeping the order of issue: a write of an earlier group, or of a lower lane of the same
group, is lost (R19). -/
def State.writeSreg (s : State) (k : Nat × Nat × Bool) (n : Nat) (grp lane : Nat) (v : Word) : State :=
  s.updSquad k (fun q =>
    let old := cget (0, 0) q.swrote n
    if grp < old.1 ∨ (grp = old.1 ∧ lane < old.2) then q
    else { q with sregs := cset 0 q.sregs n v, swrote := cset (0, 0) q.swrote n (grp, lane) })

/-- At the end of an issue group its squad-register writes take effect (R19). -/
def State.flushGroup (s : State) : State :=
  s.grp.swrites.foldl (fun u w => u.writeSreg w.1 w.2.1 s.grp.num w.2.2.1 w.2.2.2)
    { s with grp := { s.grp with swrites := [] } }

/-- The scoreboard codes of a destination: registers 0-255, predicates 256 + n. -/
def Dest.codes : Dest → List Nat
  | .reg c => [c]
  | .pair c => [c, c + 1]
  | .run c n => (List.range n).map (c + ·)
  | .pred n => [256 + n]
  | .regPred c n => [c, 256 + n]
  | _ => []

/-- A push: a channel's place, a queue's command or a mailbox's request (R108). -/
def Dest.isPush : Dest → Bool
  | .chan _ _ | .send _ | .post _ => true
  | _ => false

/-- Predicate `n`; codes above 23 name none. -/
def Thread.pred (t : Thread) (n : Nat) : Bool := t.preds.getLsbD n

/-- Write predicate `n`. -/
def Thread.setPred (t : Thread) (n : Nat) (b : Bool) : Thread :=
  { t with preds := if b then t.preds ||| ((1 : BitVec 24) <<< n) else t.preds &&& ~~~((1 : BitVec 24) <<< n) }

/-- A 64-bit value as two words, the low first (R7). -/
def lo32 (v : Dword) : Word := v.setWidth 32
def hi32 (v : Dword) : Word := v.extractLsb' 32 32
/-- Two words as a dword (R7). -/
def dw (lo hi : Word) : Dword := hi ++ lo

/-! ### Channels of a lane (R108, R233, R234) -/

/-- The actor whose table holds the entry: c0 of a squad pair is the compute lane's (R234). -/
def State.chanOwner (_ : State) (a : Actor) (c : Nat) : Actor :=
  match a with
  | .thread t => if c = 0 ∧ t.shadow then .thread { t with shadow := false } else a
  | _ => a

/-- The entry an actor's channel number names. -/
def State.chan (s : State) (a : Actor) (c : Nat) : Chan :=
  match s.thread? (s.chanOwner a c) with
  | some t => cget {} t.chans c
  | none => {}

def State.setChan (s : State) (a : Actor) (c : Nat) (x : Chan) : State :=
  s.updThread (s.chanOwner a c) (fun t => { t with chans := cset {} t.chans c x })

/-- The register that holds place `j` of a LOCAL ring (R108): which one is not architected, for the first place is free. -/
def Chan.regOf (x : Chan) (j : Nat) : Nat :=
  match x.kind with
  | .loc base depth => base + (x.head + j) % depth
  | _ => 0

/-- The word of place `j` of a LOCAL ring: it stands in a register of the entry's owner (R108). -/
def State.placeWord (s : State) (a : Actor) (c j : Nat) : Word :=
  match s.thread? (s.chanOwner a c) with
  | some t => cget 0 t.regs ((s.chan a c).regOf j)
  | none => 0

/-- Fill a reserved place (R109). -/
def State.fillPlace (s : State) (a : Actor) (c p : Nat) (v : Word) : State :=
  let x := s.chan a c
  let j := x.places.findIdx (fun q => q.id == p)
  (s.updThread (s.chanOwner a c) (fun t => { t with regs := cset 0 t.regs (x.regOf j) v })).setChan a c
    { x with places := x.places.map (fun q => if q.id = p then { q with full := true } else q) }

/-- Change every mailbox, those saved with a context among them (R314). -/
def State.mapMailboxes (s : State) (f : List MailReq → List MailReq) : State :=
  { s with engines := s.engines.map (fun p => (p.1, { p.2 with mailbox := f p.2.mailbox }))
           savedEngines := s.savedEngines.map (fun e => { e with engine := { e.engine with mailbox := f e.engine.mailbox } }) }

/-- Write the word of a push (R108, R109, R235, R358): it fills the ring's place, the command or the request that its issue reserved;
one that is no longer there takes nothing. -/
def State.writePush (s : State) (a : Actor) (d : Dest) (w : Word) : State :=
  match d with
  | .chan c p => s.fillPlace a c p w
  | .send i => { s with qcmds := s.qcmds.map (fun k => if k.id = i then { k with filled := true, op := .push [w] } else k) }
  | .post i => s.mapMailboxes (·.map (fun r => if r.id = i then { r with words := some [w, 0, 0, 0, 0, 0, 0, 0] } else r))
  | _ => s

/-- Store words in consecutive places of a LOCAL ring, from place `j` on (R108). -/
def Chan.storeFrom (x : Chan) (regs : Cells Word) (j : Nat) : List Word → Cells Word
  | [] => regs
  | w :: r => x.storeFrom (cset 0 regs (x.regOf j) w) (j + 1) r

/-- A place of a LOCAL ring that nothing will fill leaves it: the words behind it move up, so that each entry keeps its word (R108,
R109). R109 does not say what becomes of such a place. [DESIGN CHOICE, log 53] -/
def State.closePlace (s : State) (a : Actor) (c p : Nat) : State :=
  let x := s.chan a c
  match x.places.find? (fun q => q.id == p && !q.full) with
  | none => s
  | some _ =>
    let j := x.places.findIdx (fun q => q.id == p)
    let behind := (List.range (x.places.length - (j + 1))).map (fun i => s.placeWord a c (j + 1 + i))
    (s.updThread (s.chanOwner a c) (fun t => { t with regs := x.storeFrom t.regs j behind })).setChan a c
      { x with places := x.places.eraseIdx j }

/-- Give up a push that its issue reserved and nothing will fill (R44, R449): its place, command or request goes. R109 does not say so.
[DESIGN CHOICE, log 53] -/
def State.dropPush (s : State) (a : Actor) (d : Dest) : State :=
  match d with
  | .chan c p => s.closePlace a c p
  | .send i => { s with qcmds := s.qcmds.filter (fun k => k.id != i || k.filled) }
  | .post i => s.mapMailboxes (·.filter (fun r => r.id != i || r.words.isSome))
  | _ => s

/-- Entries present of a ring: its filled places (R235). -/
def Chan.present (x : Chan) : Nat := (x.places.filter (·.full)).length

/-- A crew's occupancy in sixty-fourths: the mean of COUNT / DEPTH over the live lanes of its compute squads whose c0 is LOCAL,
rounded down; 64 with no such lane (R276). -/
def State.occupancy (s : State) (crew : Nat) : Nat :=
  let r := s.threads.foldl (fun (r : Nat × Nat × Nat) p => match p.1 with
    | .thread t =>
      if t.crew = crew ∧ t.shadow = false ∧ p.2.exited = false then
        match (cget {} p.2.chans 0).kind with
        | .loc _ d => (r.1 * d + (cget {} p.2.chans 0).present * r.2.1, r.2.1 * d, r.2.2 + 1)
        | _ => r
      else r
    | _ => r) (0, 1, 0)
  if r.2.2 = 0 then 64 else 64 * r.1 / (r.2.1 * r.2.2)

/-- The packet of a crew's launch. -/
def State.crewPkt (s : State) (c : Crew) : Packet := ((s.launch? c.launch).map (·.pkt)).getD {}

/-- A crew's arming count restarts whenever its occupancy reaches ROLELOW (R276). -/
def State.armRestart (s : State) (crew : Nat) : State :=
  match s.crew? crew with
  | some k =>
    if k.armCount ≠ 0 ∧ (s.crewPkt k).rolelow ≤ s.occupancy crew then s.updCrew crew (fun k => { k with armCount := 0 }) else s
  | none => s

end Sys2Proof.Machine
end

