-- ==== Sys2Proof/Machine/Memory.lean ====
section
/-! DEFINITION. Memory at its homes, translation (R443-R445, R459, R467), the cores' L1s (R200, R239), watches (R217), wait
tables and fault records (R448, R450). -/

namespace Sys2Proof.Machine

/-- Where bus address 0 of host memory stands in State.mem. [DESIGN CHOICE, log 11] -/
def hostBase : Nat := 2 ^ 56
/-- Where the memory of peer modules stands in State.mem. [DESIGN CHOICE, log 11, log 12] -/
def peerBase : Nat := 2 ^ 60

/-- A physical address of device memory: bits above 38 are zero (R444). -/
def devAddr (a : Nat) : Nat := a % 2 ^ 39

/-! ### The home -/

/-- `n` bytes at their home. -/
def State.homeRead (s : State) (pa n : Nat) : Nat := memRead s.mem pa n

/-- Some byte of the range lies in a sector whose check fails: the consumer alone hears of it (R452, R471). [DESIGN CHOICE, log 40] -/
def State.badData (s : State) (pa n : Nat) : Bool :=
  s.failing.any (fun f => decide (f.1 * 32 < pa + n ∧ pa < f.1 * 32 + 32))

/-- A sector's check fails until every byte of it has been written again (R452). -/
def State.failSector (s : State) (sector : Nat) : State := { s with failing := cset 0 s.failing sector (BitVec.allOnes 32) }

/-- Writing bytes pa .. pa+n-1 again clears them in the failing sectors (R452). -/
def clearFailing (f : Cells (BitVec 32)) (pa n : Nat) : Cells (BitVec 32) :=
  f.filterMap (fun x =>
    let m := (List.range 32).foldl (fun (m : BitVec 32) i =>
      if pa ≤ x.1 * 32 + i ∧ x.1 * 32 + i < pa + n then m &&& ~~~((1 : BitVec 32) <<< i) else m) x.2
    if m = 0 then none else some (x.1, m))

/-- A word meets WAITA's condition (R217). -/
def Watch.met (w : Watch) (v : Word) : Bool := if w.ge then decide (w.cmp.toNat ≤ v.toNat) else decide (v ≠ w.cmp)

/-- A thread that watches a global word is told of a write of bytes pa .. pa+n-1 (R217): no write is missed. -/
def Thread.seeWrite (m : List Host.Cell) (pa n : Nat) (t : Thread) : Thread :=
  match t.wait with
  | .addr w =>
    if w.scratch = false ∧ w.hit = none ∧ pa < w.pa + 4 ∧ w.pa < pa + n then
      let v := word (memRead m w.pa 4)
      if w.met v then { t with wait := .addr { w with hit := some v } } else t
    else t
  | _ => t

/-- Write `n` bytes at their home, the one copy beyond the L1s (R240). -/
def State.homeWrite (s : State) (pa n v : Nat) : State :=
  let m := memWrite s.mem pa n v
  { s with mem := m, failing := clearFailing s.failing pa n,
           threads := s.threads.map (fun p => (p.1, p.2.seeWrite m pa n)) }

/-- Write the bytes of a granule whose mask bit is set at their home. -/
def State.homeWriteMask (s : State) (pa : Nat) (mask : BitVec 8) (v : Dword) : State :=
  (List.range 8).foldl (fun u i => { u with failing := if mask.getLsbD i then clearFailing u.failing (pa + i) 1 else u.failing })
    { s with mem := memWriteMask s.mem pa mask v 8,
             threads := s.threads.map (fun p => (p.1, p.2.seeWrite (memWriteMask s.mem pa mask v 8) pa 8)) }

/-! ### Translation -/

/-- The kind of an access, as the ACCESS word codes it (R438). -/
inductive Acc where
  | load | store | atomic | fetch | copyRead | copyWrite
  deriving DecidableEq, Repr, Inhabited

def accCode : Acc → Nat
  | .load => 0
  | .store => 1
  | .atomic => 2
  | .fetch => 3
  | .copyRead => 4
  | .copyWrite => 5

def accReads : Acc → Bool
  | .load | .atomic | .copyRead => true
  | _ => false
def accWrites : Acc → Bool
  | .store | .atomic | .copyWrite => true
  | _ => false

/-- The ACCESS word (R438): kind, space, log2 of the size. [DEDUCED, log 21] -/
def accessWord (k : Acc) (space n : Nat) : Word := word (accCode k + 8 * space + 32 * n.log2)

/-- What a walk meets (R445). -/
inductive WalkRes where
  | absent
  | malformed
  | leaf (lvl pte : Nat)
  deriving DecidableEq, Repr, Inhabited

/-- The entry of table `tbl` that indexes `ea` at a level. -/
def pteAt (m : List Host.Cell) (tbl lvl ea : Nat) : Nat :=
  memRead m (devAddr (tbl + 8 * (ea / 2 ^ (16 + 10 * lvl) % 1024))) 8

/-- Reserved bits [63:52], [12:8], 6 and 2 of an entry (R445). -/
def pteReserved (p : Nat) : Bool :=
  bits p 63 52 != 0 || bits p 12 8 != 0 || p.testBit 6 || p.testBit 2
/-- ADDR of an entry as an address. -/
def pteAddr (p : Nat) : Nat := bits p 51 13 * 2 ^ 13

/-- A leaf's ADDR is a multiple of its page size. -/
def leafAligned (lvl p : Nat) : Bool := pteAddr p % 2 ^ (16 + 10 * lvl) == 0

/-- The four-level walk from the table at `tbl` (R444, R445); level 3 is the root. -/
def walk (m : List Host.Cell) : Nat → Nat → Nat → WalkRes
  | 0, tbl, ea =>
    let p := pteAt m tbl 0 ea
    if p.testBit 0 = false then .absent
    else if pteReserved p || !p.testBit 1 || !leafAligned 0 p then .malformed
    else .leaf 0 p
  | lvl + 1, tbl, ea =>
    let p := pteAt m tbl (lvl + 1) ea
    if p.testBit 0 = false then .absent
    else if pteReserved p then .malformed
    else if p.testBit 1 then
      if lvl + 1 = 3 then .malformed
      else if leafAligned (lvl + 1) p then .leaf (lvl + 1) p else .malformed
    else walk m lvl (pteAddr p) ea

/-- ROOT0-ROOT4 of a context's descriptor (R434); 0 for a context at or above CTXCOUNT (R456). -/
def State.root (s : State) (ctx die : Nat) : Nat :=
  if ctx < (s.mg 0x008).toNat then memRead s.mem (devAddr (s.mg64 0 + 64 * ctx + 8 * die)) 8 else 0

/-- A field of a context's descriptor (R434); 0 where there is none. [DEDUCED, log 58] -/
def State.ctxField (s : State) (ctx off n : Nat) : Nat :=
  if ctx < (s.mg 0x008).toNat then memRead s.mem (devAddr (s.mg64 0 + 64 * ctx + off)) n else 0

/-- A walk in a context from its root; a root of 0 is absent (R445). -/
def State.walkCtx (s : State) (ctx ea : Nat) : WalkRes :=
  let r := s.root ctx (ea / 2 ^ 56 % 8)
  if r = 0 then .absent else walk s.mem 3 r (ea % 2 ^ 56)

/-- The home address behind a leaf: device memory for die codes 0-3, host memory for 4 (R444). -/
def leafPa (lvl pte ea : Nat) : Nat :=
  let a := pteAddr pte + ea % 2 ^ (16 + 10 * lvl)
  if ea / 2 ^ 56 % 8 = 4 then hostBase + a else devAddr a

/-- Rights tested at a present leaf (R445). -/
def leafAllows (k : Acc) (pte : Nat) : Bool :=
  (!accReads k || pte.testBit 3) && (!accWrites k || pte.testBit 4) && (k != .fetch || pte.testBit 5)

/-- The answer of a translation: a home address, a cause code, or an absent page (R199). -/
inductive TRes where
  | ok (pa : Nat)
  | bad (code : Nat)
  | absent
  deriving DecidableEq, Repr, Inhabited

/-- A kept translation covers an address. -/
def Tlb.covers (t : Tlb) (owner ctx ea : Nat) : Bool :=
  t.owner == owner && t.ctx == ctx && t.level < 3 && t.vpn == ea / 2 ^ (16 + 10 * t.level)

/-- Test a leaf's rights and form the home address. -/
def leafAnswer (k : Acc) (lvl pte ea : Nat) : TRes :=
  if leafAllows k pte then .ok (leafPa lvl pte ea) else .bad 0x41

/-- Keep a present translation (R445). [DEDUCED, log 10] -/
def State.keepTlb (s : State) (owner ctx lvl pte ea : Nat) : State :=
  { s with mtlb := (Tlb.mk owner ctx lvl (ea / 2 ^ (16 + 10 * lvl)) (BitVec.ofNat 64 pte)) ::
      s.mtlb.filter (fun t => !(t.covers owner ctx ea)) }

/-- A peer-table entry (R459). -/
def State.peerEntry (s : State) (ctx d : Nat) : Nat := memRead s.mem (devAddr (s.mg64 0x010 + 256 * ctx + 8 * d)) 8

/-- The translation keeps the peer-table entry of a device for a context (R459). [DESIGN CHOICE, log 12] -/
def Tlb.names (t : Tlb) (ctx d : Nat) : Bool := t.owner == 4 && t.ctx == ctx && t.level == 5 && t.vpn == d
/-- The peer-table entry that is kept, if one is (R459). [DESIGN CHOICE, log 12] -/
def State.peerKept (s : State) (ctx d : Nat) : Option Nat := (s.mtlb.find? (·.names ctx d)).map (·.leaf.toNat)

/-- The home of an address with die code 5 under a peer-table entry: the peer translates EA[47:0] in the entry's peer context (R459, R467).
[DESIGN CHOICE, log 12] -/
def peerHome (e ea : Nat) : Nat :=
  let d := ea / 2 ^ 51 % 32
  peerBase + d * 2 ^ 39 + Config.peerFrame d (e % 65536) (ea / 65536 % 2 ^ 35) % 2 ^ 23 * 65536 + ea % 65536

/-- No port reaches a module: it is cut off, or all 16 ports are down (R466). [DEDUCED, log 37] -/
def Platform.cut (p : Platform) (d : Nat) : Bool := p.unreachable.contains d || decide (16 ≤ p.portsDown.length)

/-- Translation of an address with die code 5 (R467): the kept or the present peer-table entry, its rights, the peer's die
code; whether the page is present at the peer, and allows the access, is that module's state, so free. [DESIGN CHOICE, log 12] -/
def State.translatePeer (s : State) (ctx : Nat) (k : Acc) (ea : Nat) : TRes × State :=
  let d := ea / 2 ^ 51 % 32
  let (e, s) := match s.peerKept ctx d with
    | some e => let (b, s) := s.freeBit; (if b then e else s.peerEntry ctx d, s)
    | none => (s.peerEntry ctx d, s)
  let keep := s.mtlb.filter (fun t => !(t.names ctx d))
  let s := { s with mtlb := (Tlb.mk 4 ctx 5 d (BitVec.ofNat 64 e)) :: keep }
  if !e.testBit 31 || s.plat.cut d || (accReads k && !e.testBit 24) || (accWrites k && !e.testBit 25) ||
     k == .fetch then (.bad 0x41, s)
  else if 4 ≤ ea / 2 ^ 48 % 8 then (.bad 0x42, s)
  else
    let (c, s) := s.freeNat
    (if c % 3 = 0 then .absent else if c % 3 = 1 then .bad 0x41 else .ok (peerHome e ea), s)

/-- Translate a global address in a context (R199 rows 3 to 5, R443-R445). Only a kept present translation may stand in for
the walk (R445, R446); where it says what the walk says, no choice is left. [DEDUCED, log 10] -/
def State.translate (s : State) (ctx : Nat) (k : Acc) (ea : Dword) : TRes × State :=
  let e := ea.toNat
  let die := e / 2 ^ 56
  if 6 ≤ die then (.bad 0x42, s)
  else if die = 5 then s.translatePeer ctx k e
  else if die = 4 ∧ e.testBit 55 then (.bad 0x41, s)
  else
    let walked (s : State) : TRes × State := match s.walkCtx ctx e with
      | .absent => (.absent, s)
      | .malformed => (.bad 0x41, s)
      | .leaf lvl p => (leafAnswer k lvl p e, s.keepTlb die ctx lvl p e)
    match s.mtlb.find? (fun t => t.covers die ctx e) with
    | some t =>
      if s.walkCtx ctx e = .leaf t.level t.leaf.toNat then (leafAnswer k t.level t.leaf.toNat e, s)
      else
        let (b, s) := s.freeBit
        if b then (leafAnswer k t.level t.leaf.toNat e, s) else walked s
    | none => walked s

/-- The home of an address whatever its rights, for write-backs (R200). -/
def State.homeOf (s : State) (ctx : Nat) (ea : Nat) : Option Nat :=
  if ea / 2 ^ 56 = 5 then some (peerHome (s.peerEntry ctx (ea / 2 ^ 51 % 32)) ea)
  else match s.walkCtx ctx ea with
    | .leaf lvl p => some (leafPa lvl p ea)
    | _ => none

/-- The home that a kept translation gives an address (R445, R459). -/
def State.keptHome (s : State) (ctx ea : Nat) : Option Nat :=
  if ea / 2 ^ 56 = 5 then (s.peerKept ctx (ea / 2 ^ 51 % 32)).map (fun e => peerHome e ea)
  else (s.mtlb.find? (fun t => t.covers (ea / 2 ^ 56) ctx ea)).map (fun t => leafPa t.level t.leaf.toNat ea)

/-- Where an address stands now, whatever rights its page gives: a kept translation or the walk. -/
def State.placeOf (s : State) (ctx : Nat) (ea : Dword) : Option Nat :=
  match s.keptHome ctx ea.toNat with
  | some pa => some pa
  | none => s.homeOf ctx ea.toNat

/-- Where a write-back goes (R443, R446): the present walk or, where the owner keeps a translation, either of the two. [DEDUCED, log 10] -/
def State.wbHome (s : State) (ctx ea : Nat) : Option Nat × State :=
  match s.keptHome ctx ea with
  | some kept =>
    if s.homeOf ctx ea = some kept then (some kept, s)
    else
      let (b, s) := s.freeBit
      (some (if b then kept else (s.homeOf ctx ea).getD kept), s)
  | none => (s.homeOf ctx ea, s)

/-! ### L1 (R200, R239): granules of 8 bytes -/

def L1Line.isAt (l : L1Line) (core ctx gran : Nat) : Bool := l.core == core && l.ctx == ctx && l.gran == gran

def State.line? (s : State) (core ctx gran : Nat) : Option L1Line := s.l1.find? (fun l => l.isAt core ctx gran)

/-- Put a granule back; one with neither a clean copy nor dirty bytes is not listed. -/
def State.setLine (s : State) (l : L1Line) : State :=
  let rest := s.l1.filter (fun x => !(x.isAt l.core l.ctx l.gran))
  { s with l1 := if l.clean = none ∧ l.mask = 0 then rest else l :: rest }

/-- Load `n` naturally aligned bytes at `ea`, whose home is `pa`, through a core's L1: a clean copy may be old (R238, R239, R246); a
granule is filled whole, so that the load is single-copy atomic (R241). The Bool says a check failed (R452): what fails is not kept, for
it stays failing. [DESIGN CHOICE, log 9] -/
def State.l1Load (s : State) (core ctx : Nat) (ea : Dword) (pa n : Nat) : Nat × Bool × State :=
  let g := ea.toNat / 8
  let o := ea.toNat % 8
  let l := (s.line? core ctx g).getD ⟨core, ctx, g, none, 0, 0, false, false, 0⟩
  let pick (v : Dword) : Nat := v.toNat / 2 ^ (8 * o) % 2 ^ (8 * n)
  match l.clean with
  | some c => (pick (mergeBytes l.mask l.dirty c 8), (l.bad &&& ~~~l.mask &&& byteMask o n) != 0, s)
  | none =>
    if l.mask &&& byteMask o n = byteMask o n then (pick l.dirty, false, s)
    else
      let c := dword (s.homeRead (pa - o) 8)
      let bad := s.badData (pa - o) 8
      (pick (mergeBytes l.mask l.dirty c 8), bad, if bad then s else s.setLine { l with clean := some c, old := false, behind := false, bad := 0 })

/-- Store `n` naturally aligned bytes into a core's L1 as dirty bytes, whole and in the order in which stores issue (R200, R261).
[DESIGN CHOICE, log 9] -/
def State.l1Store (s : State) (core ctx : Nat) (ea : Dword) (n v : Nat) : State :=
  let g := ea.toNat / 8
  let o := ea.toNat % 8
  let l := (s.line? core ctx g).getD ⟨core, ctx, g, none, 0, 0, false, false, 0⟩
  let m := byteMask o n
  s.setLine { l with mask := l.mask ||| m, dirty := mergeBytes m (dword (v * 2 ^ (8 * o))) l.dirty 8 }

/-- Write one granule's dirty bytes back to their home (R200, R242). [DESIGN CHOICE, log 9] -/
def State.wbLine (s : State) (l : L1Line) : State :=
  if l.mask = 0 then s
  else match s.wbHome l.ctx (8 * l.gran) with
    | (none, s) => s
    | (some pa, s) =>
      (s.homeWriteMask pa l.mask l.dirty).setLine
        { l with mask := 0, dirty := 0, bad := l.bad &&& ~~~l.mask, clean := l.clean.map (fun c => mergeBytes l.mask l.dirty c 8) }

/-- Write back the dirty bytes of the granules a test picks. -/
def State.wbWhere (s : State) (p : L1Line → Bool) : State :=
  s.l1.foldl (fun u l => if p l then u.wbLine l else u) s

/-- Drop the clean copies of the granules a test picks. -/
def State.dropWhere (s : State) (p : L1Line → Bool) : State :=
  { s with l1 := s.l1.filterMap (fun l => if p l then (if l.mask = 0 then none else some { l with clean := none, behind := false, bad := 0 }) else some l) }

/-- A FENCE past CREW scope, or a release that carries more than bound regions, completes: the clean copies that stand may be older than
what it carries (R250, R259). [DESIGN CHOICE, log 9] -/
def State.stampCopies (s : State) : State := { s with l1 := s.l1.map (fun l => { l with old := l.clean.isSome }) }

/-- The granule holds a byte of [base, base + len). -/
def L1Line.inRegion (l : L1Line) (base len : Nat) : Bool :=
  decide (8 * l.gran < base + len ∧ base < 8 * l.gran + 8)

/-- The granule holds a byte of a context's regions. [DEDUCED, log 62] -/
def L1Line.inBound (l : L1Line) (ctx : Nat) (bound : List (Dword × Word)) : Bool :=
  l.ctx == ctx && bound.any (fun r => l.inRegion r.1.toNat r.2.toNat)

/-- The regions bound to an object for an actor of a context (R212): the table's, and those that an unordered UNBIND has removed (R247). -/
def State.boundTo (s : State) (a : Actor) (ctx : Nat) (obj : Dword) : List (Dword × Word) :=
  (((s.ctxOf ctx).bindings ++ ((s.thread? a).map (·.kept)).getD []).filter (fun b => b.1 == obj)).map (fun b => b.2)

/-- The granule lies in a region bound to an object. [DEDUCED, log 62] -/
def State.inBound (s : State) (a : Actor) (ctx : Nat) (obj : Dword) (l : L1Line) : Bool := l.inBound ctx (s.boundTo a ctx obj)

/-- What the actor may have learnt from another thread through an acquire: that its UNBINDs come first. Whether it has is free, since no
record is kept of what happens before what; either way the bindings concerned carry what R247 leaves them. [DEDUCED, log 62] -/
def State.settleKept (s : State) (a : Actor) : State :=
  match s.thread? a with
  | some t =>
    if t.kept.isEmpty then s
    else
      let (b, s) := s.freeBit
      if b then s.updThread a (fun t => { t with kept := [] }) else s
  | none => s

/-- After a meeting or a barrier an UNBIND that one of its threads knows of comes before what the others do next (R152, R247).
[DEDUCED, log 62] -/
def State.shareUnbinds (s : State) (as : List Actor) : State :=
  let known (b : Dword × Dword × Word) : Bool := as.all (fun a => ((s.thread? a).map (·.kept)).getD [] |>.contains b)
  as.foldl (fun (u : State) a => u.updThread a (fun t => { t with kept := t.kept.filter known })) s

/-! ### Fault records and wait tables -/

/-- The eight words of a fault record (R450). -/
def recWords (kind cause : Nat) (token : Word) (addr who : Dword) (access : Word) (source ctx : Nat) : List Word :=
  [word (kind + 256 * cause), token, lo32 addr, hi32 addr, lo32 who, hi32 who,
   word (access.toNat % 256 + 256 * source), word (ctx % 65536)]

/-- A fault record waits at its source until FAULT_RECORD_PUSH takes it (R450). -/
def State.record (s : State) (ctx : Nat) (ws : List Word) : State := { s with records := s.records ++ [⟨ctx, ws⟩] }

/-- The distinct keys of a wait table's entries (R448). -/
def State.tableKeys (s : State) (tb : Nat) : List Key :=
  ((s.items.filter (fun i => i.table == tb && i.st == .parked)).map (·.key)).eraseDups

/-- What becomes of an item that comes to a wait table, and whether it creates its entry: it joins the entry with its key, creates one, or
waits while the table is full; where the walk read again then finds the page present it proceeds (R448). -/
def State.tableAns (s : State) (tb : Nat) (key : Key) : ItemSt × Bool :=
  let ks := s.tableKeys tb
  let present : Bool := match key with
    | .page c p => s.walkCtx c p != .absent
    | .token _ => false
  let st : ItemSt := if present then .proceed else .parked
  if ks.contains key then (st, false) else if 1024 ≤ ks.length then (.waiting, false) else (st, true)

/-- The record of a new entry's first item (R448, R450); a peer's fault is recorded at the peer (R467). -/
def State.recordPark (s : State) (key : Key) (ctx : Nat) (addr who : Dword) (access : Word) (source : Nat) : State :=
  let (k, tok) : Nat × Word := match key with
    | .page _ _ => (1, 0)
    | .token t => (2, t)
  if addr.toNat / 2 ^ 56 = 5 then s else s.record ctx (recWords k 0x40 tok addr who access source ctx)

/-- An access parks in a table (R448). Answers the item's identifier. -/
def State.park (s : State) (tb : Nat) (key : Key) (kind : ItemKind) (ctx : Nat) (addr who : Dword) (access : Word)
    (source : Nat) : Nat × State :=
  let (i, s) := s.fresh
  let (st, new) := s.tableAns tb key
  let s := { s with items := s.items ++ [Item.mk i tb key kind st addr access] }
  (i, if new then s.recordPark key ctx addr who access source else s)

/-- A fresh token of a table (R448). -/
def State.token (s : State) (tb : Nat) : Word × State :=
  (word (tb * 2 ^ 29 + s.tokens % 2 ^ 29), { s with tokens := s.tokens + 1 })

/-- Park an access of a context to a global address under its page, or under a token where no local page names it (R448,
R467). -/
def State.parkAt (s : State) (kind : ItemKind) (ctx : Nat) (ea who : Dword) (access : Word) (source : Nat) : Nat × State :=
  let die := ea.toNat / 2 ^ 56
  if die = 5 then
    let (t, s) := s.token 4
    s.park 4 (.token t) kind ctx ea who access source
  else s.park die (.page ctx (ea.toNat / 65536 * 65536)) kind ctx ea who access source

/-! ### Scratchpads (R198) -/

/-- `n` bytes of a crew's scratchpad. -/
def State.scratchRead (s : State) (crew off n : Nat) : Nat :=
  match s.crew? crew with
  | some c => memRead c.scratch off n
  | none => 0

/-- The check of some byte of the range fails (R451, R452). [DEDUCED, log 32] -/
def State.scratchFails (s : State) (crew off n : Nat) : Bool :=
  match s.crew? crew with
  | some c => c.scratchBad.any (fun b => decide (off ≤ b ∧ b < off + n))
  | none => false

/-- A thread of the crew that watches a scratch word is told of a write (R217). -/
def Thread.seeScratch (m : List Host.Cell) (off n : Nat) (t : Thread) : Thread :=
  match t.wait with
  | .addr w =>
    if w.scratch ∧ w.hit = none ∧ off < w.addr.toNat + 4 ∧ w.addr.toNat < off + n then
      let v := word (memRead m w.addr.toNat 4)
      if w.met v then { t with wait := .addr { w with hit := some v } } else t
    else t
  | _ => t

/-- Write `n` bytes of a crew's scratchpad; what is written again no longer fails (R452). -/
def State.scratchWrite (s : State) (crew off n v : Nat) : State :=
  match s.crew? crew with
  | none => s
  | some c =>
    let m := memWrite c.scratch off n v
    { (s.updCrew crew (fun c => { c with scratch := m, scratchBad := c.scratchBad.filter (fun b => decide (b < off ∨ off + n ≤ b)) })) with
      threads := s.threads.map (fun p => (p.1, if crewOf p.1 = crew ∧ isVector p.1 then p.2.seeScratch m off n else p.2)) }

end Sys2Proof.Machine
end

