-- ==== Sys2Proof/Machine/Queues.lean ====
section
/-! DEFINITION. Basin queues as data (R346-R362): keys, room, inserting and taking entries, spill and refill. The commands of
threads, the host and the device act on queues through these. -/

namespace Sys2Proof.Machine

/-- The command a thread waits for: the first of the reads that its instruction makes, or the command itself. -/
def QCmd.lead (k : QCmd) : Nat :=
  match k.op with
  | .read _ _ _ l => l
  | _ => k.id

/-- Little-endian value of words. -/
def wordsNat : List Word → Nat
  | [] => 0
  | w :: r => w.toNat + 2 ^ 32 * wordsNat r

/-- The key of an entry: its first 16 bytes, little-endian (R350). -/
def QEntry.key (e : QEntry) : Nat := wordsNat (e.words.take 4)

/-- The order of an ORDERED queue: keys, then arrival (R350). -/
def QEntry.before (e f : QEntry) : Bool := decide (e.key < f.key ∨ (e.key = f.key ∧ e.arrival ≤ f.arrival))

/-- Insert an entry into a sorted run. -/
def insertEntry (e : QEntry) : List QEntry → List QEntry
  | [] => [e]
  | f :: r => if f.before e then f :: insertEntry e r else e :: f :: r

/-- Bytes of an entry (R347). -/
def BQueue.bytes (q : BQueue) : Nat := 4 * 2 ^ q.esize

/-- Slots of the spill area (R347). -/
def BQueue.cap (q : BQueue) : Nat := if q.spillLog = 0 then 0 else 2 ^ q.spillLog

/-- Entries present, spill included (R225). -/
def BQueue.count (q : BQueue) : Nat :=
  q.ondie.length + q.spill.length + q.chunks.foldl (fun n c => n + c.2.2.length) 0

/-- A push finds room (R355, R356). -/
def BQueue.room (q : BQueue) : Bool :=
  if q.kind = 1 then (q.spill.isEmpty && decide (q.ondie.length < 32)) || decide (q.spill.length < q.cap)
  else decide (q.count < 32 + q.cap)

/-- A waiting push is taken (R362): it finds room, or an entry of the full spill ring can move on-die first, although R355 moves entries
only below 17 on-die. [DEDUCED, log 65] -/
def BQueue.waitRoom (q : BQueue) : Bool := q.room || (q.kind == 1 && !q.spill.isEmpty && decide (q.ondie.length < 32))

/-- The physical address of a spill slot (R347, R444). -/
def BQueue.slotAt (q : BQueue) (i : Nat) : Nat := q.id / 4096 * 2 ^ 36 + q.spillBase + i * q.bytes

/-- Store words at consecutive home addresses. [DEDUCED, log 58] -/
def State.storeWords (s : State) (pa : Nat) : List Word → State
  | [] => s
  | w :: r => (s.homeWrite pa 4 w.toNat).storeWords (pa + 4) r

/-- The lowest of the numbers 0 .. n-1 that a list lacks. -/
def lowestFree (n : Nat) (used : List Nat) : Option Nat := (List.range n).find? (fun i => !used.contains i)

/-- Which chunk takes an eviction (R356, R357): the open one if it has room, else a new one, else any with room. [DESIGN CHOICE, log 51] -/
def BQueue.evictTo (q : BQueue) : Nat :=
  match q.chunks.find? (fun c => c.2.1 && decide (c.2.2.length < 32)) with
  | some c => c.1
  | none => match lowestFree (q.cap / 32) (q.chunks.map (·.1)) with
    | some n => n
    | none => ((q.chunks.find? (fun c => decide (c.2.2.length < 32))).map (·.1)).getD 0

/-- Insert an evicted entry into chunk `n`, which becomes the open one; the entry takes the chunk's lowest free slot. -/
def BQueue.evict (q : BQueue) (e : QEntry) : BQueue × Nat :=
  let n := q.evictTo
  let old := ((q.chunks.find? (fun c => c.1 == n)).map (·.2.2)).getD []
  let used := old.filterMap (fun f => f.slot.map (· - 32 * n))
  let slot := 32 * n + (lowestFree 32 used).getD 0
  let rest := (q.chunks.filter (fun c => c.1 != n)).map (fun c => (c.1, false, c.2.2))
  ({ q with chunks := rest ++ [(n, true, insertEntry { e with slot := some slot } old)] }, slot)

/-- The command takes or looks at entries. -/
def QOp.isPop : QOp → Bool
  | .push _ => false
  | _ => true

/-- The entries a command needs present, and those it removes (R358). -/
def QOp.need : QOp → Nat
  | .push _ => 0
  | .pop n => n
  | .read _ n _ _ => n
def QOp.takes : QOp → Nat
  | .push _ => 0
  | .pop n => n
  | .read _ _ n _ => n

/-- An entry that arrives at an empty queue goes to a waiting pop (R352). -/
def BQueue.claimed (q : BQueue) : Bool :=
  match q.waiters.find? (fun w => w.op.isPop && (w.op.takes != 0 || decide (1 < w.op.need))) with
  | some w => decide (w.op.need ≤ 1)
  | none => false

/-- The MSI-X vectors of a function: 64 on the PF, 16 on a VF (R453). -/
def msixVectors (fn : Nat) : Nat := if fn = 0 then 64 else 16

/-- The interrupt of a queue whose COUNT goes from 0 to 1 (R347); an entry that answers a waiting pop never stays (R352). A vector that the
function does not have interrupts nobody (R453). [DESIGN CHOICE, log 51] -/
def State.queueIrq (s : State) (q : BQueue) : State :=
  if q.irq && q.count == 0 && !q.claimed && decide (q.vector < msixVectors (Config.ctxFunction q.ctx)) then
    { s with plat := { s.plat with msix := (Config.ctxFunction q.ctx, q.vector) :: s.plat.msix } }
  else s

/-- After a change a waiting command may be answered (R352). -/
def State.queueChanged (s : State) (q : Nat) : State :=
  match s.queue? q with
  | some x => if x.waiters.isEmpty then s else { s with agenda := s.agenda ++ [.basinWaiterAnswer q] }
  | none => s

/-- Perform a push into a queue with room (R355, R356); every push is stamped for the vale schedulers (R398). -/
def State.qInsert (s : State) (n : Nat) (ws : List Word) : State :=
  match s.queue? n with
  | none => s
  | some q =>
    let e : QEntry := { words := ws, arrival := q.arrivals, seq := s.raySeq, at' := cget 0 s.services (n / 8192) }
    let s := { s.queueIrq q with raySeq := s.raySeq + 1 }
    let q := { q with arrivals := q.arrivals + 1 }
    let put (s : State) (q : BQueue) : State := (s.updQueue n (fun _ => q)).queueChanged n
    if q.kind = 1 then
      if q.spill.isEmpty && decide (q.ondie.length < 32) then put s { q with ondie := q.ondie ++ [e] }
      else
        let slot := (q.spillHead + q.spill.length) % q.cap
        put (s.storeWords (q.slotAt slot) ws) { q with spill := q.spill ++ [{ e with slot := some slot }] }
    else
      let w := insertEntry e q.ondie
      if w.length ≤ 32 then put s { q with ondie := w }
      else
        let big := w.getLast?.getD e
        let (q, slot) := ({ q with ondie := w.dropLast }).evict big
        put (s.storeWords (q.slotAt slot) big.words) q

/-- An entry read back from its spill slot: its check may fail (R359). -/
def State.readBack (s : State) (q : BQueue) (e : QEntry) : QEntry :=
  match e.slot with
  | some i => { e with slot := none, bad := e.bad || s.badData (q.slotAt i) q.bytes }
  | none => e

/-- The chunk with the smallest minimum (R356). [DESIGN CHOICE, log 51] -/
def lowestChunk : List (Nat × Bool × List QEntry) → Option (Nat × Bool × List QEntry)
  | [] => none
  | c :: r => match c.2.2, lowestChunk r with
    | [], o => o
    | _, none => some c
    | e :: _, some d => match d.2.2 with
      | f :: _ => if f.before e then some d else some c
      | [] => some c

/-- The entry the next pop gives, if it is on-die (R355, R356). -/
def BQueue.next? (q : BQueue) : Option QEntry :=
  match q.ondie with
  | [] => none
  | e :: _ =>
    if q.kind = 1 then some e
    else match lowestChunk q.chunks with
      | some c => match c.2.2 with
        | f :: _ => if e.before f then some e else none
        | [] => some e
      | none => some e

/-- The first `n` entries pops would give, if they are all on-die. -/
def BQueue.heads (q : BQueue) : Nat → Option (List QEntry)
  | 0 => some []
  | n + 1 => match q.next? with
    | none => none
    | some e => ({ q with ondie := q.ondie.tail }.heads n).map (e :: ·)

/-- A refill is due: on-die entries at most 16, or a waiting pop's entry spilled, while entries are spilled (R355, R356). -/
def BQueue.refillDue (q : BQueue) : Bool :=
  (!q.spill.isEmpty || q.chunks.any (fun c => !c.2.2.isEmpty)) &&
  (decide (q.ondie.length ≤ 16) || (!q.waiters.isEmpty && q.next?.isNone))

/-- The first `k` entries of a FIFO queue's spill ring move to its on-die tail (R355). -/
def State.qMove (s : State) (n k : Nat) : State :=
  s.updQueue n (fun q => { q with
    ondie := q.ondie ++ (q.spill.take k).map (s.readBack q), spill := q.spill.drop k,
    spillHead := (q.spillHead + min k q.spill.length) % q.cap })

/-- A push that waited is performed: where the spill ring is full an entry of it moves on-die first (R362). [DEDUCED, log 65] -/
def State.qAccept (s : State) (n : Nat) (ws : List Word) : State :=
  match s.queue? n with
  | some q => (if q.room then s else s.qMove n 1).qInsert n ws
  | none => s

/-- One refill (R355, R356). -/
def State.qRefill (s : State) (n : Nat) : State :=
  match s.queue? n with
  | none => s
  | some q =>
    if q.kind = 1 then (s.qMove n 16).queueChanged n
    else match lowestChunk q.chunks with
      | none => s
      | some c =>
        let all := (c.2.2.map (s.readBack q)).foldl (fun l e => insertEntry e l) q.ondie
        -- those that stay behind keep slots of the chunk
        let back := (all.drop 32).zipIdx.map (fun p => { p.1 with slot := some (32 * c.1 + p.2) })
        let rest := q.chunks.filter (fun d => d.1 != c.1)
        let s := back.foldl (fun u e => match e.slot with
          | some i => if e.bad then u else u.storeWords (q.slotAt i) e.words
          | none => u) s
        (s.updQueue n (fun q => { q with
          ondie := all.take 32, chunks := if back.isEmpty then rest else rest ++ [(c.1, c.2.1, back)] })).queueChanged n

/-- Remove the first `n` on-die entries. -/
def State.qTake (s : State) (q n : Nat) : State :=
  (s.updQueue q (fun x => { x with ondie := x.ondie.drop n })).queueChanged q

/-- Bring on-die from the spill area what the next `n` pops give, by at most as many refills (R353, R355, R356). -/
def State.qFetch (s : State) (q n : Nat) : Nat → State
  | 0 => s
  | k + 1 => match s.queue? q with
    | some x => if (x.heads n).isSome then s else (s.qRefill q).qFetch q n k
    | none => s

/-- The queue is the spawn queue of a launch that is not complete: the device alone pushes and pops it (R364). -/
def State.spawnLive (s : State) (q : Nat) : Bool := s.launches.any (fun l => l.pkt.ordered && l.pkt.spawnq == q && !l.done)

/-- A queue that a thread of the context may name: bit 15 clear, configured, the context's, and no launch's spawn queue (R222,
R361, R364). -/
def State.queueOk (s : State) (ctx q : Nat) : Bool :=
  match s.queue? q with
  | some x => decide (q < 2 ^ 15) && !x.releasing && x.ctx == ctx && !s.spawnLive q
  | none => false

end Sys2Proof.Machine
end

