-- ==== Sys2Proof/Machine/Ops.lean ====
section
/-! DEFINITION. Operations shared by every family: taking an exception (R436-R438, R437, R385, R290) and leaving the handler,
the end of a thread, squad and crew (R44, R45), crew barriers (R161), rollback (R165), engine ownership (R22, R285). -/

namespace Sys2Proof.Machine

/-! ### Ordered domains: who is the frontier (R367) -/

/-- The lowest key among a launch's uncommitted tasks (R367). -/
def State.frontier (s : State) (l : Nat) : Option Nat :=
  s.tasks.foldl (fun m t => if t.launch = l then (match m with
    | some k => some (min k t.key)
    | none => some t.key) else m) none

/-- The task an actor's crew runs. -/
def State.taskOf (s : State) (a : Actor) : Option Task :=
  if isVector a then
    match s.crew? (crewOf a) with
    | some c => match c.task with
      | some k => s.tasks.find? (fun t => t.launch == c.launch && t.key == k)
      | none => none
    | none => none
  else none

/-- Change a task. -/
def State.updTask (s : State) (l k : Nat) (f : Task → Task) : State :=
  { s with tasks := updFirst (fun t => t.launch == l && t.key == k) f s.tasks }

/-- The actor is a thread of a task that is not the frontier (R379). -/
def State.speculative (s : State) (a : Actor) : Bool :=
  match s.taskOf a with
  | some t => s.frontier t.launch != some t.key
  | none => false

/-! ### The threads of a crew, waits and barriers -/

/-- An actor is a live thread of a crew. -/
def liveIn (crew : Nat) (p : Actor × Thread) : Bool :=
  isVector p.1 && crewOf p.1 == crew && !p.2.exited

/-- What an actor waits on once nothing else holds it: the channel condition while a command of it is a waiter (R32, R352). -/
def State.restWait (s : State) (a : Actor) : Wait :=
  match s.queues.findSome? (fun q => q.waiters.find? (fun k => k.sender == .actor a)) with
  | some k => .command k.lead
  | none => .none

/-- End a wait: the thread is eligible from this cycle (R33), unless a command of it is still a waiter (R352). -/
def State.wake (s : State) (a : Actor) : State :=
  let now := s.cycle (s.issuerOf a)
  let w := s.restWait a
  s.updThread a (fun t => { t with wait := w, elig := now })

/-- End a wait and move past the instruction, `len` bytes long. -/
def State.wakePast (s : State) (a : Actor) (len : Nat) : State :=
  (s.wake a).updThread a (fun t => { t with pc := t.pc + dword len })

/-- An instruction that has still to take its effect on squad registers or the Palette (R152). -/
def Flight.unsettledShared (f : Flight) : Bool :=
  !f.orphan && (f.dest.codes.any (fun c => 224 ≤ c && c < 256) || (match f.work with
    | .sr _ _ pal _ => pal != 0
    | _ => false))

/-- What an actor issued before has taken its effect on its context and its squad (R152). -/
def State.sharedSettled (s : State) (a : Actor) : Bool := (s.flightsOf a).all (fun f => !f.unsettledShared)

/-- When every non-exited thread of a crew waits at one crew barrier, and what they issued before has taken its effect on their
context and squads, all are released together, and what each of them knows to be unbound is so for all (R152, R161, R247). CRBAR is 8
bytes. -/
def State.releaseBarrier (s : State) (crew : Nat) : State :=
  let live := s.threads.filter (liveIn crew)
  match live with
  | [] => s
  | p :: _ => match p.2.wait with
    | .crbar n =>
      if live.all (fun q => q.2.wait == .crbar n && s.sharedSettled q.1) then
        live.foldl (fun u q => u.wakePast q.1 8) (s.shareUnbinds (live.map (·.1)))
      else s
    | _ => s

/-- The threads that wait at a collective in a squad. -/
def State.atCollective (s : State) (k : Nat × Nat × Bool) : List TRef :=
  s.threads.filterMap (fun p => match p.1, p.2.wait with
    | .thread t, .meeting _ => if (t.crew, t.squad, t.shadow) = k ∧ p.2.exited = false then some t else none
    | _, _ => none)

/-- Whenever a lane changes state, every waiting collective of its squad is checked next, in the order in which the state lists
its threads (R36). [DESIGN CHOICE, log 2] -/
def State.checkMeetings (s : State) (k : Nat × Nat × Bool) : State :=
  { s with agenda := s.agenda ++ (s.atCollective k).map (fun t => .meetingIssue t) }

/-- A formed meeting that cannot issue whole is none: its members wait at the collective again, and are checked afresh (R36, R41).
[DEDUCED, log 25] -/
def State.unform (s : State) (a : Actor) : State :=
  match (s.thread? a).bind (·.met) with
  | none => s
  | some m =>
    let mine (x : Actor × Thread) : Bool := isVector x.1 && squadKey x.1 == squadKey a && (match x.2.met with
      | some y => y.lanes == m.lanes
      | none => false)
    { s with threads := s.threads.map (fun x =>
        if mine x then (x.1, { x.2 with met := none, wait := (match x.2.met with
          | some y => .meeting y.arr
          | none => x.2.wait) }) else x) }

/-- Waiters leave their queues, whose other waiters are looked at again (R352). -/
def State.dropWaiters (s : State) (mine : QCmd → Bool) : State :=
  ((s.queues.filter (fun q => q.waiters.any mine)).map (·.id)).foldl State.queueChanged
    { s with queues := s.queues.map (fun q => { q with waiters := q.waiters.filter (fun k => !mine k) }) }

/-- The reads of a BASIN channel for which an actor's instruction waits are withdrawn. -/
def State.dropReads (s : State) (a : Actor) : State :=
  let mine (k : QCmd) : Bool := k.sender == .actor a && (match k.op with
    | .read _ _ _ _ => true
    | _ => false)
  ({ s with qcmds := s.qcmds.filter (fun k => !mine k) }).dropWaiters mine

/-- A thread leaves what it waits for: its formed meeting is none, its BASIN reads are withdrawn. -/
def State.leaveWait (s : State) (a : Actor) : State := (s.unform a).dropReads a

/-! ### Regions (R163-R165) -/

/-- Close the thread's open region (R164). -/
def Thread.closeRegion (t : Thread) : Thread := { t with region := none, written := [] }

/-- Remove items of the wait tables. -/
def State.dropItems (s : State) (p : ItemKind → Bool) : State := { s with items := s.items.filter (fun i => !(p i.kind)) }

/-- Discard the outstanding results of an actor (R165). -/
def State.discardResults (s : State) (a : Actor) : State :=
  let gone := (s.flightsOf a).filter (·.long)
  { (s.dropItems (fun k => match k with
      | .flight f => gone.any (fun g => g.id == f)
      | _ => false)) with
    flights := s.flights.filter (fun f => !(decide (f.owner = a) && !f.orphan && f.long)) }

/-- Roll a thread with an open region back to its REGB (R165). [DEDUCED, log 58] -/
def State.rollback (s : State) (a : Actor) : State :=
  match s.thread? a with
  | some t => match t.region with
    | some r =>
      let s := (s.discardResults a).leaveWait a
      s.setThread a { t with
        met := none, got := t.got.filter (fun g => g.1 != t.pc), pc := r.pc, dcount := r.dcount, rcount := r.rcount,
        wait := s.restWait a, replay := none, parcels := [], log := none, pending := none }
    | none => s
  | none => s

/-! ### Engine ownership (R22, R285, R288) -/

/-- The crews of a context with an Easel entry on a cluster's cores. -/
def State.easelCrews (s : State) (ctx k : Nat) : List Crew :=
  s.crews.filter (fun c => c.ctx == ctx && (match c.at' with
    | .on core => clusterOfCore core == k
    | _ => false) && (match s.launch? c.launch with
    | some l => l.pkt.eentry != 0
    | none => false))

/-- Give a private window back to its context's pool (R435). -/
def State.freeWindow (s : State) (ctx : Nat) (base : Dword) : State :=
  let off := base.toNat - s.ctxField ctx 48 8
  s.updCtx ctx (fun c => { c with windows := c.windows.filter (fun w => w.1 != off) })

/-- Ownership of an engine ends: its state is zeroed, its stream stopped, its window freed, and its steps with their jobs go (R285, R288,
R435, R432). -/
def State.endOwnership (s : State) (k : Nat) : State :=
  let e := s.engine k
  let a := Actor.easel k
  let s := match s.thread? a, e.owner with
    | some t, some c => if t.privSize = 0 then s else s.freeWindow c t.privBase
    | _, _ => s
  let s := s.dropItems (fun i => decide (i = .fetch a) || decide (i = .self a) || decide (i = .step k))
  let mine (j : Job) : Bool := match j.step with
    | some (c, _) => c == k
    | none => false
  let s := { s with threads := adel s.threads a, flights := s.flights.filter (fun f => decide (f.owner ≠ a)),
                    jobs := s.jobs.filter (fun j => !(mine j)) }
  s.setEngine k {}

/-- Ownership ends when the last crew with an Easel entry of the owner has left the cluster (R22). -/
def State.checkOwnership (s : State) (k : Nat) : State :=
  match (s.engine k).owner with
  | some c => if (s.easelCrews c k).isEmpty then s.endOwnership k else s
  | none => s

/-! ### Exit and retirement (R44, R45) -/

/-- The job has finished (R267): its action is performed, it completed with NOACT, or it ended by a fault. -/
def Job.finished (j : Job) : Bool := j.st == .acted || j.dead

/-- Finished and sealed jobs release their slots (R273). An Easel job needs no seal. -/
def State.freeSlots (s : State) : State :=
  { s with jobs := s.jobs.filter (fun j => !(j.finished && (j.sealed || j.owner.isNone))) }

/-- Mark jobs sealed (R231, R271). -/
def State.sealJobs (s : State) (js : List Nat) : State :=
  State.freeSlots { s with jobs := s.jobs.map (fun j => if js.contains j.id then { j with sealed := true } else j) }

/-- Work that an exit still performs (R44). -/
def Work.outlives : Work → Bool
  | .value _ | .load _ _ _ _ | .tload _ _ | .futr _ _ _ | .draw _ _ _ _ _ none | .sr _ _ _ _ => false
  | _ => true

/-- A flight that an exit leaves in place: a parked access, work that is still performed, or a push (R44). -/
def Flight.outlives (f : Flight) : Bool := f.park.isSome || f.work.outlives || f.dest.isPush

/-- The flights of an ended actor: performed without a result unless it is pushed, or discarded (R44). -/
def State.orphanFlights (s : State) (a : Actor) : State :=
  { s with flights := (s.flights.filter (fun f => !(decide (f.owner = a) && !f.outlives))).map (fun f =>
      if f.owner = a then { f with orphan := true, dest := if f.dest.isPush then f.dest else .none, long := false } else f) }

/-- The destinations that a thread's instruction has reserved and still holds: the one that traps, waits or is to run again. -/
def Thread.reserved (t : Thread) : List Dest :=
  t.trap.dests ++ ((t.replay.map (·.2)).getD []) ++ ((t.pending.map (·.2.dests)).getD []) ++ ((t.met.map (fun m => [m.arr.dest])).getD []) ++
    (match t.wait with
      | .meeting r => [r.dest]
      | _ => [])

/-- An ended thread's pushes and reads whose instructions are not performed are given up (R44). -/
def State.dropReserved (s : State) (a : Actor) (t : Thread) : State :=
  (t.reserved.filter (fun d => !(s.flights.any (fun f => f.dest == d)))).foldl (fun u d => u.dropPush a d) (s.dropReads a)

/-- A COPY_FAULT that no thread of its crew is left to take (R281): a record of kind ORPHAN_COPY_FAULT with the underlying cause. -/
def State.recordCopy (s : State) (ctx : Nat) (f : Cause) : State :=
  s.record ctx (recWords 3 (f.detail.toNat % 256) 0 f.faddr (f.ewid.getD 0) f.access 1 ctx)

/-- A crew whose squads have all retired (R45, R283): its threads and squads go, its registers are no longer state, its
windows return to the pool; its scratchpad drains. -/
def State.retireCrew (s : State) (n : Nat) : State :=
  match s.crew? n with
  | none => s
  | some c =>
    let core := c.at'.core?.getD 0
    let pk := s.crewPkt c
    let s := s.dropItems (fun i => match i with
      | .fetch a => isVector a && crewOf a == n
      | .self a => isVector a && crewOf a == n
      | _ => false)
    let mine (p : Actor × Thread) : Bool := isVector p.1 && crewOf p.1 == n
    let s := (s.threads.filter mine).foldl (fun (u : State) p => p.2.copyFaults.foldl (fun (u : State) f => u.recordCopy c.ctx f) u) s
    let s := { s with threads := s.threads.filter (fun p => !(mine p)), squads := s.squads.filter (fun q => q.crew != n) }
    let s := s.updCrew n (fun c => { c with at' := .draining core })
    let s := if pk.privSize = 0 then s else s.freeWindow c.ctx c.privBase
    let s := match c.task with
      | some k => s.updTask c.launch k (fun t => { t with st := .finished, crew := none })
      | none => s
    let next : List Instr := match c.relaunch with
      | some r => [.relaunchCompare r, .crewScratchRelease n]
      | none => [.crewScratchRelease n]
    let number := (((s.launch? c.launch).map (·.number)).getD 0) * 2 ^ 128 + c.num
    let d := dieOfCore core
    let s := { s with agenda := s.agenda ++ next, retiredTo := cset 0 s.retiredTo d (max (cget 0 s.retiredTo d) number) }
    s.checkOwnership (clusterOfCore core)

/-- EXIT's effect on a thread of a vector core (R44, R45, R271): unsealed copies are sealed, flights go on without a result,
the squad and the crew retire when they empty, and waiting lanes are checked (R36, R161). -/
def State.exitVector (s : State) (t : TRef) (th : Thread) : State :=
  let a := Actor.thread t
  let s := s.sealJobs th.unsealed
  let s := (s.orphanFlights a).dropReserved a th
  let s := s.dropItems (fun i => decide (i = .fetch a) || decide (i = .self a))
  let s := s.setThread a { th with exited := true, wait := .none, region := none, unsealed := [], pending := none,
                                   inHandler := false, yielded := none, log := none }
  let k := (t.crew, t.squad, t.shadow)
  let s := if s.liveMask k = 0 then s.updSquad k (fun q => { q with retired := true }) else s
  if (s.squads.filter (fun q => q.crew == t.crew)).all (·.retired) then s.retireCrew t.crew
  else ((s.armRestart t.crew).releaseBarrier t.crew).checkMeetings k

/-- A thread ends as if by EXIT (R44, R437, R288). -/
def State.exitThread (s : State) (a : Actor) : State :=
  match s.thread? a with
  | none => s
  | some th => match a with
    | .thread t => s.exitVector t th
    | .easel k =>
      ((s.orphanFlights a).setThread a { th with exited := true, wait := .none }).updEngine k (fun e => { e with ended := true })
    | .mp => (s.orphanFlights a).setThread a { th with exited := true, wait := .none }

/-! ### Causes -/

/-- Where a cause strikes: the instruction's address and length, its captured sources, its destinations, whether it captured
sources at all, and whether its fetch failed (R436, R438, R440). -/
structure Site where
  pc : Dword
  len : Nat := 8
  srcs : List Word := []
  dests : List Dest := []
  captured : Bool := false
  fetch : Bool := false
  /-- The parcels it was issued from (R442). -/
  parcels : List Word := []
  deriving DecidableEq, Repr, Inhabited

/-- The list of words as sparse cells numbered from `n`. -/
def numbered (n : Nat) : List Word → Cells Word
  | [] => []
  | w :: r => if w = 0 then numbered (n + 1) r else (n, w) :: numbered (n + 1) r

/-- The trap record of a cause (R436, R438). -/
def fillTrap (t : Thread) (x : Site) (c : Cause) : TrapRec where
  cause := c.code
  detail := c.detail
  epc := c.epc.getD (if c.next then x.pc + dword x.len else x.pc)
  ewid := c.ewid.getD t.wid
  fpc := x.pc
  faddr := c.faddr
  access := c.access
  res0 := 0
  res1 := 0
  savep := word (t.preds.toNat % 256)
  savev := numbered 0 ((List.range 8).map (fun i => if i < t.nregs then cget 0 t.regs i else 0))
  opnd := numbered 0 (x.srcs.take 16)
  len := x.len
  dests := x.dests
  captured := x.captured
  nsrc := x.srcs.length
  rest := x.srcs.drop 16
  fetch := x.fetch
  parcels := x.parcels

/-- Enter the handler with a filled trap record (R436): the region closes, PC := HENTRY. -/
def State.enterHandler (s : State) (a : Actor) (r : TrapRec) : State :=
  match s.thread? a with
  | none => s
  | some t =>
    let h := (s.pktOf t).hentry
    let now := s.cycle (s.issuerOf a)
    let s := s.leaveWait a
    s.setThread a { t.closeRegion with
      met := none, trap := r, pc := h, inHandler := true, handlerCycles := 0, pending := none, wait := s.restWait a, elig := now,
      replay := none, parcels := [], log := none, stepping := 0, reissuing := false, yielded := none }

/-- An outstanding result still has to be written (R436.1): neither parked nor orphaned. -/
def Flight.unsettled (f : Flight) : Bool := f.park.isNone && (f.long || f.dest != .none)

/-- The thread's outstanding results are written or parked (R436.1). -/
def State.settled (s : State) (a : Actor) : Bool := (s.flightsOf a).all (fun f => !f.unsettled)

/-- The causes that a re-issued deferred instruction raises under their own names (R386): those of membership, SPAWN_LIMIT and
PAGE_NOT_PRESENT, which goes its normal route. -/
def keepsName (code : Nat) : Bool := [0x21, 0x22, 0x23, 0x25, 0x40].contains code

/-- Raise a cause that is neither parked nor a page fault (R436, R437, R385, R386, R290):
the Easel stream stops with an EASEL_STOP record; the management processor stops; a thread in its handler ends with a NESTED
record; a speculative task's thread defers; any other thread enters its handler, once its outstanding results have settled, and the other
threads of its crew go on (R47). [DEDUCED, log 22] -/
def State.raise (s : State) (a : Actor) (x : Site) (c : Cause) : State :=
  match s.thread? a with
  | none => s
  | some t => match a with
    | .easel k =>
      (s.updEngine k (fun e => { e with stopped := true })).record t.ctx
        (recWords 4 c.code 0 c.faddr x.pc c.access 2 t.ctx)
    | .mp => s.setThread a { t with exited := true }
    | .thread _ =>
      if t.inHandler then (s.record t.ctx (recWords 5 c.code 0 c.faddr t.wid c.access 0 t.ctx)).exitThread a
      else if s.speculative a then
        (s.leaveWait a).setThread a { t with
          met := none, wait := .deferred, yielded := none, replay := if x.captured then some (x.srcs, x.dests) else none,
          parcels := x.parcels }
      else
        let c := if t.reissuing && !keepsName c.code then
          { c with detail := dword (c.code % 256), code := 0x80, next := false } else c
        let r := fillTrap t x c
        let s := if c.code = 0xA3 then s.countMg (coreBlock (s.coreOf a) + 0x304) else s
        if s.settled a then s.enterHandler a r
        else (s.leaveWait a).setThread a { t with met := none, pending := some (c, r), wait := .trap, yielded := none }

/-- A cause of an instruction that has issued: its result is no longer awaited. Where the thread already has a cause to enter with,
that one stands; an ended thread's is dropped (R44). [DESIGN CHOICE, log 51] -/
def State.raiseLate (s : State) (f : Flight) (c : Cause) : State :=
  let s := s.delFlight f.id
  match s.thread? f.owner with
  | some t =>
    if f.orphan || t.pending.isSome then s.dropPush f.owner f.dest
    else
      let tries : List Dest := match f.work with
        | .basin _ (some p) => [.pred p]
        | _ => []
      s.raise f.owner { pc := f.pc, len := f.len, srcs := f.srcs, dests := (if f.dest = .none then [] else [f.dest]) ++ tries,
                        captured := true, parcels := f.parcels } c
  | none => s.dropPush f.owner f.dest

/-- The policy of the function that owns a context (R458). -/
def State.policy (s : State) (ctx : Nat) : Word := s.mg (fnBlock (Config.ctxFunction ctx))

/-- The context belongs to a virtual function whose policy caps scope at TENANT (R211). [DESIGN CHOICE, log 56] -/
def State.capped (s : State) (ctx : Nat) : Bool := Config.ctxFunction ctx != 0 && (s.policy ctx).toNat % 8 == 4

/-- Under STRICT a capped operation at SYSTEM scope raises SCOPE_DEMOTED (R211). [DESIGN CHOICE, log 56] -/
def State.strictCause (s : State) (ctx : Nat) (sc : Scope) : Option Cause :=
  if sc = .system ∧ s.capped ctx ∧ (s.policy ctx).getLsbD 3 then some { code := 0xA2, detail := 5 } else none

/-- An operation of a context at a scope: one demoted operation is counted where SYSTEM is capped, and
it carries what it would at TENANT scope (R211, R260). [DESIGN CHOICE, log 56] -/
def State.demote (s : State) (ctx : Nat) (sc : Scope) : State :=
  if sc = .system ∧ s.capped ctx then s.countMg (fnBlock (Config.ctxFunction ctx) + 4) else s

end Sys2Proof.Machine
end

