-- ==== Sys2Proof/Machine/Versions.lean ====
section
/-! DEFINITION. Ordered tasks: lineage and spawn records (R365, R371), aborts and their cascade (R376), versioned loads and
stores (R373-R375, R379) and the limits that hold a task (R380). -/

namespace Sys2Proof.Machine

/-! ### Keys (R365) -/

/-- The lineage and the timestamp of a key. -/
def keyLin (k : Nat) : Nat := k % 2 ^ 64
def keyTs (k : Nat) : Nat := k / 2 ^ 64

/-- `u`'s lineage is a proper prefix of `v`'s (R376). -/
def Task.descends (u v : Task) : Bool :=
  let sh := 56 - 8 * u.depth
  decide (u.launch = v.launch ∧ u.depth < v.depth) && keyLin v.key / 2 ^ sh == keyLin u.key / 2 ^ sh

/-- The spawn record of a task (R371). -/
def spawnRecord (t : Task) : List Word :=
  [word (keyLin t.key), word (keyLin t.key / 2 ^ 32), word (keyTs t.key), word (keyTs t.key / 2 ^ 32), t.arg0, t.arg1,
   word (t.lanes - 1), 0]

/-! ### Aborts (R376) -/

/-- A task holds in its read set a version of one of the tasks `ks`. -/
def Task.readsOf (t : Task) (ks : List Nat) : Bool := t.reads.any (fun r => match r.2 with
  | some k => ks.contains k
  | none => false)

/-- One round of the cascade: descendants and readers of the tasks `ks` of a launch join them. -/
def abortGrow (all : List Task) (l : Nat) (ks : List Nat) : List Nat :=
  (all.filter (fun t => t.launch == l && (ks.contains t.key || t.readsOf ks ||
    all.any (fun u => u.launch == l && ks.contains u.key && u.descends t)))).map (·.key)

/-- The tasks an abort of `k` stops: rounds until nothing joins. -/
def abortSet (all : List Task) (l : Nat) : Nat → List Nat → List Nat
  | 0, ks => ks
  | n + 1, ks => abortSet all l n (abortGrow all l ks)

/-- Stop every thread of a crew and retire it without write-back (R376). -/
def State.stopCrew (s : State) (n : Nat) : State :=
  match s.crew? n with
  | none => s
  | some c =>
    let pk := s.crewPkt c
    let mine (a : Actor) : Bool := isVector a && crewOf a == n
    let gone := s.flights.filter (fun f => mine f.owner)
    let s := s.dropItems (fun i => match i with
      | .fetch a => mine a
      | .self a => mine a
      | .flight f => gone.any (fun g => g.id == f)
      | _ => false)
    let s := s.mapMailboxes (·.filter (fun r => !(mine r.owner) || r.words.isSome))
    let s := { s with
      threads := s.threads.filter (fun p => !(mine p.1)), squads := s.squads.filter (fun q => q.crew != n)
      flights := s.flights.filter (fun f => !(mine f.owner)), crews := s.crews.filter (fun c => c.id != n)
      qcmds := s.qcmds.filter (fun k => k.filled || !(match k.sender with
        | .actor a => mine a
        | .window _ _ => false)) }
    let s := if pk.privSize = 0 then s else s.freeWindow c.ctx c.privBase
    match c.at'.core? with
    | some core => s.checkOwnership (clusterOfCore core)
    | none => s

/-- An aborted task as it is queued again: nothing of its run is left (R376). -/
def Task.requeued (t : Task) : Task :=
  { t with st := .queued, reads := [], vers := [], writes := [], calls := 0, held := false, crew := none }

/-- The spawn queue's entry with a key leaves the queue (R376). -/
def State.unspawn (s : State) (q key : Nat) : State :=
  s.updQueue q (fun x => { x with
    ondie := x.ondie.filter (fun e => e.key != key)
    chunks := (x.chunks.map (fun c => (c.1, c.2.1, c.2.2.filter (fun e => e.key != key)))).filter (fun c => !c.2.2.isEmpty) })

/-- Abort a task of a launch (R376): its crew and those of the cascade stop, descendants are discarded, the others are queued
again, spawned ones with their own spawn record. -/
def State.abortTask (s : State) (l k : Nat) : State :=
  let ks := abortSet s.tasks l s.tasks.length [k]
  let hit := s.tasks.filter (fun t => t.launch == l && ks.contains t.key)
  let q := ((s.launch? l).map (·.pkt.spawnq)).getD 0
  let s := hit.foldl (fun u t => match t.crew with
    | some c => u.stopCrew c
    | none => u) s
  let dead (t : Task) : Bool := hit.any (fun u => u.descends t)
  let s := hit.foldl (fun (u : State) (t : Task) => if t.st == .queued && t.root.isNone && dead t then u.unspawn q t.key else u) s
  let s := { s with tasks := s.tasks.filterMap (fun t =>
    if t.launch = l ∧ ks.contains t.key then (if dead t then none else some t.requeued) else some t) }
  hit.foldl (fun (u : State) (t : Task) => if t.root.isNone && t.st != .queued && !(dead t) then u.qInsert q (spawnRecord t) else u) s

/-! ### Versioned accesses (R373-R375, R379) -/

/-- The byte of the version a task with key `k` reads, and whose version it is (R374). -/
def State.version (s : State) (l k pa : Nat) : Option (Nat × Byte) :=
  s.tasks.foldl (fun m t =>
    if t.launch = l ∧ t.key ≤ k then match aget t.vers pa with
      | some b => match m with
        | some x => if x.1 < t.key then some (t.key, b) else m
        | none => some (t.key, b)
      | none => m
    else m) none

/-- The sectors of bytes pa .. pa+n-1. -/
def sectorsOf (pa n : Nat) : List Nat := ((List.range n).map (fun i => (pa + i) / 32)).eraseDups

/-- The compute die on which a home sector lies: stack / 2 (R8, R444). -/
def sectorDie (sec : Nat) : Nat := sec * 32 / 2 ^ 37

/-- Sectors a die's version store holds (R380). -/
def State.storeUse (s : State) (die : Nat) : Nat :=
  s.tasks.foldl (fun n t => n + (t.writes.filter (fun x => sectorDie x == die)).length) 0

/-- The access of a task that is not the frontier would break a limit (R380). -/
def State.overLimit (s : State) (t : Task) (write : Bool) (secs : List Nat) : Bool :=
  let rs := (t.reads.map (·.1)).eraseDups
  if write then
    let new := secs.filter (fun x => !t.writes.contains x)
    decide (256 < t.writes.length + new.length) ||
      new.any (fun x => decide (65536 < s.storeUse (sectorDie x) + (new.filter (fun y => sectorDie y == sectorDie x)).length))
  else decide (512 < (rs ++ secs).eraseDups.length)

/-- A versioned read of bytes pa .. pa+n-1 (R374): the value, whether a check at the home failed, and the state with the read
set. The frontier's reads of sectors outside its read set are not tracked (R379). -/
def State.vLoad (s : State) (l k pa : Nat) : Nat → Nat × Bool × State
  | 0 => (0, false, s)
  | n + 1 =>
    let (lo, src, bad) : Nat × Option Nat × Bool := match s.version l k pa with
      | some (j, b) => (b.toNat, some j, false)
      | none => ((memByte s.mem pa).toNat, none, s.badData pa 1)
    let sec := pa / 32
    let s := s.updTask l k (fun t =>
      if s.frontier l = some k ∧ !(t.reads.any (fun r => r.1 == sec)) then t
      else if t.reads.contains (sec, src) then t
      else { t with reads := (sec, src) :: t.reads })
    let r := s.vLoad l k (pa + 1) n
    (lo + 256 * r.1, bad || r.2.1, r.2.2)

/-- Versions bytes pa .. pa+n-1 of a task take a value. -/
def putVersion (vs : List Host.Cell) (pa : Nat) : Nat → Nat → List Host.Cell
  | 0, _ => vs
  | n + 1, v => putVersion (aset vs pa (BitVec.ofNat 8 (v % 256))) (pa + 1) n (v / 256)

/-- The readers a write of sector `sec` by key `k` aborts (R375): a reader of the writer's own earlier version is one of them,
as the serial order of R258 needs. -/
def State.overtaken (s : State) (l k sec : Nat) : List Nat :=
  (s.tasks.filter (fun t => decide (t.launch = l ∧ k < t.key) && t.reads.any (fun r => r.1 == sec && (match r.2 with
    | none => true
    | some j => decide (j ≤ k))))).map (·.key)

/-- Abort the readers of one sector, highest key first; those the cascade has already stopped no longer read it. [DEDUCED, log 46] -/
def State.abortReaders (s : State) (l k sec : Nat) : Nat → State
  | 0 => s
  | n + 1 => match s.overtaken l k sec with
    | j :: _ => (s.abortTask l j).abortReaders l k sec n
    | [] => s

/-- A versioned write of `n` bytes within one sector (R375); the frontier writes sectors outside its write set at their homes
(R379). -/
def State.vStore (s : State) (l k pa n v : Nat) : State :=
  let sec := pa / 32
  let mine := s.tasks.find? (fun t => t.launch == l && t.key == k)
  let inSet := match mine with
    | some t => t.writes.contains sec
    | none => false
  let s := if s.frontier l = some k ∧ !inSet then s.homeWrite pa n v
    else s.updTask l k (fun t => { t with
      vers := putVersion t.vers pa n v, writes := if t.writes.contains sec then t.writes else sec :: t.writes })
  s.abortReaders l k sec s.tasks.length

/-- The versions of a task are performed at their homes, each word whole. -/
def State.performVersions (s : State) (t : Task) : State :=
  let m := t.vers.foldl (fun m c => memWrite m c.1 1 c.2.toNat) s.mem
  { s with mem := m, failing := t.vers.foldl (fun f c => clearFailing f c.1 1) s.failing,
           threads := s.threads.map (fun x => (x.1, t.vers.foldl (fun u c => u.seeWrite m c.1 1) x.2)) }

/-- What the frontier task has written is performed at its homes before it commits, where a release of it asks for that (R397). -/
def State.flushTask (s : State) (l k : Nat) : State :=
  match s.tasks.find? (fun t => t.launch == l && t.key == k) with
  | some t => (s.performVersions t).updTask l k (fun t => { t with vers := [], writes := [] })
  | none => s

end Sys2Proof.Machine
end

