-- ==== Sys2Proof/Machine/Operands.lean ====
section
/-! DEFINITION. The issue of an instruction: the checks of R118 in their order, the guard (R106), readiness (R114), channels
(R108, R109), the capture of sources (R442) and the writing of a destination. Every instruction's meaning is a body run by
`issue`. -/

namespace Sys2Proof

/-- The operand fields of a full or long instruction; none for the other rows (R104). -/
def Instr.args : Instr → Option Args
  | .nop x => some x
  | .iadd x _ _ => some x
  | .isub x _ _ => some x
  | .imul x _ _ => some x
  | .imulhi x _ => some x
  | .imad x _ _ => some x
  | .imin x _ => some x
  | .imax x _ => some x
  | .iabs x _ _ => some x
  | .and x _ => some x
  | .or x _ => some x
  | .xor x _ => some x
  | .andn x _ => some x
  | .lop3 x _ => some x
  | .shl x _ => some x
  | .shr x _ => some x
  | .sar x _ => some x
  | .rotl x _ => some x
  | .popc x _ => some x
  | .clz x _ => some x
  | .brev x _ => some x
  | .bfx x _ => some x
  | .bfi x _ => some x
  | .prmt x => some x
  | .idp4 x _ _ _ => some x
  | .lea x _ => some x
  | .icmp x _ _ => some x
  | .sel x _ => some x
  | .mov x _ => some x
  | .movi x _ _ => some x
  | .movs x => some x
  | .movsw x => some x
  | .fadd x _ _ => some x
  | .fsub x _ _ => some x
  | .fmul x _ _ => some x
  | .ffma x _ _ => some x
  | .fmin x _ => some x
  | .fmax x _ => some x
  | .fcmp x _ _ => some x
  | .fclass x _ => some x
  | .fdiv x _ _ => some x
  | .fsqrt x _ _ => some x
  | .frcp x _ _ => some x
  | .frsq x => some x
  | .fexp2 x => some x
  | .flog2 x => some x
  | .fsinpi x => some x
  | .fcospi x => some x
  | .ftanh x => some x
  | .fscale x _ _ => some x
  | .fdot2 x _ _ => some x
  | .welf x _ => some x
  | .wmerge x _ => some x
  | .famax x _ => some x
  | .cvt x _ => some x
  | .cvtn x _ _ => some x
  | .cvtw x _ => some x
  | .qnt x _ _ => some x
  | .dqnt x _ _ => some x
  | .bra x _ => some x
  | .brx x => some x
  | .call x _ => some x
  | .callx x => some x
  | .ret x => some x
  | .exit x => some x
  | .yield x => some x
  | .yieldRole x => some x
  | .nap x => some x
  | .pset x _ => some x
  | .pmov x => some x
  | .vote x _ => some x
  | .shfl x _ _ => some x
  | .redux x _ _ => some x
  | .scan x _ _ => some x
  | .matchL x _ => some x
  | .part x => some x
  | .sqbar x => some x
  | .crbar x => some x
  | .mark x _ => some x
  | .regb x => some x
  | .bkpt x => some x
  | .trap x => some x
  | .ld x _ _ => some x
  | .ldLong x _ _ _ => some x
  | .st x _ _ => some x
  | .stLong x _ _ _ => some x
  | .ldt x => some x
  | .stt x => some x
  | .atom x _ _ => some x
  | .atomLong x _ _ _ => some x
  | .atomcas x _ _ => some x
  | .atomcasLong x _ _ _ => some x
  | .atomf x _ _ => some x
  | .atomfLong x _ _ _ => some x
  | .pref x => some x
  | .prefLong x _ => some x
  | .fence x _ => some x
  | .acq x _ => some x
  | .acqLong x _ _ => some x
  | .rel x _ => some x
  | .relLong x _ _ => some x
  | .bind x => some x
  | .bindLong x _ => some x
  | .unbind x => some x
  | .unbindLong x _ => some x
  | .promo x _ => some x
  | .promoLong x _ _ => some x
  | .waita x _ _ => some x
  | .waitaLong x _ _ _ => some x
  | .futr x _ => some x
  | .futrLong x _ _ => some x
  | .futw x _ => some x
  | .futwLong x _ _ => some x
  | .push x _ => some x
  | .pop x _ => some x
  | .qcfg x => some x
  | .qstat x => some x
  | .cpy x => some x
  | .cpyg x => some x
  | .cpys x => some x
  | .cpyc x => some x
  | .cseal x => some x
  | .cwait x => some x
  | .chset x => some x
  | .chsetLong x _ => some x
  | .chstat x => some x
  | .mxreq x => some x
  | .palw x => some x
  | .palr x => some x
  | .mxla x => some x
  | .mxlb x => some x
  | .mxmm x => some x
  | .mxepi x => some x
  | .mxtile x => some x
  | .mxsync x => some x
  | .cvzero x => some x
  | .cvld x => some x
  | .cvst x => some x
  | .mbxpop x _ => some x
  | .mbxdone x => some x
  | .mbxdoneLong x _ => some x
  | .draw x _ => some x
  | .drawk x _ => some x
  | .result x => some x
  | .mutl x => some x
  | .spawn x => some x
  | .trace x => some x
  | .hinsp x => some x
  | .hpoke x => some x
  | .hresume x => some x
  | .hret x => some x
  | .replay x => some x
  | .tlbinv x => some x
  | _ => none

/-- An operand of the channel class. -/
def Opnd.isChan : Opnd → Bool
  | .chan _ _ => true
  | _ => false

/-- A popping operand. -/
def Opnd.pops : Opnd → Bool
  | .chan _ p => p
  | _ => false

/-- The number of registers an operand names, and the first code. -/
def Opnd.span : Opnd → Option (Nat × Nat)
  | .reg c => some (c.toNat, 1)
  | .pair c => some (c.toNat, 2)
  | .run c n => some (c.toNat, n)
  | _ => Option.none

/-- A pair begins at an even code (R107), a run at a multiple of `step`, of its own length where that is 0. -/
def Opnd.aligned (step : Nat) : Opnd → Bool
  | .pair c => c.toNat % 2 == 0
  | .run c n => c.toNat % (if step = 0 then n else step) == 0
  | _ => true

/-- Where the runs of an instruction begin: those of groups 1 and 2 anywhere (R171), but a run of f64 elements, which are pairs, at an
even code (R107, R168, R188, R192); every other run at a multiple of its length (R196). -/
def Instr.runStep : Instr → Nat
  | .cvtn _ t _ | .cvtw _ t | .qnt _ t _ | .dqnt _ t _ => if t.wide then 2 else 1
  | .welf _ _ | .wmerge _ _ => 1
  | _ => 0

/-- What an operand's registers and predicates are, as scoreboard codes: registers 0-255, predicates 256 + n. -/
def Opnd.codes : Opnd → List Nat
  | .reg c => [c.toNat]
  | .pair c => [c.toNat, c.toNat + 1]
  | .run c n => (List.range n).map (c.toNat + ·)
  | .pred n => [256 + n.toNat]
  | _ => []

/-- The predicate of a guard. -/
def Guard.codes (g : Guard) : List Nat := if g.grd = 31 then [] else [256 + g.grd.toNat]

/-- The channel number of an operand. -/
def Opnd.chan? : Opnd → Option Nat
  | .chan n _ => some n.toNat
  | _ => Option.none

/-- The words an operand captures. -/
def Opnd.words : Opnd → Nat
  | .reg _ | .pred _ | .chan _ _ => 1
  | .pair _ => 2
  | .run _ n => n
  | _ => 0

/-- The major opcode of a full or long instruction (R116); 0 for the other rows. -/
def Instr.op : Instr → Nat
  | .nop _ => 0x00
  | .iadd _ _ _ => 0x01
  | .isub _ _ _ => 0x02
  | .imul _ _ _ => 0x03
  | .imulhi _ _ => 0x04
  | .imad _ _ _ => 0x05
  | .imin _ _ => 0x06
  | .imax _ _ => 0x07
  | .iabs _ _ _ => 0x08
  | .and _ _ => 0x09
  | .or _ _ => 0x0A
  | .xor _ _ => 0x0B
  | .andn _ _ => 0x0C
  | .lop3 _ _ => 0x0D
  | .shl _ _ => 0x0E
  | .shr _ _ => 0x0F
  | .sar _ _ => 0x10
  | .rotl _ _ => 0x11
  | .popc _ _ => 0x12
  | .clz _ _ => 0x13
  | .brev _ _ => 0x14
  | .bfx _ _ => 0x15
  | .bfi _ _ => 0x16
  | .prmt _ => 0x17
  | .idp4 _ _ _ _ => 0x18
  | .lea _ _ => 0x19
  | .icmp _ _ _ => 0x1A
  | .sel _ _ => 0x1B
  | .mov _ _ => 0x1C
  | .movi _ _ _ => 0x1D
  | .movs _ => 0x1E
  | .movsw _ => 0x1F
  | .fadd _ _ _ => 0x20
  | .fsub _ _ _ => 0x21
  | .fmul _ _ _ => 0x22
  | .ffma _ _ _ => 0x23
  | .fmin _ _ => 0x24
  | .fmax _ _ => 0x25
  | .fcmp _ _ _ => 0x26
  | .fclass _ _ => 0x27
  | .fdiv _ _ _ => 0x28
  | .fsqrt _ _ _ => 0x29
  | .frcp _ _ _ => 0x2A
  | .frsq _ => 0x2B
  | .fexp2 _ => 0x2C
  | .flog2 _ => 0x2D
  | .fsinpi _ => 0x2E
  | .fcospi _ => 0x2F
  | .ftanh _ => 0x30
  | .fscale _ _ _ => 0x31
  | .fdot2 _ _ _ => 0x32
  | .welf _ _ => 0x33
  | .wmerge _ _ => 0x34
  | .famax _ _ => 0x35
  | .cvt _ _ => 0x40
  | .cvtn _ _ _ => 0x41
  | .cvtw _ _ => 0x42
  | .qnt _ _ _ => 0x43
  | .dqnt _ _ _ => 0x44
  | .bra _ _ => 0x60
  | .brx _ => 0x61
  | .call _ _ => 0x62
  | .callx _ => 0x63
  | .ret _ => 0x64
  | .exit _ => 0x65
  | .yield _ => 0x66
  | .yieldRole _ => 0x66
  | .nap _ => 0x67
  | .pset _ _ => 0x68
  | .pmov _ => 0x69
  | .vote _ _ => 0x6A
  | .shfl _ _ _ => 0x6B
  | .redux _ _ _ => 0x6C
  | .scan _ _ _ => 0x6D
  | .matchL _ _ => 0x6E
  | .part _ => 0x6F
  | .sqbar _ => 0x70
  | .crbar _ => 0x71
  | .mark _ _ => 0x72
  | .regb _ => 0x73
  | .bkpt _ => 0x74
  | .trap _ => 0x75
  | .ld _ _ _ => 0x80
  | .ldLong _ _ _ _ => 0x80
  | .st _ _ _ => 0x81
  | .stLong _ _ _ _ => 0x81
  | .ldt _ => 0x82
  | .stt _ => 0x83
  | .atom _ _ _ => 0x84
  | .atomLong _ _ _ _ => 0x84
  | .atomcas _ _ _ => 0x85
  | .atomcasLong _ _ _ _ => 0x85
  | .atomf _ _ _ => 0x86
  | .atomfLong _ _ _ _ => 0x86
  | .pref _ => 0x87
  | .prefLong _ _ => 0x87
  | .fence _ _ => 0x88
  | .acq _ _ => 0x89
  | .acqLong _ _ _ => 0x89
  | .rel _ _ => 0x8A
  | .relLong _ _ _ => 0x8A
  | .bind _ => 0x8B
  | .bindLong _ _ => 0x8B
  | .unbind _ => 0x8C
  | .unbindLong _ _ => 0x8C
  | .promo _ _ => 0x8D
  | .promoLong _ _ _ => 0x8D
  | .waita _ _ _ => 0x8E
  | .waitaLong _ _ _ _ => 0x8E
  | .futr _ _ => 0x8F
  | .futrLong _ _ _ => 0x8F
  | .futw _ _ => 0x90
  | .futwLong _ _ _ => 0x90
  | .push _ _ => 0x91
  | .pop _ _ => 0x92
  | .qcfg _ => 0x93
  | .qstat _ => 0x94
  | .cpy _ => 0xA0
  | .cpyg _ => 0xA1
  | .cpys _ => 0xA2
  | .cpyc _ => 0xA3
  | .cseal _ => 0xA4
  | .cwait _ => 0xA5
  | .chset _ => 0xA6
  | .chsetLong _ _ => 0xA6
  | .chstat _ => 0xA7
  | .mxreq _ => 0xA8
  | .palw _ => 0xC0
  | .palr _ => 0xC1
  | .mxla _ => 0xC2
  | .mxlb _ => 0xC3
  | .mxmm _ => 0xC4
  | .mxepi _ => 0xC5
  | .mxtile _ => 0xC6
  | .mxsync _ => 0xC7
  | .cvzero _ => 0xC8
  | .cvld _ => 0xC9
  | .cvst _ => 0xCA
  | .mbxpop _ _ => 0xCB
  | .mbxdone _ => 0xCC
  | .mbxdoneLong _ _ => 0xCC
  | .draw _ _ => 0xE0
  | .drawk _ _ => 0xE1
  | .result _ => 0xE2
  | .mutl _ => 0xE3
  | .spawn _ => 0xE4
  | .trace _ => 0xE5
  | .hinsp _ => 0xE6
  | .hpoke _ => 0xE7
  | .hresume _ => 0xE8
  | .hret _ => 0xE9
  | .replay _ => 0xEA
  | .tlbinv _ => 0xEB
  | _ => 0

/-- The bytes of an instruction (R96). -/
def Instr.bytes : Instr → Nat
  | .movi _ _ _ => 12
  | .ldLong _ _ _ _ => 12
  | .stLong _ _ _ _ => 12
  | .atomLong _ _ _ _ => 12
  | .atomcasLong _ _ _ _ => 12
  | .atomfLong _ _ _ _ => 12
  | .prefLong _ _ => 12
  | .acqLong _ _ _ => 12
  | .relLong _ _ _ => 12
  | .bindLong _ _ => 12
  | .unbindLong _ _ => 12
  | .promoLong _ _ _ => 12
  | .waitaLong _ _ _ _ => 12
  | .futrLong _ _ _ => 12
  | .futwLong _ _ _ => 12
  | .chsetLong _ _ => 12
  | .mbxdoneLong _ _ => 12
  | .nopC p => if p then 8 else 4
  | .movC p _ _ => if p then 8 else 4
  | .iaddC p _ _ => if p then 8 else 4
  | .isubC p _ _ => if p then 8 else 4
  | .andC p _ _ => if p then 8 else 4
  | .orC p _ _ => if p then 8 else 4
  | .xorC p _ _ => if p then 8 else 4
  | .shlC p _ _ => if p then 8 else 4
  | .shrC p _ _ => if p then 8 else 4
  | .sarC p _ _ => if p then 8 else 4
  | .iaddiC p _ _ => if p then 8 else 4
  | .moviC p _ _ => if p then 8 else 4
  | .faddC p _ _ => if p then 8 else 4
  | .fmulC p _ _ => if p then 8 else 4
  | .fmaxC p _ _ => if p then 8 else 4
  | .fminC p _ _ => if p then 8 else 4
  | .imulC p _ _ => if p then 8 else 4
  | .iminC p _ _ => if p then 8 else 4
  | .imaxC p _ _ => if p then 8 else 4
  | .ldC p _ _ _ => if p then 8 else 4
  | .stC p _ _ _ => if p then 8 else 4
  | .braC p _ => if p then 8 else 4
  | _ => 8

/-- The fields of a compact operation as those of the full form it acts as (R140, R141): D = A = rd, S = rs or the immediate.
LD.c and ST.c keep rs in A, and ST.c its data in C. -/
def CInstr.args (i : CInstr) : Args :=
  let g : Guard := ⟨31, false⟩
  match i with
  | .nop => ⟨g, 0, .none, .none, .none, .none⟩
  | .mov d s => ⟨g, 0, .reg d, .reg s, .none, .none⟩
  | .iadd d s | .isub d s | .and d s | .or d s | .xor d s | .fadd d s | .fmul d s | .fmax d s | .fmin d s | .imul d s
  | .imin d s | .imax d s => ⟨g, 0, .reg d, .reg d, .reg s, .none⟩
  | .shl d i | .shr d i | .sar d i => ⟨g, 0, .reg d, .reg d, .none, .imm (i.setWidth 8)⟩
  | .iaddi d i => ⟨g, 0, .reg d, .reg d, .none, .imm (i.signExtend 8)⟩
  | .movi d _ => ⟨g, 0, .reg d, .none, .none, .none⟩
  | .ld d s _ => ⟨g, 0, .reg d, .reg s, .none, .none⟩
  | .st d s _ => ⟨g, 0, .none, .reg s, .none, .reg d⟩
  | .bra _ => ⟨g, 0, .none, .none, .none, .none⟩

/-- The compact operation and PAIR bit of an instruction. -/
def Instr.compact : Instr → Option (CInstr × Bool)
  | .nopC p => some (.nop, p)
  | .movC p d s => some (.mov d s, p)
  | .iaddC p d s => some (.iadd d s, p)
  | .isubC p d s => some (.isub d s, p)
  | .andC p d s => some (.and d s, p)
  | .orC p d s => some (.or d s, p)
  | .xorC p d s => some (.xor d s, p)
  | .shlC p d i => some (.shl d i, p)
  | .shrC p d i => some (.shr d i, p)
  | .sarC p d i => some (.sar d i, p)
  | .iaddiC p d i => some (.iaddi d i, p)
  | .moviC p d l => some (.movi d l, p)
  | .faddC p d s => some (.fadd d s, p)
  | .fmulC p d s => some (.fmul d s, p)
  | .fmaxC p d s => some (.fmax d s, p)
  | .fminC p d s => some (.fmin d s, p)
  | .imulC p d s => some (.imul d s, p)
  | .iminC p d s => some (.imin d s, p)
  | .imaxC p d s => some (.imax d s, p)
  | .ldC p d s i => some (.ld d s i, p)
  | .stC p d s i => some (.st d s i, p)
  | .braC p o => some (.bra o, p)
  | _ => Option.none

/-- The space of an LD, ST or WAITA is `.x` (R197). -/
def Instr.isX : Instr → Bool
  | .ld _ _ sp | .ldLong _ _ sp _ | .st _ _ sp | .stLong _ _ sp _ | .waita _ _ sp | .waitaLong _ _ sp _ => sp == .x
  | _ => false

/-- CVTN with stochastic rounding (R113, R190). -/
def Instr.isSr : Instr → Bool
  | .cvtn _ _ m => m == .sr
  | _ => false

/-- FENCE, ACQ and REL at SYSTEM scope (R383). -/
def Instr.sysSync : Instr → Bool
  | .fence _ sc | .acq _ sc | .acqLong _ sc _ | .rel _ sc | .relLong _ sc _ => sc == .system
  | _ => false

/-- CVTN with a Palette capture (R383, R188). -/
def Instr.captures : Instr → Bool
  | .cvtn x _ _ => x.b != .imm 0
  | _ => false

end Sys2Proof

namespace Sys2Proof.Machine

/-- Where an opcode runs (R117). -/
inductive Where where
  | any | vector | easel
  deriving DecidableEq, Repr, Inhabited

/-- What an opcode's privilege is (R117). -/
inductive Priv where
  | none | handlerOrFirmware | handler | firmware
  deriving DecidableEq, Repr, Inhabited

/-- Where a major opcode runs (R117). -/
def opWhere (op : Nat) : Where :=
  if (0x6A ≤ op ∧ op ≤ 0x71) ∨ op = 0x73 ∨ op = 0x82 ∨ op = 0x83 ∨ (0xA0 ≤ op ∧ op ≤ 0xA8) ∨ (0xE0 ≤ op ∧ op ≤ 0xE9) then .vector
  else if 0xC2 ≤ op ∧ op ≤ 0xCC then .easel
  else .any

/-- The privilege of a major opcode (R117). -/
def opPriv (op : Nat) : Priv :=
  if op = 0x93 then .handlerOrFirmware
  else if 0xE6 ≤ op ∧ op ≤ 0xE9 then .handler
  else if op = 0xEA ∨ op = 0xEB then .firmware
  else .none

/-- What an instruction needs of the issue logic. -/
structure Iss where
  instr : Instr
  x : Args
  /-- Bytes (R96). -/
  len : Nat := 8
  /-- Instructions it counts for in the windows: 2 for a compact pair (R114). -/
  count : Nat := 1
  eng : Where := .any
  priv : Priv := .none
  /-- In the long-latency class by its opcode (R113); a popping operand adds itself. -/
  long : Bool := false
  /-- Closes an open region before it takes effect (R164). -/
  closes : Bool := false
  /-- Accesses global or private memory and so takes an operand-log entry (R442). -/
  logs : Bool := false
  /-- D is a source too (R121). -/
  readsD : Bool := false
  /-- C names a predicate that is written: FAMAX, POP.try, MBXPOP.try (R184, R223, R292). -/
  cOut : Bool := false
  /-- Irrevocable in a speculative task (R383), as far as the instruction alone says. -/
  irrev : Bool := false
  /-- Scoreboard codes it reads or writes beyond its fields: v1 of CALL, CALLX and RET (R145), the predicates of PMOV (R150). -/
  regs : List Nat := []
  deriving Repr, Inhabited

/-- The opcodes of the long-latency class (R113). -/
def opLong (op : Nat) : Bool :=
  [0x80, 0x82, 0x84, 0x85, 0x86, 0x8F, 0x92, 0xE0, 0xE1].contains op || (0x28 ≤ op && op ≤ 0x30)

/-- The opcodes that close an open region (R164). -/
def opCloses (op : Nat) : Bool :=
  (0x6A ≤ op && op ≤ 0x71) || (0x62 ≤ op && op ≤ 0x65) || [0x74, 0x75].contains op ||
  [0x84, 0x85, 0x86, 0x8A, 0x8B, 0x8C, 0x8D, 0x90, 0x91, 0x92].contains op || (0xA0 ≤ op && op ≤ 0xA4) || op == 0xA8 ||
  [0xE3, 0xE4, 0xE5].contains op

/-- The opcodes that access global or private memory for a thread (R442). -/
def opLogs (op : Nat) : Bool :=
  (0x62 ≤ op && op ≤ 0x64) || (0x80 ≤ op && op ≤ 0x86) || [0x89, 0x8A, 0x8E, 0x8F, 0x90].contains op

/-- The opcodes of irrevocable actions (R383). -/
def opIrrev (op : Nat) : Bool :=
  (0xA0 ≤ op && op ≤ 0xA3) || [0x91, 0x92, 0xE3, 0xE5, 0xA8, 0xC0, 0x8F, 0x90, 0x8B, 0x8C, 0x8D].contains op

/-- What an instruction needs of the issue logic, from its opcode and fields. -/
def issOf (i : Instr) : Iss :=
  match i.args with
  | some x =>
    { instr := i, x := x, len := i.bytes, eng := if i.isX || i.isSr then .vector else opWhere i.op, priv := opPriv i.op,
      long := opLong i.op || i.isSr, closes := opCloses i.op, logs := opLogs i.op && !i.isX,
      readsD := [0x0D, 0x16, 0x33, 0x34, 0x35, 0x8B].contains i.op,
      cOut := [0x35, 0x92, 0xCB].contains i.op,
      irrev := opIrrev i.op || (i.op == 0x8E && !i.isX) || i.sysSync || i.captures,
      regs := if 0x62 ≤ i.op ∧ i.op ≤ 0x64 then [1] else if i.op = 0x69 then (List.range 24).map (256 + ·) else [] }
  | none => match i.compact with
    | some (c, p) =>
      { instr := i, x := c.args, len := i.bytes, count := if p then 2 else 1, eng := match c with
          | .ld _ _ _ | .st _ _ _ => .vector
          | _ => .any }
    | none => { instr := i, x := ⟨⟨31, false⟩, 0, .none, .none, .none, .none⟩ }

/-- The words of the operands an instruction reads, by field. -/
structure Vals where
  a : List Word := []
  b : List Word := []
  c : List Word := []
  d : List Word := []
  deriving DecidableEq, Repr, Inhabited

/-- How an instruction's body answers. `done`: the result words go to D (or into a window, for the long-latency class) and the pc
advances. `fly`: the result comes later. `jump`: done with another pc. `raise`: a cause. `stay`: the thread does not issue; it waits
on the condition and issues again. `wait`: it has issued and waits at the instruction. `meet`: it arrives at a collective with its
mask. `park`: its access met an absent page (R448); with work it goes on as a flight, without the thread waits at the instruction.
`held`: as `stay` for the frontier, keeping the marks of its task (R380). `gone`: the state is whole as it stands. -/
inductive Body where
  | done (ws : List Word) (s : State)
  | fly (w : Work) (s : State)
  | jump (pc : Dword) (s : State)
  | raise (c : Cause) (s : State)
  | stay (w : Wait)
  | wait (w : Wait) (s : State)
  | meet (mask : Word) (s : State)
  | park (ea : Dword) (access : Word) (w : Option Work) (s : State)
  | held (s : State)
  | gone (s : State)

/-! ### Checks at decode (R117, R118) -/

/-- The actor runs firmware: the management processor, or code of context 0 (R433). -/
def isFirmware (a : Actor) (t : Thread) : Bool := a == .mp || t.ctx == 0

/-- WRONG_ENGINE (R117, R287, R433): vector-only rows, the rows of the Easel core alone (none of which the management
processor runs), channel operands and LD.c or ST.c off the vector cores. [DEDUCED, log 22] -/
def wrongEngine (a : Actor) (p : Iss) : Bool :=
  match a with
  | .thread _ => p.eng == .easel
  | .easel _ => p.eng == .vector || p.x.d.isChan || p.x.a.isChan || p.x.b.isChan
  | .mp => p.eng != .any || p.x.d.isChan || p.x.a.isChan || p.x.b.isChan

/-- PRIVILEGED (R117, R439). -/
def privileged (a : Actor) (t : Thread) (p : Priv) : Bool :=
  match p with
  | .none => false
  | .handlerOrFirmware => !(t.inHandler || isFirmware a t)
  | .handler => !t.inHandler
  | .firmware => !isFirmware a t

/-- BAD_REGISTER of one operand (R18, R107, R171, R196, R287): the code it blames. -/
def badOperand (vector : Bool) (nregs : Nat) (step : Nat) (o : Opnd) : Option Nat :=
  match o with
  | .pred n => if 24 ≤ n.toNat then some n.toNat else none
  | _ => match o.span with
    | none => none
    | some (c, n) =>
      let bad :=
        if c < 224 then decide (nregs < c + n ∨ 224 < c + n)
        else !vector || decide (256 < c + n)
      if bad || !(o.aligned step) then some c else none

/-- BAD_REGISTER, operands in the order D, A, B, C. [DESIGN CHOICE, log 20] -/
def badRegister (a : Actor) (t : Thread) (step : Nat) (x : Args) : Option Nat :=
  [x.d, x.a, x.b, x.c].findSome? (badOperand (isVector a) t.nregs step)

/-- The decode checks that depend on who executes, in the order of R118. `chk` holds those that the entry adds to
RESERVED_FIELD and its neighbours (R137). -/
def decodeCheck (a : Actor) (t : Thread) (p : Iss) (chk : Option Cause) : Option Cause :=
  if wrongEngine a p then some { code := 0x07 }
  else if privileged a t p.priv then some { code := 0x08 }
  else if chk.isSome then chk
  else match badRegister a t p.instr.runStep p.x with
    | some c => some { code := 0x05, detail := dword c }
    | none => none

/-! ### The guard and readiness (R106, R114) -/

/-- The guard holds (R106). An instruction that is executed again from its captured sources reads none: its guard held (R440). -/
def guardOn (t : Thread) (g : Guard) : Bool := t.replay.isSome || (if g.grd = 31 then true else t.pred g.grd.toNat != g.neg)

/-- The predicate a `.try` command answers in (R223). -/
def Flight.predCode (f : Flight) : List Nat :=
  match f.work with
  | .basin _ (some p) => [256 + p]
  | _ => []

/-- The destinations of the actor's outstanding results, and those of its squad's other groups in squad registers (R19,
R114). -/
def State.pendingCodes (s : State) (a : Actor) : List Nat :=
  (s.flights.filter (fun f => !f.orphan)).flatMap (fun f =>
    if f.owner = a then f.dest.codes ++ f.predCode
    else if isVector f.owner && isVector a && squadKey f.owner == squadKey a && f.group != s.grp.num then
      f.dest.codes.filter (fun c => 224 ≤ c && c < 256)
    else [])

/-- The scoreboard lets the instruction issue (R114). -/
def State.scoreboard (s : State) (a : Actor) (codes : List Nat) : Bool :=
  let p := s.pendingCodes a
  codes.all (fun c => !p.contains c)

/-- Every outstanding instruction's window count is at least the instructions to issue (R114). -/
def State.windowsOpen (s : State) (a : Actor) (n : Nat) : Bool :=
  (s.flightsOf a).all (fun f => !f.long || decide (n ≤ f.window))

/-- In the long-latency class (R113). -/
def Iss.isLong (p : Iss) : Bool := p.long || p.x.a.pops || p.x.b.pops

/-- The issue groups that hold operand-log entries of the actor's squad: parked accesses, and threads parked at their instructions
(R442). -/
def State.logGroups (s : State) (a : Actor) : List Nat :=
  ((s.flights.filter (fun f => f.log && isVector f.owner && squadKey f.owner == squadKey a)).map (·.group) ++
    (s.threads.filter (fun p => isVector p.1 && squadKey p.1 == squadKey a)).filterMap (fun p => p.2.log)).eraseDups

/-- Operand-log entries of the actor's squad taken by other issue groups (R442). -/
def State.logUse (s : State) (a : Actor) : Nat := ((s.logGroups a).filter (· != s.grp.num)).length

/-- The thread can issue at all: it has not exited, waits on nothing, and no cause or step holds it. The meeting of a formed collective
issues though its arrival was the stepped instruction (R440). -/
def State.canIssue (s : State) (a : Actor) (t : Thread) : Bool :=
  !t.exited && t.wait == .none && t.pending.isNone && (t.stepping != 2 || t.met.isSome) &&
  (match a with
    | .easel k => !(s.engine k).stopped
    | _ => true)

/-- The scoreboard, the windows, the limit of 8 and the operand log let the instruction issue (R27, R114, R442). -/
def State.ready (s : State) (a : Actor) (t : Thread) (p : Iss) : Bool :=
  s.canIssue a t && s.windowsOpen a p.count &&
  s.scoreboard a (p.x.d.codes ++ p.x.a.codes ++ p.x.b.codes ++ p.x.c.codes ++ p.x.guard.codes ++ p.regs) &&
  (!p.isLong || decide (((s.flightsOf a).filter (·.long)).length < 8)) &&
  (!p.logs || !isVector a || t.log.isSome || decide (s.logUse a < 8))

/-- A guarded-off instruction needs its guard and the windows only (R106, R114). -/
def State.readyOff (s : State) (a : Actor) (t : Thread) (p : Iss) : Bool :=
  s.canIssue a t && s.windowsOpen a p.count && s.scoreboard a p.x.guard.codes

/-! ### Channels (R108, R109, R358) -/

/-- What the channel operands allow: go on, wait, a cause, or ask the Basin first: the reads an instruction makes of a BASIN channel
go to its queue as one command (R358), those of several channels together, for nothing is popped until all are present (R109). -/
inductive ChanAns where
  | go
  | wait (w : Wait)
  | bad (c : Cause)
  /-- For each channel: its number, queue, entries needed, entries removed. -/
  | ask (l : List (Nat × Nat × Nat × Nat))
  deriving DecidableEq, Repr, Inhabited

/-- The words the Basin has given the instruction the thread stands at from channel `c` (R358). -/
def Thread.answer? (t : Thread) (c : Nat) : Option (List Word) :=
  (t.got.find? (fun g => g.1 == t.pc && g.2.1 == c)).map (·.2.2)

/-- The queue a channel names is usable by the context as an operand: configured, owned, 4-byte entries, no spawn queue (R108,
R222, R364). -/
def State.chanQueueOk (s : State) (ctx q : Nat) : Bool :=
  match s.queue? q with
  | some x => s.queueOk ctx q && x.esize == 0
  | none => false

/-- The reads an instruction makes of channel `c`: for A then B, whether it pops. -/
def chanReads (x : Args) (c : Nat) : List Bool :=
  (match x.a with
    | .chan n p => if n.toNat = c then [p] else []
    | _ => []) ++
  (match x.b with
    | .chan n p => if n.toNat = c then [p] else []
    | _ => [])

/-- The entries the reads need present, and the entries they remove (R109). -/
def readsNeed (l : List Bool) : Nat × Nat :=
  match l with
  | [] => (0, 0)
  | [p] => (1, b2n p)
  | p :: q :: _ => (1 + b2n p, b2n p + b2n q)

/-- Source use of channel `c` (R108, R109): every entry it reads is present, LOCAL places filled, BASIN entries answered. -/
def State.chanSource (s : State) (a : Actor) (t : Thread) (c : Nat) (l : List Bool) : ChanAns :=
  let x := s.chan a c
  let (need, pops) := readsNeed l
  if (t.answer? c).isSome then .go
  else match x.kind with
    | .unset => match a with
      | .thread r => if r.shadow ∧ c = 0 then .wait (.channel [(c, need, 0)]) else .bad { code := 0x06, detail := dword c }
      | _ => .bad { code := 0x06, detail := dword c }
    | .easel => .bad { code := 0x06, detail := dword c }
    | .loc _ _ =>
      if need ≤ x.places.length ∧ (x.places.take need).all (·.full) then .go else .wait (.channel [(c, need, 0)])
    | .basin q => if s.chanQueueOk t.ctx q then .ask [(c, q, need, pops)] else .bad { code := 0x85, detail := dword q }

/-- The EASEL mailbox of the actor's cluster can take a request of its context (R235, R236). -/
def State.mailboxAns (s : State) (a : Actor) (ctx : Nat) : ChanAns :=
  let e := s.engine (clusterOfCore (s.coreOf a))
  if e.owner ≠ some ctx ∨ e.ended then .bad { code := 0x63 }
  else if 64 ≤ e.mailbox.length then .wait .mailbox
  else .go

/-- A push to c0 by the shadow lane of a compute lane that has exited: its word is discarded (R279). -/
def State.discards (s : State) (a : Actor) (c : Nat) : Bool :=
  match a with
  | .thread t => t.shadow && c == 0 && (match s.thread? (s.chanOwner a c) with
    | some o => o.exited
    | none => true)
  | _ => false

/-- Destination use of channel `c`: a place is free once the instruction's own pops are made (R109, R279). [DESIGN CHOICE, log 53] -/
def State.chanDest (s : State) (a : Actor) (ctx c : Nat) (l : List Bool) : ChanAns :=
  let x := s.chan a c
  if s.discards a c then .go
  else match x.kind with
    | .unset => match a with
      | .thread t => if t.shadow ∧ c = 0 then .wait (.channel [(c, 0, 1)]) else .bad { code := 0x06, detail := dword c }
      | _ => .bad { code := 0x06, detail := dword c }
    | .easel => match s.mailboxAns a ctx with
      | .wait _ => .wait (.channel [(c, 0, 1)])
      | r => r
    | .loc _ depth => if x.places.length < depth + (readsNeed l).2 then .go else .wait (.channel [(c, 0, 1)])
    | .basin q => if s.chanQueueOk ctx q then .go else .bad { code := 0x85, detail := dword q }

/-- The channels' answer for an instruction: A, then B, then D; a cause first, then a wait, then what the Basin is to be asked. -/
def State.chanCheck (s : State) (a : Actor) (t : Thread) (x : Args) : ChanAns :=
  let srcs := ([x.a, x.b].filterMap Opnd.chan?).eraseDups
  let ans := srcs.map (fun c => s.chanSource a t c (chanReads x c)) ++
    (match x.d with
      | .chan n _ => [s.chanDest a t.ctx n.toNat (chanReads x n.toNat)]
      | _ => [])
  let bad (r : ChanAns) : Bool := match r with
    | .bad _ => true
    | _ => false
  let wait (r : ChanAns) : Bool := match r with
    | .wait _ => true
    | _ => false
  let asks := ans.flatMap (fun r => match r with
    | .ask l => l
    | _ => [])
  ((ans.find? bad).orElse (fun _ => ans.find? wait)).getD (if asks.isEmpty then .go else .ask asks)

/-- Under DETERMINISTIC a pop of the c0 ring of a lane that has not exited counts toward arming while occupancy is below ROLELOW;
occupancy at a pop is taken before its entry goes (R276). [DESIGN CHOICE, log 53] -/
def State.notePop (s : State) (a : Actor) (c : Nat) : State :=
  match s.crew? (crewOf a) with
  | none => s
  | some k =>
    let pk := s.crewPkt k
    let live : Bool := match s.thread? (s.chanOwner a c) with
      | some o => !o.exited
      | none => false
    if c = 0 ∧ isVector a ∧ live ∧ pk.deterministic ∧ pk.rolelow ≠ 0 then
      if s.occupancy k.id < pk.rolelow then
        s.updCrew k.id (fun k => { k with armCount := k.armCount + 1, armed := k.armed || decide (pk.rolepops ≤ k.armCount + 1) })
      else s.updCrew k.id (fun k => { k with armCount := 0 })
    else s

/-- Read the head of channel `c`, popping it if so marked (R109): an answered BASIN read, or the head of a LOCAL ring. -/
def State.chanRead (s : State) (a : Actor) (c : Nat) (pop : Bool) : Word × State :=
  match (s.thread? a).bind (·.answer? c) with
  | some ws =>
    (ws.headD 0, if pop then s.updThread a (fun t => { t with
        got := t.got.map (fun g => if g.1 = t.pc ∧ g.2.1 = c then (g.1, g.2.1, ws.tail) else g) }) else s)
  | none =>
    let x := s.chan a c
    match x.kind with
    | .loc _ depth =>
      (s.placeWord a c 0,
        if pop then (s.notePop a c).setChan a c { x with head := (x.head + 1) % depth, places := x.places.tail } else s)
    | _ => (0, s)

/-! ### Capture and destinations -/

/-- The words of one source operand, in register order (R438), and the state after its pop (R109). -/
def State.readOpnd (s : State) (a : Actor) (t : Thread) (o : Opnd) : List Word × State :=
  match o with
  | .reg c => ([s.reg a t c.toNat], s)
  | .pair c => ([s.reg a t c.toNat, s.reg a t (c.toNat + 1)], s)
  | .run c n => ((List.range n).map (fun i => s.reg a t (c.toNat + i)), s)
  | .pred n => ([word (b2n (t.pred n.toNat))], s)
  | .chan n p => let (w, s) := s.chanRead a n.toNat p; ([w], s)
  | _ => ([], s)

/-- Capture the sources: A, then B, then C, then D where it is a source (R109, R438, R442). [DEDUCED, log 23] -/
def State.capture (s : State) (a : Actor) (t : Thread) (p : Iss) : Vals × State :=
  let (va, s) := s.readOpnd a t p.x.a
  let (vb, s) := s.readOpnd a t p.x.b
  let (vc, s) := if p.cOut then ([], s) else s.readOpnd a t p.x.c
  let (vd, s) := if p.readsD then s.readOpnd a t p.x.d else ([], s)
  (⟨va, vb, vc, vd⟩, s)

/-- The captured words in one list (R438). -/
def Vals.all (v : Vals) : List Word := v.a ++ v.b ++ v.c ++ v.d

/-- Take a captured list apart again by the operands' sizes. [DEDUCED, log 23] -/
def splitVals (p : Iss) (l : List Word) : Vals :=
  let na := p.x.a.words
  let nb := p.x.b.words
  let nc := if p.cOut then 0 else p.x.c.words
  ⟨l.take na, (l.drop na).take nb, (l.drop (na + nb)).take nc, l.drop (na + nb + nc)⟩

/-- Reserve the destination: a push takes the next place of its ring, of its thread's commands to the queue, or of the mailbox (R109,
R235, R358). -/
def State.reserve (s : State) (a : Actor) (d : Opnd) : Dest × State :=
  match d with
  | .reg c => (.reg c.toNat, s)
  | .pair c => (.pair c.toNat, s)
  | .run c n => (.run c.toNat n, s)
  | .pred n => (.pred n.toNat, s)
  | .chan n _ =>
    let c := n.toNat
    let x := s.chan a c
    let (i, u) := s.fresh
    if s.discards a c then (.none, s)
    else match x.kind with
      | .loc _ _ => (.chan c i, u.setChan a c { x with places := x.places ++ [⟨i, false⟩] })
      | .basin q =>
        (.send i, { u with qcmds := u.qcmds ++ [{
          id := i, q := q, sender := .actor a, ctx := ((s.thread? a).map (·.ctx)).getD 0, filled := false, op := .push [] }] })
      | .easel => (.post i, u.updEngine (clusterOfCore (s.coreOf a)) (fun e => { e with mailbox := e.mailbox ++ [⟨i, a, none⟩] }))
      | .unset => (.none, s)
  | _ => (.none, s)

/-- The destination of an instruction: D, and for FAMAX the predicate C names (R184). -/
def State.reserveFor (s : State) (a : Actor) (p : Iss) : Dest × State :=
  match p.instr, p.x.d, p.x.c with
  | .famax _ _, .reg c, .pred n => (.regPred c.toNat n.toNat, s)
  | .bind _, _, _ => (.none, s)
  | .bindLong _ _, _, _ => (.none, s)
  | _, d, _ => s.reserve a d

/-- The predicate a `.try` form writes beside D (R223). -/
def Iss.tryDest (p : Iss) : List Dest :=
  match p.instr, p.x.c with
  | .pop _ true, .pred n => [.pred n.toNat]
  | _, _ => []

/-- The destinations an instruction names in its fields, those of a channel apart (R440). -/
def Iss.dests (p : Iss) : List Dest :=
  (match p.instr, p.x.d, p.x.c with
    | .bind _, _, _ | .bindLong _ _, _, _ => []
    | .famax _ _, .reg c, .pred n => [.regPred c.toNat n.toNat]
    | _, .reg c, _ => [.reg c.toNat]
    | _, .pair c, _ => [.pair c.toNat]
    | _, .run c n, _ => [.run c.toNat n]
    | _, .pred n, _ => [.pred n.toNat]
    | _, _, _ => []) ++ p.tryDest

/-- The destination of a compact operation. -/
def compactDest (i : CInstr) : Dest :=
  match i.args.d with
  | .reg c => .reg c.toNat
  | _ => .none

/-- Post a request to the mailbox of the actor's cluster (R236, R291). -/
def State.postMailbox (s : State) (a : Actor) (ws : List Word) : State :=
  let (i, s) := s.fresh
  s.updEngine (clusterOfCore (s.coreOf a)) (fun e => { e with mailbox := e.mailbox ++ [⟨i, a, some ws⟩] })

/-- Write words to consecutive registers at issue. -/
def State.writeRegs (s : State) (a : Actor) (code : Nat) : List Word → State
  | [] => s
  | w :: r => (s.writeReg a code w).writeRegs a (code + 1) r

/-- Write words to consecutive registers when a result comes late; a squad register keeps the order of issue (R19). [DEDUCED, log 61] -/
def State.writeRegsLate (s : State) (a : Actor) (grp code : Nat) : List Word → State
  | [] => s
  | w :: r =>
    let s := if code < 224 then s.writeReg a code w else s.writeSreg (squadKey a) (code - 224) grp (laneOf a) w
    s.writeRegsLate a grp (code + 1) r

/-- Write a destination at issue: registers, a predicate from bit 0, or a channel. -/
def State.writeDest (s : State) (a : Actor) (d : Dest) (ws : List Word) : State :=
  match d with
  | .none => s
  | .reg c => s.writeRegs a c (ws.take 1)
  | .pair c => s.writeRegs a c (ws.take 2)
  | .run c n => s.writeRegs a c (ws.take n)
  | .pred n => s.updThread a (fun t => t.setPred n ((ws.headD 0).getLsbD 0))
  | .regPred c n => (s.writeRegs a c (ws.take 1)).updThread a (fun t => t.setPred n ((ws.getD 1 0).getLsbD 0))
  | d => (s.writePush a d (ws.headD 0)).armRestart (crewOf a)

/-- Write a destination when a result comes late. -/
def State.writeDestLate (s : State) (a : Actor) (grp : Nat) (d : Dest) (ws : List Word) : State :=
  match d with
  | .reg c => s.writeRegsLate a grp c (ws.take 1)
  | .pair c => s.writeRegsLate a grp c (ws.take 2)
  | .run c n => s.writeRegsLate a grp c (ws.take n)
  | .regPred c n => (s.writeRegsLate a grp c (ws.take 1)).updThread a (fun t => t.setPred n ((ws.getD 1 0).getLsbD 0))
  | d => s.writeDest a d ws

/-! ### Issue -/

/-- Every later instruction a thread issues decrements its open windows (R114), and is one that its parked loads come before (R242). -/
def State.tickWindows (s : State) (a : Actor) (n : Nat) : State :=
  { s with flights := s.flights.map (fun f =>
      if f.owner = a then { f with later := true, window := if f.long ∧ f.orphan = false then f.window - n else f.window } else f) }

/-- What issuing ends in a thread; a stepped instruction has issued, and its flights have numbers from the next on (R440). -/
def Thread.afterIssue (t : Thread) (next : Nat) : Thread :=
  { t with replay := none, parcels := [], log := none, reissuing := false, bpSkip := false,
           stepping := if t.stepping = 1 then 2 else t.stepping, stepPc := if t.stepping = 1 then t.pc else t.stepPc,
           stepMark := if t.stepping = 1 then next else t.stepMark }

/-- The thread has issued: it moves to `pc`, its windows count, its eligibility time is the next cycle (R27), and it counts as
issued for the threads that yielded to it (R34). -/
def State.issued (s : State) (a : Actor) (n : Nat) (pc : Dword) : State :=
  let now := s.cycle (s.issuerOf a)
  (s.tickWindows a n).updThread a (fun t => { t.afterIssue s.next with pc := pc, elig := now + 1 })

/-- An instruction's flight (R114, R442). -/
def State.launchFlight (s : State) (a : Actor) (t : Thread) (p : Iss) (dest : Dest) (srcs : List Word) (w : Work)
    (long : Bool) (park : Option Nat) : State :=
  let (i, s) := s.fresh
  { s with flights := s.flights ++ [{
      id := i, owner := a, group := s.grp.num, pc := t.pc, len := p.len, ctx := t.ctx, core := s.coreOf a,
      launch := t.launch, crew := crewOf a, window := p.x.la.toNat, long := long, dest := dest, work := w, srcs := srcs,
      log := park.isSome && p.logs, park := park, orphan := false, parcels := s.grp.parcels }] }

/-- The site of an instruction for a cause (R436), with the parcels it was issued from (R442). -/
def siteOf (s : State) (t : Thread) (p : Iss) (srcs : List Word) (dest : Dest) (captured : Bool) : Site :=
  { pc := t.pc, len := p.len, srcs := srcs, dests := (if dest = .none then [] else [dest]) ++ p.tryDest, captured := captured,
    parcels := s.grp.parcels }

/-- WHO and SOURCE of an actor's fault records (R450): the WID of a thread, the pc of a scalar core. -/
def whoOf (a : Actor) (t : Thread) : Dword × Nat :=
  match a with
  | .thread _ => (t.wid, 0)
  | _ => (t.pc, 2)

/-- An instruction whose access met an absent page (R448): deferred in a speculative task (R385); a flight that parks where it
has work to leave behind (R115); else the thread waits at it and issues again from its captured sources (R109). On the Easel core it always
waits at it, though R290 says that it parks under R115: whether it may first issue within an open window is left open.
[DESIGN CHOICE, log 54] -/
def State.parkInstr (s : State) (a : Actor) (t : Thread) (p : Iss) (dest : Dest) (srcs : List Word) (ea : Dword)
    (access : Word) (w : Option Work) : State :=
  if s.speculative a then
    s.updThread a (fun u => { u with
      wait := .deferred, yielded := none, replay := some (srcs, [dest]), parcels := s.grp.parcels, log := if p.logs then some (u.log.getD s.grp.num) else none })
  else
    let (who, src) := whoOf a t
    let posted := match a with
      | .easel _ => none
      | _ => w
    match posted with
    | some w =>
      let s := s.issued a p.count (t.pc + dword p.len)
      let f := s.next
      let s := s.launchFlight a t p dest srcs w p.isLong none
      let (i, s) := s.parkAt (.flight f) t.ctx ea who access src
      s.updFlight f (fun x => { x with park := some i, log := p.logs })
    | none =>
      let (i, s) := s.parkAt (.self a) t.ctx ea who access src
      s.updThread a (fun u => { u with
        wait := .park i, yielded := none, replay := some (srcs, [dest]), parcels := s.grp.parcels, log := if p.logs then some (u.log.getD s.grp.num) else none })

/-- The thread has issued an instruction and waits at it (R32). -/
def State.arriveWait (s : State) (a : Actor) (n : Nat) (w : Wait) : State :=
  (s.tickWindows a n).updThread a (fun u => { u.afterIssue s.next with wait := w, yielded := none })

/-- A thread of the group under way does not issue in this cycle (R27). -/
def State.noIssue (s : State) (a : Actor) : State := { s with grp := { s.grp with stalled := a :: s.grp.stalled } }

/-- A thread of the group under way does not issue in this cycle (R27): it waits on a condition, or stays eligible. -/
def State.stall (s : State) (a : Actor) (w : Wait) : State :=
  let s := s.noIssue a
  if w = .none then s else s.updThread a (fun u => { u with wait := w, yielded := none })

/-- Settle a body's answer: `s0` is the state before anything was read. -/
def State.settle (s0 : State) (a : Actor) (t : Thread) (p : Iss) (dest : Dest) (srcs : List Word) : Body → State
  | .done ws s =>
    let next := t.pc + dword p.len
    if p.isLong then (s.issued a p.count next).launchFlight a t p dest srcs (.value ws) true none
    else (s.writeDest a dest ws).issued a p.count next
  | .fly w s => (s.issued a p.count (t.pc + dword p.len)).launchFlight a t p dest srcs w p.isLong none
  | .jump pc s => s.issued a p.count pc
  | .raise c s => s.raise a (siteOf s t p srcs dest true) c
  | .stay w => s0.stall a w
  | .wait w s => s.arriveWait a p.count w
  | .meet mask s => (s.arriveWait a p.count (.meeting ⟨p.instr, t.pc, mask, srcs, dest⟩)).checkMeetings (squadKey a)
  | .park ea access w s => s.parkInstr a t p dest srcs ea access w
  | .held s => State.stall { s0 with tasks := s.tasks } a .frontier
  | .gone s => s

/-- A channel operand of kind BASIN or EASEL is irrevocable too (R383). -/
def State.usesOuterChan (s : State) (a : Actor) (x : Args) : Bool :=
  ([x.d, x.a, x.b].filterMap Opnd.chan?).any (fun c => match (s.chan a c).kind with
    | .basin _ | .easel => true
    | _ => false)

/-- The instruction closes an open region before it takes effect (R164): by its opcode, by popping or by pushing. -/
def Iss.closesRegion (p : Iss) : Bool := p.closes || p.x.a.pops || p.x.b.pops || p.x.d.isChan

/-- The state in which the body runs: sources captured, popped and reserved, the region closed where the instruction closes
it (R109, R164). -/
def State.begin (s : State) (a : Actor) (t : Thread) (p : Iss) : Vals × Dest × State :=
  match t.replay with
  | some (srcs, dests) =>
    (splitVals p srcs, dests.headD (s.reserveFor a p).1, if p.closesRegion then s.updThread a Thread.closeRegion else s)
  | none =>
    let s := if p.closesRegion then s.updThread a Thread.closeRegion else s
    let (v, s) := s.capture a t p
    let (d, s) := s.reserveFor a p
    (v, d, if p.x.a.isChan || p.x.b.isChan then s.updThread a (fun u => { u with got := u.got.filter (fun g => g.1 != u.pc) }) else s)

/-- The channels are not looked at again where the sources are already captured (R109, R440). -/
def State.chanGate (s : State) (a : Actor) (t : Thread) (p : Iss) : ChanAns :=
  if t.replay.isSome then .go else s.chanCheck a t p.x

/-- Send the reads of BASIN channels to their queues, one command each, and wait for the answers at issue (R109, R358); pops close an open
region (R164). -/
def State.askBasin (s : State) (a : Actor) (t : Thread) (l : List (Nat × Nat × Nat × Nat)) : State :=
  let s := if l.all (fun x => x.2.2.2 == 0) then s else s.updThread a Thread.closeRegion
  let lead := s.next
  let cmd (x : (Nat × Nat × Nat × Nat) × Nat) : QCmd :=
    { id := lead + x.2, q := x.1.2.1, sender := .actor a, ctx := t.ctx, op := .read x.1.1 x.1.2.2.1 x.1.2.2.2 lead }
  State.stall { s with next := lead + l.length, qcmds := s.qcmds ++ l.zipIdx.map cmd } a (.command lead)

/-- An instruction whose guard is true and which is ready (R109, R384): the frontier, channels, capture, then its body. -/
def State.perform (s : State) (a : Actor) (t : Thread) (p : Iss) (body : Actor → Thread → Vals → State → Body) : State :=
  if (p.irrev || s.usesOuterChan a p.x) && s.speculative a then s.stall a .frontier
  else match s.chanGate a t p with
    | .bad c => s.raise a { siteOf s t p [] .none false with dests := p.dests } c
    | .wait w => s.stall a w
    | .ask l => s.askBasin a t l
    | .go =>
      let b := s.begin a t p
      s.settle a t p b.2.1 b.1.all (body a t b.1 b.2.2)

/-- Issue for one thread: decode checks before the guard (R118), then the guard (R106), readiness, and the instruction. -/
def State.issueFor (s : State) (a : Actor) (t : Thread) (p : Iss) (chk : Option Cause)
    (body : Actor → Thread → Vals → State → Body) : State :=
  if !s.canIssue a t then s.stall a .none
  else match decodeCheck a t p chk with
    | some c => s.raise a { pc := t.pc, len := p.len, dests := p.dests } c
    | none =>
      if guardOn t p.x.guard then
        if s.ready a t p then s.perform a t p body else s.stall a .none
      else if s.readyOff a t p then s.issued a p.count (t.pc + dword p.len) else s.stall a .none

/-- The meaning of an instruction of the acting thread, with the entry's own checks at decode. [DESIGN CHOICE, log 60] -/
def issueChk (s : State) (p : Iss) (chk : Actor → Thread → Option Cause) (body : Actor → Thread → Vals → State → Body) :
    Out :=
  match s.grp.who with
  | none => .fault .noActor
  | some a => match s.thread? a with
    | none => .fault .noActor
    | some t => .next (s.issueFor a t p (chk a t) body)

/-- The meaning of an instruction of the acting thread. -/
def issue (s : State) (p : Iss) (body : Actor → Thread → Vals → State → Body) : Out :=
  issueChk s p (fun _ _ => none) body

/-- A body that only computes its result words from the operands. -/
def pureBody (f : Vals → List Word) : Actor → Thread → Vals → State → Body := fun _ _ v s => .done (f v) s

/-- The second source S (R119): the immediate where C holds one, else B. -/
def sWord (x : Args) (v : Vals) (imm : BitVec 8 → Word) : Word :=
  match x.c with
  | .imm i => imm i
  | _ => v.b.headD 0

end Sys2Proof.Machine
end

