-- ==== Sys2Proof/Machine/Fetch.lean ====
section
/-! DEFINITION. Fetching an instruction's parcels (R96-R98), breakpoints (R479), and the causes of a parcel that does not
decode, in the order of R118. -/

namespace Sys2Proof.Machine

/-- What a fetch meets. -/
inductive FetchRes where
  | got (p0 p1 p2 : Word)
  | cause (code : Nat) (ea : Dword) (len : Nat)
  | absent (ea : Dword) (len : Nat)
  deriving DecidableEq, Repr, Inhabited

/-- One parcel, read at its home with fetch rights (R98). -/
def State.parcel (s : State) (ctx : Nat) (ea : Dword) : Except (Option Nat) Word × State :=
  match s.translate ctx .fetch ea with
  | (.ok pa, s) => if s.badData pa 4 then (.error (some 0x44), s) else (.ok (word (s.homeRead pa 4)), s)
  | (.bad c, s) => (.error (some c), s)
  | (.absent, s) => (.error none, s)

/-- A parcel of the verified image, which the management processor runs (R433, R468); its thread is the one that runs no launch.
[DESIGN CHOICE, log 15] -/
def State.imageParcel (s : State) (t : Thread) (ea : Dword) : Option Word :=
  let img := s.plat.image
  let o := (ea - Config.mpImageAt img).toNat
  if t.launch.isNone ∧ o + 4 ≤ img.length then
    some (word (((img.drop o).take 4).foldr (fun (b : Byte) n => b.toNat + 256 * n) 0))
  else none

/-- Parcel `i` of the instruction a thread stands at: as its operand-log entry recorded it, where the thread executes it again (R440, R442),
else as it is fetched. -/
def State.parcelOf (s : State) (t : Thread) (i : Nat) : Except (Option Nat) Word × State :=
  match (if t.replay.isSome then t.parcels[i]? else none), s.imageParcel t (t.pc + dword (4 * i)) with
  | some w, _ | none, some w => (.ok w, s)
  | none, none => s.parcel t.ctx (t.pc + dword (4 * i))

/-- How a parcel that is not there is reported: `len` is the length HRET takes for the instruction (R440). [DEDUCED, log 21] -/
def fetchMiss (e : Option Nat) (ea : Dword) (len : Nat) : FetchRes :=
  match e with
  | some c => .cause c ea len
  | none => .absent ea len

/-- The parcels of the instruction a thread stands at (R96, R98); parcels it does not have read 0. [DEDUCED, log 58] -/
def State.fetch (s : State) (t : Thread) : FetchRes × State :=
  match s.parcelOf t 0 with
  | (.error e, s) => (fetchMiss e t.pc 4, s)
  | (.ok p0, s) =>
    let n := parcelsOf p0
    if n ≤ 1 then (.got p0 0 0, s)
    else match s.parcelOf t 1 with
      | (.error e, s) => (fetchMiss e (t.pc + 4) (4 * n), s)
      | (.ok p1, s) =>
        if n = 2 then (.got p0 p1 0, s)
        else match s.parcelOf t 2 with
          | (.error e, s) => (fetchMiss e (t.pc + 8) (4 * n), s)
          | (.ok p2, s) => (.got p0 p1 p2, s)

/-- A breakpoint entry matches the thread (R479). -/
def State.bpMatch (s : State) (t : Thread) (n : Nat) : Bool :=
  let b := 0x100 + 0x20 * n
  let ctl := s.mg b
  let m := s.mg64 (b + 0x18)
  ctl.getLsbD 31 && ctl.toNat % 65536 == t.ctx && s.mg64 (b + 8) == t.pc.toNat &&
  (t.wid.toNat &&& m) == (s.mg64 (b + 0x10) &&& m)

/-- Some enabled entry matches and the thread is not told to pass it once (R479). -/
def State.breaks (s : State) (t : Thread) : Bool :=
  !t.bpSkip && ((List.range 4).any (fun n => s.bpMatch t n))

/-- WRONG_ENGINE of fields that do not decode, on the Easel core or the management processor (R117, R137, R190, R287). [DEDUCED, log 22] -/
def rawWrongEngine (a : Actor) (r : Raw) : Bool :=
  let op := r.op.toNat
  match a with
  | .thread _ => opWhere op == .easel
  | _ => opWhere op == .vector || (a == .mp && opWhere op == .easel) || r.dch || r.ach || r.bch ||
    ((op == 0x80 || op == 0x81 || op == 0x8E) && r.md.toNat % 4 == 1) || (op == 0x41 && r.md.toNat / 8 == 4) ||
    ((op == 0x1E || op == 0x1F) && !([4, 0x21].contains r.c.toNat || (0x28 ≤ r.c.toNat && r.c.toNat ≤ 0x2F)))

/-- The cause of an instruction that does not decode (R118): checks 3 and 4 come before RESERVED_FIELD. -/
def decodeCause (a : Actor) (t : Thread) (p0 p1 : Word) (e : DecodeErr) : Cause :=
  match e with
  | .illegalLength => { code := 0x01 }
  | .undefinedOpcode => { code := 0x02 }
  | .reservedField =>
    if parcelsOf p0 = 1 then { code := 0x03 }
    else
      let r := rawOf p0 p1
      if rawWrongEngine a r then { code := 0x07 }
      else if privileged a t (opPriv r.op.toNat) then { code := 0x08 }
      else { code := 0x03 }

/-- The registers that the second half of a pair names join those of the first (R102, R114). -/
def State.pairRegs (s : State) (t : Thread) (i : Instr) (p : Iss) : Iss :=
  match i.compact with
  | some (_, true) => match (s.parcelOf t 1).1 with
    | .ok q => match decodeCompact q with
      | .ok y =>
        let z := y.args
        { p with regs := p.regs ++ z.d.codes ++ z.a.codes ++ z.b.codes ++ z.c.codes }
      | .error _ => p
    | .error _ => p
  | _ => p

/-- The next instruction of a thread and what it needs of the issue logic; none where its parcels cannot be fetched or decoded. -/
def State.nextIss (s : State) (t : Thread) : Option (Instr × Iss) :=
  match (s.fetch t).1 with
  | .got p0 p1 p2 => match decode p0 p1 p2 with
    | .ok i => some (i, s.pairRegs t i (issOf i))
    | .error _ => none
  | _ => none

/-- The scoreboard, its windows and the operand log let a thread's next instruction issue (R27, R114). A fetch that fails, or parcels that
do not decode, can always be taken up. -/
def State.readyThread (s : State) (a : Actor) : Bool :=
  match s.thread? a with
  | none => false
  | some t =>
    s.canIssue a t && (match s.nextIss t with
      | some (_, p) => if guardOn t p.x.guard then s.ready a t p else s.readyOff a t p
      | none => true)

/-- The length a first parcel gives its instruction for HRET: 8 for a pair, and 4 where the length code is reserved (R96, R440).
[DEDUCED, log 21] -/
def lenOf (p0 : Word) : Nat := if p0.toNat % 8 = 4 then 8 else max 4 (4 * parcelsOf p0)

/-- The instruction at which a thread stands, as the site of a cause that strikes before it issues (R436, R440). -/
def State.siteAt (s : State) (t : Thread) : Site :=
  match (s.parcelOf t 0).1 with
  | .error _ => { pc := t.pc, len := 4 }
  | .ok p0 =>
    let dests : List Dest := match (s.fetch t).1 with
      | .got p0 p1 p2 => match decode p0 p1 p2 with
        | .ok i => match i.compact with
          | some (x, true) => match (s.parcelOf t 1).1 with
            | .ok q => match decodeCompact q with
              | .ok y => [compactDest x, compactDest y]
              | .error _ => [compactDest x]
            | .error _ => [compactDest x]
          | _ => (issOf i).dests
        | .error _ => []
      | _ => []
    { pc := t.pc, len := lenOf p0, dests := dests }

/-- The ACCESS word of a fetch: kind 3, space .g, 4 bytes (R438). -/
def fetchAccess : Word := accessWord .fetch 0 4

/-- Park a fetch at its pc (R442, R448), or defer it in a speculative task (R385). -/
def State.parkFetch (s : State) (a : Actor) (t : Thread) (ea : Dword) : State :=
  if s.speculative a then s.setThread a { t with wait := .deferred, yielded := none }
  else
    let src := match a with
      | .thread _ => 0
      | _ => 2
    let (i, s) := s.parkAt (.fetch a) t.ctx ea (if src = 0 then t.wid else t.pc) fetchAccess src
    s.setThread a { t with wait := .park i, yielded := none }

end Sys2Proof.Machine
end

