-- ==== Sys2Proof/Machine/Formats.lean ====
section
/-! DEFINITION. Number formats (R70-R85): exact values, their decoding, every rounding, and the correctly rounded functions of
R179 and R180. Everything is exact arithmetic on natural numbers; a value is a sign and a ratio. -/

namespace Sys2Proof.Machine

/-- An exact value: NaN, an infinity, or a signed ratio `num / den` with `den` positive; zero keeps its sign (R88). -/
inductive Exact where
  | nan
  | inf (neg : Bool)
  | fin (neg : Bool) (num den : Nat)
  deriving DecidableEq, Repr, Inhabited

/-- Numeric zero, of either sign. -/
def Exact.isZero : Exact → Bool
  | .fin _ n _ => n == 0
  | _ => false
def Exact.isNan : Exact → Bool
  | .nan => true
  | _ => false
def Exact.neg : Exact → Exact
  | .nan => .nan
  | .inf s => .inf (!s)
  | .fin s n d => .fin (!s) n d
def Exact.abs : Exact → Exact
  | .nan => .nan
  | .inf _ => .inf false
  | .fin _ n d => .fin false n d
/-- An integer as an exact value; 0 is +0. -/
def Exact.ofInt (x : Int) : Exact := .fin (decide (x < 0)) x.natAbs 1

/-- A ratio times 2^e. -/
def scale2 (n d : Nat) (e : Int) : Nat × Nat := if 0 ≤ e then (n * 2 ^ e.toNat, d) else (n, d * 2 ^ (-e).toNat)

/-- floor(log2(n / d)) of a positive ratio. -/
def ilog2 (n d : Nat) : Int :=
  let e : Int := (n.log2 : Int) - (d.log2 : Int)
  let r := scale2 n d (-e)
  if r.1 < r.2 then e - 1 else e

/-! ### Exact arithmetic (R88, R173, R179) -/

def Exact.mul : Exact → Exact → Exact
  | .nan, _ => .nan
  | _, .nan => .nan
  | .inf s, .inf t => .inf (s != t)
  | .inf s, .fin t n _ => if n = 0 then .nan else .inf (s != t)
  | .fin s n _, .inf t => if n = 0 then .nan else .inf (s != t)
  | .fin s n d, .fin t m e => .fin (s != t) (n * m) (d * e)

/-- Division as IEEE 754-2019: x/0 is an infinity, 0/0 and Inf/Inf are NaN (R179). -/
def Exact.div : Exact → Exact → Exact
  | .nan, _ => .nan
  | _, .nan => .nan
  | .inf _, .inf _ => .nan
  | .inf s, .fin t _ _ => .inf (s != t)
  | .fin s _ _, .inf t => .fin (s != t) 0 1
  | .fin s n d, .fin t m e => if m = 0 then (if n = 0 then .nan else .inf (s != t)) else .fin (s != t) (n * e) (d * m)

/-- A sum of two; an exact zero takes the sign of R88. -/
def Exact.add (m : Rnd) : Exact → Exact → Exact
  | .nan, _ => .nan
  | _, .nan => .nan
  | .inf s, .inf t => if s = t then .inf s else .nan
  | .inf s, _ => .inf s
  | _, .inf t => .inf t
  | .fin s n d, .fin t k e =>
    let a : Int := if s then -(n * e : Nat) else (n * e : Nat)
    let b : Int := if t then -(k * d : Nat) else (k * d : Nat)
    let x := a + b
    if x = 0 then (if n = 0 ∧ k = 0 ∧ s = t then .fin s 0 1 else .fin (m == .rd) 0 1)
    else .fin (decide (x < 0)) x.natAbs (d * e)

def Exact.sub (m : Rnd) (a b : Exact) : Exact := a.add m b.neg

/-- Numeric order of two values that are not NaN: -1, 0 or 1. -/
def Exact.cmp : Exact → Exact → Int
  | .inf s, .inf t => b2n t - b2n s
  | .inf s, _ => if s then -1 else 1
  | _, .inf t => if t then 1 else -1
  | .fin s n d, .fin t k e =>
    let a : Int := if s then -(n * e : Nat) else (n * e : Nat)
    let b : Int := if t then -(k * d : Nat) else (k * d : Nat)
    if a < b then -1 else if a = b then 0 else 1
  | _, _ => 0

/-! ### The IEEE formats (R77, R78, R80) -/

/-- An IEEE format: exponent and mantissa widths. -/
structure Fmt where
  eb : Nat
  mb : Nat
  deriving DecidableEq, Repr, Inhabited

def fp16 : Fmt := ⟨5, 10⟩
def bf16 : Fmt := ⟨8, 7⟩
def fp32 : Fmt := ⟨8, 23⟩
def fp64 : Fmt := ⟨11, 52⟩

def Fmt.bias (f : Fmt) : Nat := 2 ^ (f.eb - 1) - 1
/-- The exponent of the smallest normal number. -/
def Fmt.emin (f : Fmt) : Int := 1 - (f.bias : Int)
def Fmt.width (f : Fmt) : Nat := 1 + f.eb + f.mb
def Fmt.signBit (f : Fmt) : Nat := 2 ^ (f.eb + f.mb)
/-- The pattern of +Inf. -/
def Fmt.infPat (f : Fmt) : Nat := (2 ^ f.eb - 1) * 2 ^ f.mb
/-- The canonical quiet NaN (R78). -/
def Fmt.nanPat (f : Fmt) : Nat := f.infPat + 2 ^ (f.mb - 1)

/-- The exact value of a pattern; subnormals as they are (R77). -/
def Fmt.decode (f : Fmt) (p : Nat) : Exact :=
  let neg := p.testBit (f.eb + f.mb)
  let e := p / 2 ^ f.mb % 2 ^ f.eb
  let m := p % 2 ^ f.mb
  if e = 2 ^ f.eb - 1 then (if m = 0 then .inf neg else .nan)
  else
    let sig := if e = 0 then m else 2 ^ f.mb + m
    let r := scale2 sig 1 ((max e 1 : Nat) - (f.bias : Int) - f.mb)
    .fin neg r.1 r.2

/-- Whether a quotient with remainder `r` of `d` above `q` rounds away from zero (R77, R85). -/
def roundsUp (m : Rnd) (neg : Bool) (q r d : Nat) : Bool :=
  match m with
  | .rne => decide (d < 2 * r) || (decide (2 * r = d) && q % 2 == 1)
  | .rz => false
  | .ru => decide (r ≠ 0) && !neg
  | .rd => decide (r ≠ 0) && neg
  | .sr => false

/-- A ratio rounded to an integer magnitude (RoundInt, R85). -/
def roundRatio (m : Rnd) (neg : Bool) (n d : Nat) : Nat := n / d + b2n (roundsUp m neg (n / d) (n % d) d)

/-- What overflow delivers (R77): an infinity, or the largest finite magnitude. -/
def overflowInf (m : Rnd) (neg : Bool) : Bool :=
  match m with
  | .rne => true
  | .rz => false
  | .ru => !neg
  | .rd => neg
  | .sr => false

/-- A positive ratio as a multiple of the quantum at its exponent: the exponent above emin, and the scaled ratio. -/
def Fmt.quantum (f : Fmt) (n d : Nat) : Nat × Nat × Nat :=
  let e := max f.emin (ilog2 n d)
  let r := scale2 n d (f.mb - e)
  ((e - f.emin).toNat, r.1, r.2)

/-- Round an exact value into an IEEE format (R80): one rounding, the canonical NaN. -/
def Fmt.round (f : Fmt) (m : Rnd) : Exact → Nat
  | .nan => f.nanPat
  | .inf s => b2n s * f.signBit + f.infPat
  | .fin s n d =>
    if n = 0 then b2n s * f.signBit
    else
      let q := f.quantum n d
      let mag := q.1 * 2 ^ f.mb + roundRatio m s q.2.1 q.2.2
      b2n s * f.signBit + (if f.infPat ≤ mag then (if overflowInf m s then f.infPat else f.infPat - 1) else mag)

/-- SRound into FP16 or BF16 (R83): the low 4 bits of the nibble, saturating finite values. -/
def Fmt.sround (f : Fmt) (r : Nat) : Exact → Nat
  | .nan => f.nanPat
  | .inf s => b2n s * f.signBit + f.infPat
  | .fin s n d =>
    if n = 0 then b2n s * f.signBit
    else
      let q := f.quantum n d
      let a := q.2.1 / q.2.2
      let frac := (q.2.1 % q.2.2) * 16 / q.2.2
      let mag := q.1 * 2 ^ f.mb + a + b2n (decide (16 ≤ frac + r % 16))
      b2n s * f.signBit + min mag (f.infPat - 1)

/-! ### GF4, GF6 and GF8 (R71-R74, R79, R83) -/

/-- A narrow format: width, mantissa bits, bias. -/
structure Narrow where
  w : Nat
  mb : Nat
  bias : Nat
  deriving DecidableEq, Repr, Inhabited

def gf8 : Narrow := ⟨8, 3, 7⟩
def gf6 : Narrow := ⟨6, 2, 3⟩
def gf4 : Narrow := ⟨4, 1, 1⟩

/-- The NaN code: the sign bit alone (R71). -/
def Narrow.nanCode (f : Narrow) : Nat := 2 ^ (f.w - 1)
/-- The code of the maximum magnitude. -/
def Narrow.maxCode (f : Narrow) : Nat := 2 ^ (f.w - 1) - 1

/-- The magnitude of a code without its sign: 0 for code 0, a hidden one for every other (R71). -/
def Narrow.mag (f : Narrow) (c : Nat) : Nat × Nat :=
  if c = 0 then (0, 1)
  else scale2 (2 ^ f.mb + c % 2 ^ f.mb) 1 ((c / 2 ^ f.mb : Nat) - (f.bias : Int) - f.mb)

/-- The exact value of a code (R71). -/
def Narrow.decode (f : Narrow) (c : Nat) : Exact :=
  if c = f.nanCode then .nan
  else
    let r := f.mag (c % f.nanCode)
    .fin (c.testBit (f.w - 1)) r.1 r.2

/-- n/d < m/e. -/
def ratLt (a b : Nat × Nat) : Bool := decide (a.1 * b.2 < b.1 * a.2)

/-- The largest code up to `k` whose magnitude does not exceed the ratio. -/
def Narrow.floorCode (f : Narrow) (r : Nat × Nat) : Nat → Nat
  | 0 => 0
  | k + 1 => if ratLt r (f.mag (k + 1)) then f.floorCode r k else k + 1

/-- The fraction (x - a)/(b - a) of a magnitude above code `a`, as a ratio. -/
def Narrow.frac (f : Narrow) (r : Nat × Nat) (a : Nat) : Nat × Nat :=
  let x := f.mag a
  let y := f.mag (a + 1)
  ((r.1 * x.2 - x.1 * r.2) * y.2, (y.1 * x.2 - x.1 * y.2) * r.2)

/-- A sign and a magnitude code; magnitude zero is code zero (R79). -/
def Narrow.code (f : Narrow) (neg : Bool) (c : Nat) : Nat := if c = 0 then 0 else b2n neg * f.nanCode + c

/-- RoundNarrow (R79, R85). -/
def Narrow.round (f : Narrow) (m : Rnd) : Exact → Nat
  | .nan => f.nanCode
  | .inf s => f.code s f.maxCode
  | .fin s n d =>
    let a := f.floorCode (n, d) f.maxCode
    if a = f.maxCode then f.code s a
    else
      let q := f.frac (n, d) a
      f.code s (a + b2n (roundsUp m s a q.1 q.2))

/-- SRound into a GF format (R83). -/
def Narrow.sround (f : Narrow) (r : Nat) : Exact → Nat
  | .nan => f.nanCode
  | .inf s => f.code s f.maxCode
  | .fin s n d =>
    let a := f.floorCode (n, d) f.maxCode
    if a = f.maxCode then f.code s a
    else
      let q := f.frac (n, d) a
      let k := if f.w = 4 then 3 else 4
      f.code s (a + b2n (decide (2 ^ k ≤ q.1 * 2 ^ k / q.2 + r % 2 ^ k)))

/-! ### Conversions to integers (R81) -/

/-- RoundInt of a value that is finite; SatInt's bound for an infinity, 0 for NaN. -/
def Exact.toInt (m : Rnd) (signed : Bool) (w : Nat) : Exact → Int
  | .nan => 0
  | .inf s => satInt signed w (if s then -(2 ^ w) else 2 ^ w)
  | .fin s n d =>
    let q : Int := roundRatio m s n d
    satInt signed w (if s then -q else q)

/-! ### Packed formats by code (R70, R75, R188) -/

/-- The bits of an element of a format code 0x01-0x0C. -/
def codeWidth (f : Nat) : Nat :=
  match f with
  | 1 | 2 | 5 => 4
  | 6 => 6
  | 3 | 4 | 7 => 8
  | 8 | 9 => 16
  | 10 | 11 => 32
  | 12 => 64
  | _ => 8

/-- The integer formats: signed, width. -/
def codeInt (f : Nat) : Option (Bool × Nat) :=
  match f with
  | 1 => some (true, 4)
  | 2 => some (false, 4)
  | 3 => some (true, 8)
  | 4 => some (false, 8)
  | 11 => some (true, 32)
  | _ => none

def codeNarrow (f : Nat) : Option Narrow :=
  match f with
  | 5 => some gf4
  | 6 => some gf6
  | 7 => some gf8
  | _ => none

def codeIeee (f : Nat) : Option Fmt :=
  match f with
  | 8 => some fp16
  | 9 => some bf16
  | 10 => some fp32
  | 12 => some fp64
  | _ => none

/-- Decode(f, code) (R85). -/
def decodeCode (f c : Nat) : Exact :=
  match codeInt f with
  | some (signed, w) => .ofInt (if signed then sint w c else (c : Int))
  | none => match codeNarrow f with
    | some g => g.decode c
    | none => match codeIeee f with
      | some g => g.decode c
      | none => .nan

/-- A value rounded into a format: R79, R80 or R81; with `sr` the nibble decides (R83, R189). -/
def encodeCode (f : Nat) (m : Rnd) (nib : Nat) (x : Exact) : Nat :=
  match codeInt f with
  | some (signed, w) => wrapTo w (x.toInt m signed w)
  | none => match codeNarrow f with
    | some g => if m = .sr then g.sround nib x else g.round m x
    | none => match codeIeee f with
      | some g => if m = .sr then g.sround nib x else g.round m x
      | none => 0

/-- Elements of a packed word, element 0 lowest (R70). -/
def unpackWord (f : Nat) (w : Word) : List Nat :=
  (List.range (packElems f)).map (fun i => w.toNat / 2 ^ (codeWidth f * i) % 2 ^ codeWidth f)

/-- Pack elements from bit 0 upward (R70). -/
def packCodes (w : Nat) : List Nat → Nat
  | [] => 0
  | c :: r => c % 2 ^ w + 2 ^ w * packCodes w r

def packWord (f : Nat) (l : List Nat) : Word := word (packCodes (codeWidth f) l)

/-! ### Elements of the floating operand types (R168) -/

/-- The format of an element. -/
def FTy.fmt : FTy → Fmt
  | .f32 => fp32
  | .f16x2 => fp16
  | .bf16x2 => bf16
  | .f64 => fp64

/-- The 64-bit patterns of consecutive pairs. -/
def pairsOf : List Word → List Nat
  | a :: b :: r => natOf [a, b] :: pairsOf r
  | _ => []

/-- The element patterns of an operand or a run, element 0 first (R168, R188). -/
def fElems (t : FTy) (ws : List Word) : List Nat :=
  match t with
  | .f32 => ws.map (·.toNat)
  | .f64 => pairsOf ws
  | _ => ws.flatMap (fun w => [w.toNat % 2 ^ 16, w.toNat / 2 ^ 16])

/-- Two halves in a word. -/
def halves : List Nat → List Word
  | [] => []
  | [a] => [word (a % 2 ^ 16)]
  | a :: b :: r => word (a % 2 ^ 16 + 2 ^ 16 * (b % 2 ^ 16)) :: halves r

/-- Element patterns back in registers. -/
def fPack (t : FTy) (es : List Nat) : List Word :=
  match t with
  | .f32 => es.map word
  | .f64 => es.flatMap (fun e => wordsOf true e)
  | _ => halves es

/-- An operation on each element (R168). -/
def fMap1 (t : FTy) (f : Exact → Nat) (a : List Word) : List Word :=
  fPack t ((fElems t a).map (fun p => f ((FTy.fmt t).decode p)))
def fMap2 (t : FTy) (f : Nat → Nat → Nat) (a b : List Word) : List Word :=
  fPack t (List.zipWith f (fElems t a) (fElems t b))

/-- FADD, FSUB and FMUL of two patterns (R173). -/
def fAdd (f : Fmt) (m : Rnd) (a b : Nat) : Nat := f.round m ((f.decode a).add m (f.decode b))
def fSub (f : Fmt) (m : Rnd) (a b : Nat) : Nat := f.round m ((f.decode a).sub m (f.decode b))
def fMul (f : Fmt) (m : Rnd) (a b : Nat) : Nat := f.round m ((f.decode a).mul (f.decode b))
/-- FFMA: the exact product and sum, one rounding (R173). -/
def fFma (f : Fmt) (m : Rnd) (a b c : Nat) : Nat := f.round m (((f.decode a).mul (f.decode b)).add m (f.decode c))
def fDiv (f : Fmt) (m : Rnd) (a b : Nat) : Nat := f.round m ((f.decode a).div (f.decode b))

/-- The place of a pattern in the order -Inf < negative < -0 < +0 < positive < +Inf (R176). -/
def fOrder (f : Fmt) (p : Nat) : Int :=
  let mag : Int := (p % f.signBit : Nat)
  if p.testBit (f.eb + f.mb) then -mag - 1 else mag

/-- FMIN and FMAX of two patterns (R176). -/
def fPick (f : Fmt) (greater : Bool) (a b : Nat) : Nat :=
  match (f.decode a).isNan, (f.decode b).isNan with
  | true, true => f.nanPat
  | true, false => b
  | false, true => a
  | false, false => if decide (fOrder f a < fOrder f b) = greater then b else a
def fMin (f : Fmt) (a b : Nat) : Nat := fPick f false b a
def fMax (f : Fmt) (a b : Nat) : Nat := fPick f true a b

/-- FCMP (R177). -/
def fRel (r : Rel) (a b : Exact) : Bool :=
  if a.isNan || b.isNan then r == .ne else relInt r (a.cmp b) 0

/-- FCLASS's bit (R178). -/
def fClass (f : Fmt) (p : Nat) : Nat :=
  let neg := p.testBit (f.eb + f.mb)
  let e := p / 2 ^ f.mb % 2 ^ f.eb
  let m := p % 2 ^ f.mb
  let side (x y : Nat) : Nat := if neg then x else y
  if e = 2 ^ f.eb - 1 then
    (if m = 0 then side 0 7 else if m.testBit (f.mb - 1) then 9 else 8)
  else if e = 0 then (if m = 0 then side 3 4 else side 2 5)
  else side 1 6

/-! ### Roots and the functions of R180 -/

/-- The integer square root by bits, given a root of the higher bits. -/
def isqrtFrom (n r : Nat) : Nat → Nat
  | 0 => r
  | k + 1 => if (r + 2 ^ k) * (r + 2 ^ k) ≤ n then isqrtFrom n (r + 2 ^ k) k else isqrtFrom n r k

def isqrt (n : Nat) : Nat := isqrtFrom n 0 (n.log2 / 2 + 1)

/-- A ratio next to the square root of n/d, exact where the root is: between the same multiples of 2^-k as the root. -/
def sqrtNear (n d k : Nat) : Nat × Nat :=
  let q := n * 4 ^ k / d
  let r := isqrt q
  if r * r * d = n * 4 ^ k then (r, 2 ^ k) else (2 * r + 1, 2 ^ (k + 1))

/-- The bits of fraction that hold a root of n/d to at least 70 bits. -/
def rootBits (n d : Nat) : Nat := (70 - ilog2 n d / 2).toNat

/-- FSQRT (R179). -/
def fSqrt (f : Fmt) (m : Rnd) (p : Nat) : Nat :=
  match f.decode p with
  | .nan => f.nanPat
  | .inf s => if s then f.nanPat else f.infPat
  | .fin s n d =>
    if n = 0 then b2n s * f.signBit
    else if s then f.nanPat
    else
      let r := sqrtNear n d (rootBits n d)
      f.round m (.fin false r.1 r.2)

/-- FRSQ (R179, R180). [DEDUCED, log 17] -/
def fRsq (p : Nat) : Nat :=
  match fp32.decode p with
  | .nan => fp32.nanPat
  | .inf s => if s then fp32.nanPat else 0
  | .fin s n d =>
    if n = 0 then b2n s * fp32.signBit + fp32.infPat
    else if s then fp32.nanPat
    else
      let r := sqrtNear d n (rootBits d n)
      fp32.round .rne (.fin false r.1 r.2)

/-- Bits of fraction of the fixed-point values below. -/
def fixP : Nat := 448
/-- floor(ln 2 * 2^448). -/
def ln2Fix : Nat := 0xb17217f7d1cf79abc9e3b39803f2f6af40f343267298b62d8a0d175b8baafa2be7b876206debac98559552fb4afa1b10ed2eae35c1382144
/-- floor(pi * 2^448). -/
def piFix : Nat := 0x3243f6a8885a308d313198a2e03707344a4093822299f31d0082efa98ec4e6c89452821e638d01377be5466cf34e90c6cc0ac29b7c97c50dd

/-- The tail of exp's series in fixed point: the sum from term `t`, number `i`. -/
def expSeries (r t i : Nat) : Nat → Nat
  | 0 => 0
  | k + 1 => t + expSeries r (t * r / 2 ^ fixP / (i + 1)) (i + 1) k

/-- 2^f in fixed point, for a fixed-point f in [0, 1). -/
def exp2Fix (f : Nat) : Nat := expSeries (f * ln2Fix / 2 ^ fixP) (2 ^ fixP) 0 110

/-- 2^x for a value between -200 and 200. -/
def exp2Near (s : Bool) (n d : Nat) : Exact :=
  let k : Int := if s then -(((n + d - 1) / d : Nat) : Int) else ((n / d : Nat) : Int)
  let f := if s then ((n + d - 1) / d * d - n) * 2 ^ fixP / d else n % d * 2 ^ fixP / d
  let r := scale2 (if f = 0 then 2 ^ fixP else exp2Fix f) (2 ^ fixP) k
  .fin false r.1 r.2

/-- FEXP2 (R179, R180). [DEDUCED, log 17] -/
def fExp2 (p : Nat) : Nat :=
  match fp32.decode p with
  | .nan => fp32.nanPat
  | .inf s => if s then 0 else fp32.infPat
  | .fin s n d =>
    if 200 * d ≤ n then (if s then 0 else fp32.infPat)
    else fp32.round .rne (exp2Near s n d)

/-- The tail of atanh's series z + z^3/3 + ...: `t` is z^i, `z2` z squared. -/
def atanhSeries (z2 t i : Nat) : Nat → Nat
  | 0 => 0
  | k + 1 => t / i + atanhSeries z2 (t * z2 / 2 ^ fixP) (i + 2) k

/-- log2 of a positive ratio in fixed point: its exponent, and ln of the rest over ln 2. -/
def log2Fix (n d : Nat) : Int :=
  let e := ilog2 n d
  let r := scale2 n d (-e)
  let z := (r.1 - r.2) * 2 ^ fixP / (r.1 + r.2)
  let l := 2 * atanhSeries (z * z / 2 ^ fixP) z 1 150
  e * 2 ^ fixP + ((l * 2 ^ fixP / ln2Fix : Nat) : Int)

/-- FLOG2 (R179, R180). [DEDUCED, log 17] -/
def fLog2 (p : Nat) : Nat :=
  match fp32.decode p with
  | .nan => fp32.nanPat
  | .inf s => if s then fp32.nanPat else fp32.infPat
  | .fin s n d =>
    if n = 0 then fp32.signBit + fp32.infPat
    else if s then fp32.nanPat
    else
      let l := log2Fix n d
      fp32.round .rne (.fin (decide (l < 0)) l.natAbs (2 ^ fixP))

/-- The alternating tail of sin's series: term `t`, of power `i`. -/
def sinSeries (x2 : Nat) (t : Nat) (i : Nat) : Nat → Int
  | 0 => 0
  | k + 1 => (t : Int) - sinSeries x2 (t * x2 / 2 ^ fixP / ((i + 1) * (i + 2))) (i + 2) k

/-- sin(pi t) in fixed point for a fixed-point t in [0, 1/2]. -/
def sinPiFix (t : Nat) : Nat :=
  let x := t * piFix / 2 ^ fixP
  (sinSeries (x * x / 2 ^ fixP) x 1 60).toNat

/-- |A| modulo 2 in fixed point: exact, for an FP32 value. -/
def mod2Fix (n d : Nat) : Nat := n % (2 * d) * 2 ^ fixP / d

/-- FSINPI (R179, R180). [DEDUCED, log 17] -/
def fSinPi (p : Nat) : Nat :=
  match fp32.decode p with
  | .nan => fp32.nanPat
  | .inf _ => fp32.nanPat
  | .fin s n d =>
    let a := mod2Fix n d
    let neg := s != decide (2 ^ fixP ≤ a)
    let a := a % 2 ^ fixP
    if a = 0 then b2n s * fp32.signBit
    else
      let t := min a (2 ^ fixP - a)
      if 2 * t = 2 ^ fixP then fp32.round .rne (.fin neg 1 1)
      else fp32.round .rne (.fin neg (sinPiFix t) (2 ^ fixP))

/-- FCOSPI (R179, R180). [DEDUCED, log 17] -/
def fCosPi (p : Nat) : Nat :=
  match fp32.decode p with
  | .nan => fp32.nanPat
  | .inf _ => fp32.nanPat
  | .fin _ n d =>
    let a := mod2Fix n d
    let a := min a (2 * 2 ^ fixP - a)
    let neg := decide (2 ^ fixP < 2 * a)
    let t := min a (2 ^ fixP - a)
    if 2 * t = 2 ^ fixP then 0
    else if t = 0 then fp32.round .rne (.fin neg 1 1)
    else fp32.round .rne (.fin neg (sinPiFix (2 ^ fixP / 2 - t)) (2 ^ fixP))

/-- FTANH (R179, R180): with u = 2^-z, z = 2|A| / ln 2, the value (1 - u) / (1 + u). [DEDUCED, log 17] -/
def fTanh (p : Nat) : Nat :=
  match fp32.decode p with
  | .nan => fp32.nanPat
  | .inf s => fp32.round .rne (.fin s 1 1)
  | .fin s n d =>
    if n = 0 then b2n s * fp32.signBit
    else if 20 * d ≤ n then fp32.round .rne (.fin s (2 ^ 40 - 1) (2 ^ 40))
    else
      let z := 2 * n * 2 ^ (2 * fixP) / (d * ln2Fix)
      let k := z / 2 ^ fixP
      let f := z % 2 ^ fixP
      let e := if f = 0 then 2 * 2 ^ fixP else exp2Fix (2 ^ fixP - f)
      fp32.round .rne (.fin s (2 ^ (fixP + k + 1) - e) (2 ^ (fixP + k + 1) + e))

end Sys2Proof.Machine
end

