-- ==== Sys2Proof/Machine/Generator.lean ====
section
/-! DEFINITION. The generator of R316-R317 and the rounding nibbles of R324, and Palette entries and magnitude capture
(R184, R185, R294). -/

namespace Sys2Proof.Machine

/-- One round of Philox4x32 (R86), on (c0, c1, c2, c3) and the keys. -/
def philoxRound (k0 k1 : Word) (c : Word × Word × Word × Word) : Word × Word × Word × Word :=
  let p0 := 0xD2511F53 * c.1.toNat
  let p1 := 0xCD9E8D57 * c.2.2.1.toNat
  (word (p1 / 2 ^ 32) ^^^ c.2.1 ^^^ k0, word p1, word (p0 / 2 ^ 32) ^^^ c.2.2.2 ^^^ k1, word p0)

/-- Ten rounds of Philox4x32, the keys moving on after each (R86). -/
def philox (k0 k1 : Word) (c : Word × Word × Word × Word) : Nat → Word × Word × Word × Word
  | 0 => c
  | n + 1 => philox (k0 + 0x9E3779B9) (k1 + 0xBB67AE85) (philoxRound k0 k1 c) n

/-- BREV32 (R85). -/
def brev32 (w : Word) : Word := word (brevN 32 w.toNat 32)

/-- The ENUMERATE generator (R316). -/
def enumerateGen (c0 c1 c2 : Word) : Word × Word × Word × Word :=
  let x0 := brev32 c2 ^^^ (0x9E3779B9 * c0) ^^^ (0x3C6EF372 * word (c1.toNat % 256))
  (x0, ~~~x0, brev32 x0, x0 ^^^ 0x55555555)

/-- Gen (R316, R317): index, domain, stream and key under a launch's mode and seed. -/
def gen (pk : Packet) (idx : Word) (domain stream : Nat) (key : Dword) : Word × Word × Word × Word :=
  let c1 := word (256 * domain + stream)
  if pk.enumerate then enumerateGen idx c1 (lo32 key)
  else philox (lo32 pk.seed) (hi32 pk.seed) (idx, c1, lo32 key, hi32 key) 10

/-- Nibble `n` of a block: bits 4(n mod 32)+3 .. 4(n mod 32) of x3:x2:x1:x0 (R324). -/
def blockNibble (x : Word × Word × Word × Word) (n : Nat) : Nat :=
  let i := n % 32
  let w := if i < 8 then x.1 else if i < 16 then x.2.1 else if i < 24 then x.2.2.1 else x.2.2.2
  w.toNat / 2 ^ (4 * (i % 8)) % 16

/-- The rounding nibble `n` of a thread (R324). -/
def nibble (pk : Packet) (wid : Dword) (n : Nat) : Nat :=
  blockNibble (gen pk (word (n % 2 ^ 32 / 32)) 1 0 wid) n

/-! ### Palette entries (R294) and captures (R185) -/

/-- A context's Palette entry, 16 words. -/
def State.palEntry (s : State) (ctx id : Nat) : List Word :=
  cget (List.replicate 16 0) (s.ctxOf ctx).palette id

/-- The format code of an entry, at byte +40. -/
def palFormat (e : List Word) : Nat := (e.getD 10 0).toNat % 256

/-- An identifier can be used: it names an entry with a format code 0x01-0x0C (R294). -/
def palOk (id : Nat) (e : List Word) : Bool := id != 0 && 1 ≤ palFormat e && palFormat e ≤ 12

/-- Write a Palette entry. -/
def State.setPal (s : State) (ctx id : Nat) (e : List Word) : State :=
  s.updCtx ctx (fun c => { c with palette := cset (List.replicate 16 0) c.palette id e })

/-- Fold a magnitude in AMAX format into another (R184, R185). -/
def amaxFold (x y : Word) : Word :=
  word (max (x.toNat % 2 ^ 31) (y.toNat % 2 ^ 31) + (if x.msb || y.msb then 2 ^ 31 else 0))

/-- The magnitude of a value in AMAX format: FP32 bits of |x|, rounded toward +Inf; NaN is the flag alone (R184, R189). -/
def amaxOf (x : Exact) : Word :=
  if x.isNan then word (2 ^ 31) else word (fp32.round .ru x.abs)

/-- The magnitudes of several values. -/
def amaxAll (l : List Exact) : Word := l.foldl (fun w x => amaxFold w (amaxOf x)) 0

/-- Capture a magnitude into a Palette entry's AMAX word, at byte +44 (R185). -/
def State.captureAmax (s : State) (ctx id : Nat) (w : Word) : State :=
  let e := s.palEntry ctx id
  s.setPal ctx id (e.set 11 (amaxFold (e.getD 11 0) w))

end Sys2Proof.Machine
end

