-- ==== Sys2Proof/Machine/Choice.lean ====
section
/-! DEFINITION. Choice vector blocks (R326-R330): which block a thread draws on, and where its words lie. -/

namespace Sys2Proof.Machine

/-- A word of a block, by number (R327), at its address mod 2^64. -/
def Block.word (b : Block) (i : Nat) : Nat := (b.base + 4 * i) % 2 ^ 64
def Block.header (b : Block) (st : Nat) : Nat := b.word st
def Block.entry (b : Block) (st k : Nat) : Nat := b.word (8 + st * b.c + k)
/-- T, the first tail word. -/
def Block.tail (b : Block) : Nat := 8 + 8 * b.c
def Block.res (b : Block) (w : Nat) : Nat := b.word (b.tail + w)
def Block.mask (b : Block) : Nat := b.word (b.tail + 4)
def Block.relaunch (b : Block) : Nat := b.word (b.tail + 5)

/-- Bytes of a block with C entries a stream (R326). -/
def blockBytes (c : Nat) : Nat := 64 + 32 * c

/-- Widths and extents of the six WID fields (R13). -/
def Packet.width (p : Packet) (i : Nat) : Nat := p.w.getD i 0
def Packet.extent (p : Packet) (i : Nat) : Nat := p.e.getD i 1

/-- The first bit of WID field `i` (R13). -/
def Packet.fieldAt (p : Packet) (i : Nat) : Nat := ((List.range i).map p.width).foldl (· + ·) 0

/-- WID field `i` (R13). -/
def Packet.field (p : Packet) (wid : Nat) (i : Nat) : Nat := wid / 2 ^ p.fieldAt i % 2 ^ p.width i

/-- Fields `i` .. 5 of a WID read in mixed radix over the extents, field `i` the least significant (R326, R425). -/
def Packet.radix (p : Packet) (wid : Nat) (i : Nat) : Nat → Nat
  | 0 => 0
  | n + 1 => p.field wid i + p.extent i * p.radix wid (i + 1) n

/-- The thread index of a WID (R326). -/
def Packet.threadIndex (p : Packet) (wid : Nat) : Nat := p.radix wid 0 6

/-- The block of a launch's thread index (R326). -/
def Packet.blockAt (p : Packet) (idx : Nat) : Nat := (p.cvbase.toNat + idx * blockBytes p.choiceC) % 2 ^ 64

/-- The relaunch a crew runs (R341). -/
def State.relaunchOf (s : State) (crew : Nat) : Option Relaunch :=
  match (s.crew? crew).bind (·.relaunch) with
  | some r => s.relaunches.find? (fun x => x.id == r)
  | none => none

/-- PROP of a descriptor (R336). -/
def Relaunch.prop (r : Relaunch) : Nat := (r.desc.getD 4 0).toNat + 2 ^ 32 * (r.desc.getD 5 0).toNat

/-- The block whose entries a thread's draws and results use (R326, R331, R334, R341): none off the vector cores, in a shadow
squad, or without RECORD and REPLAY. A relaunched thread replays from its proposal block. -/
def State.choice? (s : State) (a : Actor) (t : Thread) : Option Block :=
  let p := s.pktOf t
  match a with
  | .thread r =>
    if r.shadow || !(p.record || p.replay) then none
    else match s.relaunchOf r.crew with
      | some x => some ⟨x.prop, p.choiceC, false⟩
      | none => some ⟨p.blockAt (p.threadIndex t.wid.toNat), p.choiceC, p.record⟩
  | _ => none

end Sys2Proof.Machine
end

