-- ==== Sys2Proof/Machine/Trace.lean ====
section
/-! DEFINITION. Marker trace (R475-R477): the records a core writes and the buffer they go to. Trace is telemetry (R3). -/

namespace Sys2Proof.Machine

/-- TRCTL of a core, and its fields (R475). -/
def trctlAt (c : Nat) : Nat := coreBlock c + 0x100
def State.trBase (s : State) (c : Nat) : Nat := s.mg64 (trctlAt c) / 4096 * 4096
def State.trSize (s : State) (c : Nat) : Nat := 2 ^ (bits (s.mg (trctlAt c)).toNat 11 8 + 12)
def State.trEn (s : State) (c : Nat) : Bool := (s.mg (trctlAt c)).getLsbD 0
def State.trSampling (s : State) (c : Nat) : Bool := (s.mg (trctlAt c)).getLsbD 1
def State.trFull (s : State) (c : Nat) : Bool := (s.mg (trctlAt c)).getLsbD 2

/-- A core's trace unit; an unlisted one has written nothing. -/
def State.traceUnit (s : State) (c : Nat) : TraceUnit := (s.traces.find? (fun t => t.core == c)).getD { core := c }

def State.setTrace (s : State) (t : TraceUnit) : State :=
  { s with traces := t :: s.traces.filter (fun u => u.core != t.core) }

/-- Store words at consecutive addresses of a context, each translated there; a word without a present, writable page is
dropped. -/
def State.ctxStore (s : State) (ctx : Nat) (ea : Nat) : List Word → State
  | [] => s
  | w :: r =>
    let s := match s.translate ctx .store (dword ea) with
      | (.ok pa, s) => s.homeWrite pa 4 w.toNat
      | (_, s) => s
    s.ctxStore ctx (ea + 4) r

/-- Word 0 of a record (R476). -/
def recHead (type len slot block : Nat) : Word := word (type + 16 * len + 256 * slot + 65536 * block)

/-- Write one record of whole units, or drop it while FULL; a record that does not fit fills the buffer (R475). [DESIGN CHOICE, log 27] -/
def State.traceRaw (s : State) (c : Nat) (ws : List Word) : State :=
  let t := s.traceUnit c
  let n := 4 * ws.length
  if s.trFull c then s.countMg (coreBlock c + 0x108)
  else if s.trSize c < t.off + n then
    (s.setMg (trctlAt c) (s.mg (trctlAt c) ||| 4)).countMg (coreBlock c + 0x108)
  else (s.ctxStore 0 (s.trBase c + t.off) ws).setTrace { t with off := t.off + n, sinceSync := t.sinceSync + 1 }

/-- The resident squads of a core with a live lane, in slot order (R477). -/
def State.squadsOn (s : State) (c : Nat) : List Squad :=
  sortBy (fun a b => decide (a.slot ≤ b.slot)) (s.squads.filter (fun q => match s.crew? q.crew with
    | some k => decide (k.at' = .on c) && !q.retired
    | none => false))

/-- Two halves as a word. -/
def pairHalves : List Half → List Word
  | a :: b :: r => (b ++ a) :: pairHalves r
  | _ => []

/-- A lane's last block identifier as the records tell it: before its MARK where that is still to be recorded (R416, R477). -/
def State.shownBlock (s : State) (k : Nat × Nat × Bool) (l : Nat) : Half :=
  match s.grp.marks.find? (fun m => m.2.1 == k && m.2.2.1 == l) with
  | some m => m.2.2.2.2
  | none => ((s.thread? (.thread ⟨k.1, k.2.1, k.2.2, l⟩)).map (·.lastBlock)).getD 0

/-- The SQUAD record of a squad (R476); CREW is WID >> (5 + w1) of its threads (R23). -/
def State.squadRecord (s : State) (q : Squad) : List Word :=
  let k := (q.crew, q.num, q.shadow)
  let ctx := ((s.crew? q.crew).map (·.ctx)).getD 0
  let crew := (((List.range 32).findSome? (fun l => s.thread? (.thread ⟨q.crew, q.num, q.shadow, l⟩))).map
    (fun t => t.wid.toNat / 2 ^ (5 + (s.pktOf t).w.getD 1 0))).getD 0
  [recHead 3 6 q.slot 0, word (s.liveMask k), word (ctx % 65536 + 65536 * (q.num % 32) + 2 ^ 21 * b2n q.shadow), 0] ++
  wordsOf' crew ++ [0, 0] ++ pairHalves ((List.range 32).map (s.shownBlock k))
where
  /-- CREW's two words (R23). -/
  wordsOf' (n : Nat) : List Word := [word n, word (n / 2 ^ 32)]

/-- Write a squad's SQUAD record. -/
def State.traceSquad (s : State) (c : Nat) (q : Squad) : State :=
  let s := s.traceRaw c (s.squadRecord q)
  let t := s.traceUnit c
  s.setTrace { t with known := (q.crew, q.num, q.shadow) :: t.known.filter (fun k => decide (k ≠ (q.crew, q.num, q.shadow))) }

/-- A SYNC record and a SQUAD record for each resident squad in slot order (R477). -/
def State.traceSync (s : State) (c : Nat) : State :=
  let qs := s.squadsOn c
  let s := s.traceRaw c [recHead 2 1 0 0, word qs.length, 0, 0]
  let s := s.setTrace { s.traceUnit c with sinceSync := 0 }
  qs.foldl (fun u q => u.traceSquad c q) s

/-- After 65,536 records since the last SYNC a SYNC group goes before the next record (R477). -/
def State.traceDue (s : State) (c : Nat) : State := if 65536 ≤ (s.traceUnit c).sinceSync then s.traceSync c else s

/-- Write a record, after a SYNC group that is due. [DESIGN CHOICE, log 27] -/
def State.traceEmit (s : State) (c : Nat) (ws : List Word) : State := (s.traceDue c).traceRaw c ws

/-- A restart at BASE after FULL is cleared: LOST first where records were lost, then a SYNC group while EN (R475, R477). -/
def State.traceRestart (s : State) (c : Nat) : State :=
  let s := s.setTrace { s.traceUnit c with off := 0, sinceSync := 0 }
  let lost := s.mg (coreBlock c + 0x108)
  let s := if lost = 0 then s else (s.traceRaw c [recHead 4 1 0 0, lost, 0, 0]).setMg (coreBlock c + 0x108) 0
  if s.trEn c then s.traceSync c else s

/-- One MARK record of a squad: the lanes of the group that marked (R476, R477). -/
def State.traceMark (s : State) (c : Nat) (k : Nat × Nat × Bool) (lanes : Nat) (id : Half) : State :=
  match s.squad? k with
  | none => s
  | some q =>
    let s := s.traceDue c
    let s := if (s.traceUnit c).known.contains k then s else s.traceSquad c q
    let ctx := ((s.crew? q.crew).map (·.ctx)).getD 0
    s.traceEmit c [recHead 1 1 q.slot id.toNat, word lanes, word (ctx % 65536), word (s.cycle (.core c))]

/-- The MARKs of the group under way are recorded, one record a squad in slot order (R477). -/
def State.flushMarks (s : State) : State :=
  let keys := (s.grp.marks.map (fun m => (m.1, m.2.1, m.2.2.2.1))).eraseDups
  let slot (k : Nat × (Nat × Nat × Bool) × Half) : Nat := ((s.squad? k.2.1).map (·.slot)).getD 0
  (sortBy (fun a b => decide (slot a ≤ slot b)) keys).foldl (fun u k =>
    let mine (m : Nat × (Nat × Nat × Bool) × Nat × Half × Half) : Bool := m.1 == k.1 && m.2.1 == k.2.1
    let lanes := (u.grp.marks.filter mine).foldl (fun n m => n ||| 2 ^ m.2.2.1) 0
    let u := if u.trEn k.1 then u.traceMark k.1 k.2.1 lanes k.2.2 else u
    { u with grp := { u.grp with marks := u.grp.marks.filter (fun m => !(mine m)) } }) s

end Sys2Proof.Machine
end

