-- ==== Sys2Proof/Machine/Mgmt.lean ====
section
/-! DEFINITION. The management space (R455-R460, R475, R479, R481, R483, R484): which words a table lists, reading them, and the
effect of writing them. -/

namespace Sys2Proof.Machine

/-- Device-wide counters of R484, one dword each from 0x800, in SNAPSHOT's order (R456): CECC, then UECC, of Canvas, Ground, Basin
entries and memory-side caches; LINKREPLAY of PCI Express and the 16 Jenah ports; PORTDOWN of the ports; SCRUBFIX of the 8 stacks.
[DESIGN CHOICE, log 57] -/
def devCounter (k : Nat) : Nat := 0x800 + 8 * k
def devCounters : Nat := 49
def linkReplayAt (link : Nat) : Nat := devCounter (8 + link)
def portDownAt (port : Nat) : Nat := devCounter (25 + port)
def scrubFixAt (stack : Nat) : Nat := devCounter (41 + stack)
/-- A core's per-structure counters from 0x400, in SNAPSHOT's order (R460): CECC of its register file, scratchpads and L1, then UECC
of them. [DESIGN CHOICE, log 57] -/
def coreCounter (c k : Nat) : Nat := coreBlock c + 0x400 + 8 * k
def coreCounters : Nat := 6

/-- How a word of the management space behaves (R9). -/
inductive MgKind where
  /-- No table lists it: reads zero, writes nothing. -/
  | absent
  | ro
  /-- Stores the bits of a mask. -/
  | rw (mask : Word)
  | plimit
  /-- A function's POLICY (R458). -/
  | policy
  | rail (i : Nat)
  /-- Word 0 or 1 of registration entry `n`. -/
  | launchQ (n : Nat)
  | slotQ (f n : Nat)
  | corectl (c : Nat)
  | trctl (c : Nat)
  deriving DecidableEq, Repr, Inhabited

/-- The words of the device block (R456). -/
def devKind (off : Nat) : MgKind :=
  if [0x000, 0x004, 0x008, 0x010, 0x014].contains off then .rw 0xFFFFFFFF
  else if off = 0x018 then .plimit
  else if 0x020 ≤ off ∧ off < 0x060 ∧ off % 8 = 0 then .rw 0x1FFFF
  else if 0x100 ≤ off ∧ off < 0x180 then
    (if off % 0x20 = 0 then .rw 0x8000FFFF else if off % 0x20 = 4 then .absent else .rw 0xFFFFFFFF)
  else if 0x200 ≤ off ∧ off < 0x214 then .rail ((off - 0x200) / 4)
  else if 0x800 ≤ off ∧ off < devCounter devCounters ∧ off % 8 = 0 then .rw 0xFFFFFFFF
  else .absent

/-- The words of a core block (R460). -/
def coreKind (c off : Nat) : MgKind :=
  if off = 0x000 then .corectl c
  else if off = 0x008 then .rw 0x1FF
  else if off = 0x100 then .trctl c
  else if off = 0x104 then .rw 0xFFFFFFFF
  else if off = 0x108 then .ro
  else if off = 0x10C then .rw 0xFFFF
  else if 0x200 ≤ off ∧ off < 0x200 + 8 * 22 then .ro
  else if off = 0x300 ∨ off = 0x304 then .rw 0xFFFFFFFF
  else if 0x400 ≤ off ∧ off < 0x400 + 8 * coreCounters ∧ off % 8 = 0 then .rw 0xFFFFFFFF
  else .absent

/-- The kind of the word at an offset (R455). [DESIGN CHOICE, log 57] -/
def mgKind (off : Nat) : MgKind :=
  if off % 4 ≠ 0 then .absent
  else if off < 0x1000 then devKind off
  else if off < 0x1800 then .launchQ ((off - 0x1000) / 8)
  else if 0x10000 ≤ off ∧ off < 0x10000 + 0x1000 * 17 then
    let f := (off - 0x10000) / 0x1000
    let o := off % 0x1000
    if o = 0 then .policy
    else if o = 4 then .rw 0xFFFFFFFF
    else if 0x40 ≤ o ∧ o < 0x80 then .slotQ f ((o - 0x40) / 4)
    else .absent
  else if 0x100000 ≤ off ∧ off < 0x100000 + 0x1000 * 320 then coreKind ((off - 0x100000) / 0x1000) (off % 0x1000)
  else .absent

/-- One word of the management space as a read finds it; a rail is not measured before BOOT has verified an image (R456, R483).
[DESIGN CHOICE, log 16, log 57] -/
def State.mgReadWord (s : State) (off : Nat) : Word :=
  match mgKind off with
  | .absent => 0
  | .rail i => if s.plat.verified then Config.railPower i s.tick else 0
  | _ => s.mg off

/-- A management read of 4 or 8 naturally aligned bytes; any other size reads zero (R455). -/
def State.mgRead (s : State) (off n : Nat) : Nat :=
  if off % n ≠ 0 then 0
  else if n = 4 then (s.mgReadWord off).toNat
  else if n = 8 then (s.mgReadWord off).toNat + 2 ^ 32 * (s.mgReadWord (off + 4)).toNat
  else 0

/-! ### Registers with behaviour of their own -/

/-- Offset of registration entry `n` (R457). -/
def launchQAt (n : Nat) : Nat := 0x1000 + 8 * n

/-- A registration entry's fields: VALID, CTX, QUEUE. -/
def State.launchQ (s : State) (n : Nat) : Bool × Nat × Nat :=
  let v := s.mg64 (launchQAt n)
  (v.testBit 32, bits v 31 16, bits v 15 0)

/-- The registered launch queues of a context, by entry number (R457). -/
def State.launchQsOf (s : State) (ctx : Nat) : List Nat :=
  (List.range 256).filter (fun n => let e := s.launchQ n; e.1 && e.2.1 == ctx)

/-- A queue can be a launch queue of a context: ORDERED, 32-byte entries, owned by it (R457). -/
def State.launchQueueOk (s : State) (ctx q : Nat) : Bool :=
  match s.queue? q with
  | some x => x.kind == 2 && x.esize == 3 && x.ctx == ctx
  | none => false

/-- Write a registration entry (R457). -/
def State.writeLaunchQ (s : State) (n v : Nat) : State :=
  let ctx := bits v 31 16
  let q := bits v 15 0
  let others := (s.launchQsOf ctx).filter (fun m => m != n)
  let valid := v.testBit 32 && s.launchQueueOk ctx q && decide (others.length < 8)
  s.setMg64 (launchQAt n) (v % 2 ^ 32 + 2 ^ 32 * b2n valid)

/-- Offset of SLOTQ (R458). -/
def slotQAt (f n : Nat) : Nat := fnBlock f + 0x40 + 4 * n

/-- A window slot's registers; an unlisted slot is at reset (R461). -/
def State.slot (s : State) (f n : Nat) : Slot :=
  (s.slots.find? (fun x => x.fn == f && x.num == n)).getD { fn := f, num := n }
def State.setSlot (s : State) (x : Slot) : State :=
  { s with slots := x :: s.slots.filter (fun y => !(y.fn == x.fn && y.num == x.num)) }

/-- The queue a slot is bound to; until an unbinding takes effect, that of the command in progress (R458). -/
def State.slotQueue (s : State) (f n : Nat) : Option Nat :=
  let v := s.mg (slotQAt f n)
  if !v.getLsbD 31 then none
  else if (s.slot f n).unbind then some (s.slot f n).cmdQ else some (v.toNat % 65536)

/-- Write SLOTQ: bind to a configured queue of a context of the function, or unbind once the slot's command in progress is
performed (R458); QUEUE takes the written value at once. -/
def State.writeSlotQ (s : State) (f n : Nat) (v : Word) : State :=
  let q := v.toNat % 65536
  let x := s.slot f n
  if v.getLsbD 31 then
    let ok := match s.queue? q with
      | some x => Config.ctxFunction x.ctx == f
      | none => false
    let s := s.setMg (slotQAt f n) (word (q + (if ok then 2 ^ 31 else 0)))
    if x.unbind then s.setSlot { x with unbind := false } else s
  else if x.done || (s.slotQueue f n).isNone then s.setMg (slotQAt f n) (word q)
  else (s.setSlot { x with unbind := true }).setMg (slotQAt f n) (word (q + 2 ^ 31))

/-- Write TRCTL's low word: FULL is cleared by a 1; setting EN, or clearing FULL with EN, writes a SYNC group (R475, R477). -/
def State.writeTrctl (s : State) (c : Nat) (v : Word) : State :=
  let old := s.mg (trctlAt c)
  let full := old.getLsbD 2 && !v.getLsbD 2
  let s' := s.setMg (trctlAt c) ((v &&& 0xFFFFFF03) ||| (if full then 4 else 0))
  if old.getLsbD 2 && !full then s'.traceRestart c
  else if !old.getLsbD 0 && v.getLsbD 0 && !full then s'.traceSync c
  else s'

/-- Write one word of the management space (R9, R455). A write of POLICY is the function's assignment, which zeroes DEMOTED (R454, R458).
CORECTL's TRAVEN is a request that TRAVERSAL_ENABLE or
TRAVERSAL_DISABLE carries out (R427). [DESIGN CHOICE, log 56] -/
def State.mgWriteWord (s : State) (off : Nat) (v : Word) : State :=
  match mgKind off with
  | .absent | .ro | .rail _ => s
  | .rw m => s.setMg off (v &&& m)
  | .plimit => s.setMg off (word (min 2000 (max 1000 (v.toNat % 4096))))
  | .policy => (s.setMg off (v &&& 0xFFF)).setMg (off + 4) 0
  | .launchQ n =>
    let old := s.mg64 (launchQAt n)
    s.writeLaunchQ n (if off % 8 = 0 then old / 2 ^ 32 * 2 ^ 32 + v.toNat else old % 2 ^ 32 + 2 ^ 32 * v.toNat)
  | .slotQ f n => s.writeSlotQ f n v
  | .corectl c =>
    let s := s.setMg off ((s.mg off &&& 2) ||| (v &&& 1))
    { s with agenda := s.agenda ++ [if v.getLsbD 0 then .traversalEnable c else .traversalDisable c] }
  | .trctl c => s.writeTrctl c v

/-- A management write of 4 or 8 naturally aligned bytes (R455). A registration entry written whole is written once. [DEDUCED, log 39] -/
def State.mgWrite (s : State) (off n v : Nat) : State :=
  if off % n ≠ 0 then s
  else if n = 4 then s.mgWriteWord off (word v)
  else if n = 8 then
    match mgKind off with
    | .launchQ k => s.writeLaunchQ k v
    | .trctl c => (s.setMg (off + 4) (word (v / 2 ^ 32))).writeTrctl c (word v)
    | _ => (s.mgWriteWord off (word v)).mgWriteWord (off + 4) (word (v / 2 ^ 32))
  else s

/-- The management space: die code 4 with bit 55 set and bits [54:32] zero (R455). -/
def mgSpace (ea : Nat) : Option Nat :=
  if ea / 2 ^ 32 = 0x04800000 then some (ea % 2 ^ 32) else none

end Sys2Proof.Machine
end

