-- ==== Sys2Proof/Machine/MemAccess.lean ====
section
/-! DEFINITION. Memory accesses of threads and scalar cores: effective addresses (R198), the checks of R199 in their order, the
order of a thread's own accesses (R200, R448), and reading, writing and atomics at the point where they are performed: the
core's L1, the home (R206, R289), the version store (R373) or the scratchpad. -/

namespace Sys2Proof.Machine

/-! ### Effective addresses (R110, R111, R198) -/

/-- The offset of a memory operand: the B field as a signed byte, or the literal. -/
def offsetOf (x : Args) : Int :=
  match x.b with
  | .imm i => i.toInt
  | _ => 0

/-- EA of a memory operand by space: mod 2^32 in `.x`, mod 2^64 elsewhere. -/
def memEa (sp : Space) (base : List Word) (off : Int) : Dword :=
  match sp with
  | .x => (base.headD 0 + BitVec.ofInt 32 off).setWidth 64
  | _ => dw (base.headD 0) (base.getD 1 0) + BitVec.ofInt 64 off

/-- The code of a space in the ACCESS word (R438). -/
def spaceCode : Space → Nat
  | .g => 0
  | .x => 1
  | .pv => 2

/-! ### Who accesses, and by what path -/

/-- The path of an actor's accesses: its context, its core, whether they go through the core's L1 (R200; not on the Easel core
or the management processor, R289), and the task whose versions they use (R373). -/
structure Port where
  ctx : Nat
  core : Nat
  l1 : Bool
  task : Option (Nat × Nat)
  deriving DecidableEq, Repr, Inhabited

/-- The port of an actor for a space: private accesses are not versioned (R373). -/
def State.portOf (s : State) (a : Actor) (ctx : Nat) (sp : Space) : Port :=
  { ctx := ctx, core := s.coreOf a, l1 := isVector a,
    task := if sp = .g then (s.taskOf a).map (fun t => (t.launch, t.key)) else none }

/-- The versioned accesses are those of die codes 0-3 (R373). -/
def Port.version? (p : Port) (ea : Dword) : Option (Nat × Nat) := if ea.toNat / 2 ^ 56 < 4 then p.task else none

/-- Write back the dirty bytes of the granules of `n` bytes at `ea` and drop the core's copies of them (R206, R214). -/
def State.flushRange (s : State) (core ctx : Nat) (ea : Dword) (n : Nat) : State :=
  let at' (l : L1Line) : Bool := l.core == core && l.ctx == ctx && decide (ea.toNat / 8 ≤ l.gran ∧ 8 * l.gran < ea.toNat + n)
  (s.wbWhere at').dropWhere at'

/-- Read `n` naturally aligned bytes at `ea` with home `pa`; the Bool says a check failed (R452). [DESIGN CHOICE, log 9] -/
def State.gRead (s : State) (p : Port) (ea : Dword) (pa n : Nat) : Nat × Bool × State :=
  match p.version? ea with
  | some (l, k) => s.vLoad l k pa n
  | none => if p.l1 then s.l1Load p.core p.ctx ea pa n else (s.homeRead pa n, s.badData pa n, s)


/-- Read at the home: the core's own dirty bytes go first and its copy is dropped (R206, R214, R219). -/
def State.gReadHome (s : State) (p : Port) (ea : Dword) (pa n : Nat) : Nat × Bool × State :=
  match p.version? ea with
  | some (l, k) => s.vLoad l k pa n
  | none =>
    let s := if p.l1 then s.flushRange p.core p.ctx ea n else s
    (s.homeRead pa n, s.badData pa n, s)

/-- Ranges share a byte. -/
def overlaps (a n b m : Nat) : Bool := decide (0 < n ∧ 0 < m ∧ a < b + m ∧ b < a + n)

/-! ### Tensors and the bytes of outstanding work (R205) -/

/-- Where a tensor's element lies (R205): its bit address from the base, or none outside the extents. -/
def elemBit (e : List Word) (co : Nat → Nat) : Option Int :=
  let dims := List.range 4
  if dims.all (fun d => decide (co d < (e.getD (2 + d) 0).toNat)) then
    let off : Int := dims.foldl (fun (n : Int) d => n + (co d : Int) * (e.getD (6 + d) 0).toInt) 0
    some (8 * ((e.headD 0).toNat + 2 ^ 32 * ((e.getD 1 0).toNat % 2 ^ 31) : Nat) + off * codeWidth (palFormat e))
  else none

/-- The entry's base has bit 63 set: a scratch tensor (R294). -/
def isScratchEnt (e : List Word) : Bool := (e.getD 1 0).msb

/-- Elements an LDT or STT covers (R205). -/
def tensorElems (f : Nat) : Nat := max 1 (packElems f)

/-- The elements of an LDT or STT along dimension 0: bit addresses (R205). -/
def tensorBits (e : List Word) (co : List Word) : List (Option Int) :=
  (List.range (tensorElems (palFormat e))).map (fun j =>
    elemBit e (fun d => (co.getD d 0).toNat + (if d = 0 then j else 0)))

/-- The aligned pieces of an element of `w` bits at a bit address: (byte address, bytes); sub-byte elements go byte by byte. -/
def elemPieces (w : Nat) (b : Int) : List (Int × Nat) :=
  let first := b / 8
  if 8 ≤ w then [(first, w / 8)]
  else if (b + w - 1) / 8 = first then [(first, 1)] else [(first, 1), (first + 1, 1)]

/-- The pieces of all elements inside. -/
def tensorPieces (e : List Word) (co : List Word) : List (Int × Nat) :=
  ((tensorBits e co).filterMap id).flatMap (elemPieces (codeWidth (palFormat e)))

/-- The global bytes that work still to be performed reads or writes overlap a range; those of its choice vector block are the stream
header and entry of a DRAW, result word and mask of a RESULT (R330). -/
def Work.overlapsAt (w : Work) (a n : Nat) : Bool :=
  match w with
  | .load _ ea m _ | .store _ ea m _ => overlaps ea.toNat m a n
  | .tload e co | .tstore e co _ => (tensorPieces e co).any (fun p => overlaps (p.1 % 2 ^ 64).toNat p.2 a n)
  | .atom ea _ _ _ | .atomf ea _ _ _ => overlaps ea.toNat 4 a n
  | .cas ea wide _ _ => overlaps ea.toNat (if wide then 8 else 4) a n
  | .futr ea _ reg => !reg && overlaps ea.toNat 8 a n
  | .rel ea _ _ _ | .futw ea _ _ _ => overlaps ea.toNat 8 a n
  | .draw st k _ _ _ (some b) => overlaps (b.header st) 4 a n || overlaps (b.entry st k.toNat) 4 a n
  | .result b w _ => overlaps (b.res w) 4 a n || overlaps b.mask 4 a n
  | _ => false

/-! ### Writes (R200, R206, R242) -/

/-- The path of an access that is performed after its instruction has issued; an ordered launch's are of its frontier (R385).
[DESIGN CHOICE, log 30] -/
def State.flightPort (s : State) (f : Flight) (sp : Space) : Port :=
  let task : Option (Nat × Nat) := match f.launch with
    | some l => if sp = .g ∧ isVector f.owner then (s.frontier l).map (fun k => (l, k)) else none
    | none => none
  { ctx := f.ctx, core := f.core, l1 := isVector f.owner, task := task }

/-- What work reads of memory whole (R241): a load's bytes, or the pieces of each element. -/
def Work.units : Work → List (List (Dword × Nat))
  | .load _ ea n _ => [[(ea, n)]]
  | .tload e co => ((tensorBits e co).filterMap id).map (fun b =>
      (elemPieces (codeWidth (palFormat e)) b).map (fun p => (BitVec.ofInt 64 p.1, p.2)))
  | _ => []

/-- The space that work loads from. -/
def Work.space : Work → Space
  | .load sp _ _ _ => sp
  | _ => .g

/-- A write to bytes pa .. pa+n-1 is to come: what a unit that holds one of them reads before it joins the bytes its load returns. -/
def State.fixUnit (s : State) (f : Flight) (pa n : Nat) (fixed : List (Nat × Byte)) (u : List (Dword × Nat)) : List (Nat × Byte) :=
  match u.mapM (fun p => (s.placeOf f.ctx p.1).map (fun q => (p, q))) with
  | none => fixed
  | some l =>
    if !(l.any (fun x => overlaps x.2 x.1.2 pa n)) || u.any (fun p => (aget fixed p.1.toNat).isSome) then fixed
    else fixed ++ l.flatMap (fun x => (List.range x.1.2).map (fun i =>
      ((x.1.1 + dword i).toNat, BitVec.ofNat 8 (s.gRead (s.flightPort f f.work.space) (x.1.1 + dword i) (x.2 + i) 1).1)))

/-- Before a write: a parked load whose thread has issued later instructions keeps what it would read now, since they may have caused the
write (R242). [DEDUCED, log 7] -/
def State.fixLoads (s : State) (pa n : Nat) : State :=
  { s with flights := s.flights.map (fun f =>
      if f.later && f.park.isSome then { f with fixed := f.work.units.foldl (s.fixUnit f pa n) f.fixed } else f) }

/-- A value of `n` bytes with the bytes that its load keeps. -/
def fixedValue (fixed : List (Nat × Byte)) (ea : Dword) (v : Nat) : Nat → Nat
  | 0 => 0
  | n + 1 => ((aget fixed ea.toNat).getD (BitVec.ofNat 8 (v % 256))).toNat + 256 * fixedValue fixed (ea + 1) (v / 256) n

/-- Write `n` naturally aligned bytes. -/
def State.gWrite (s : State) (p : Port) (ea : Dword) (pa n v : Nat) : State :=
  let s := s.fixLoads pa n
  match p.version? ea with
  | some (l, k) => s.vStore l k pa n v
  | none => if p.l1 then s.l1Store p.core p.ctx ea n v else s.homeWrite pa n v

/-- Write at the home: the core's own dirty bytes go first and its copy is dropped (R206, R215). -/
def State.gWriteHome (s : State) (p : Port) (ea : Dword) (pa n v : Nat) : State :=
  let s := s.fixLoads pa n
  match p.version? ea with
  | some (l, k) => s.vStore l k pa n v
  | none => (if p.l1 then s.flushRange p.core p.ctx ea n else s).homeWrite pa n v

/-- An atomic at the home (R206): the old value; nothing is written where the word's check fails. -/
def State.gAtomic (s : State) (p : Port) (ea : Dword) (pa n : Nat) (f : Nat → Nat) : Nat × Bool × State :=
  let r := s.gReadHome p ea pa n
  if r.2.1 then r else (r.1, false, r.2.2.gWriteHome p ea pa n (f r.1))

/-! ### Own accesses in program order (R200, R448) -/

/-- Work that a FENCE waits for: stores, atomics, FUTW and the writes of choice vector blocks not yet performed (R210, R330). -/
def Work.fenced : Work → Bool
  | .store _ _ _ _ | .tstore _ _ _ | .atom _ _ _ _ | .cas _ _ _ _ | .atomf _ _ _ _ | .rel _ _ _ _ | .futw _ _ _ _
  | .result _ _ _
  | .draw _ _ _ _ _ (some _) => true
  | _ => false

/-- Every write the actor issued earlier to global memory is performed (R210, R255). -/
def State.writesDone (s : State) (a : Actor) : Bool := (s.flightsOf a).all (fun f => !f.work.fenced)

/-- The actor has a parked access in the page of `ea` (R448). -/
def State.parkedOn (s : State) (a : Actor) (ctx : Nat) (ea : Dword) : Bool :=
  (s.flightsOf a).any (fun f => f.ctx == ctx && (match f.park.bind s.item? with
    | some i => i.addr.toNat / 65536 == ea.toNat / 65536
    | none => false))

/-- An earlier access of the flight's owner to the page of `addr` is still parked (R448). -/
def State.behindParked (s : State) (f : Flight) (addr : Dword) : Bool :=
  s.flights.any (fun g => decide (g.owner = f.owner ∧ g.id < f.id ∧ g.ctx = f.ctx) && (match g.park.bind s.item? with
    | some i => i.addr.toNat / 65536 == addr.toNat / 65536
    | none => false))

/-- A release still to be performed orders the accesses to its object's regions after it (R215). -/
def Work.releases (w : Work) (a n : Nat) : Bool :=
  match w with
  | .rel _ _ _ bound => bound.any (fun r => overlaps r.1.toNat r.2.toNat a n)
  | _ => false

/-- The earliest access of the actor that is not yet performed and that one to these bytes comes after (R200, R215, R330). -/
def State.ownEarlier (s : State) (a : Actor) (ea : Dword) (n : Nat) : Option Flight :=
  (s.flightsOf a).find? (fun f => f.work.overlapsAt ea.toNat n || f.work.releases ea.toNat n)

/-- The writes not yet performed that a release of an actor may carry: its own before it, and those of another thread that has performed a
release since (R243, R244). [DESIGN CHOICE, log 9] -/
def State.pendingBefore (s : State) (a : Actor) (before : Nat) : List Flight :=
  s.flights.filter (fun g => decide (g.id < before) && (decide (g.owner = a) || g.released) && g.work.fenced)

/-- One of them is to a region bound to the object. -/
def State.boundPending (s : State) (a : Actor) (ctx : Nat) (bound : List (Dword × Word)) (before : Nat) : Bool :=
  (s.pendingBefore a before).any (fun g => g.ctx == ctx && bound.any (fun r => g.work.overlapsAt r.1.toNat r.2.toNat))

/-- The actor performs a release: what it issued before and is still to be performed may be carried further by others (R243, R244).
[DESIGN CHOICE, log 9] -/
def State.markReleased (s : State) (a : Actor) (before : Nat) : State :=
  { s with flights := s.flights.map (fun g => if g.owner = a ∧ g.id < before ∧ g.work.fenced then { g with released := true } else g) }

/-! ### The checks of R199 -/

/-- How far an access gets. -/
inductive Reach where
  | go (ea : Dword) (pa : Nat)
  | scratch (off : Nat)
  | mgmt (off : Nat)
  | bad (c : Cause)
  | absent (ea : Dword)
  | hold (w : Wait)
  deriving DecidableEq, Repr, Inhabited

/-- A memory cause (R441): DETAIL and FADDR hold the address. -/
def memCause (code : Nat) (ea : Dword) (k : Acc) (sp : Space) (n : Nat) : Cause :=
  { code := code, detail := ea, faddr := ea, access := accessWord k (spaceCode sp) n }

/-- Bytes of a crew's scratchpad (R198). -/
def State.footprint (s : State) (crew : Nat) : Nat := ((s.crew? crew).map (·.scratchSize)).getD 0

/-- A versioned access of a speculative task to some sectors is held: the task is already held, or a limit stops it; then the task
becomes held (R380). -/
def State.limitGate (s : State) (a : Actor) (p : Port) (k : Acc) (ea : Dword) (secs : List Nat) : Option State :=
  match p.version? ea with
  | none => none
  | some (l, key) =>
    if !s.speculative a then none
    else match s.tasks.find? (fun t => t.launch == l && t.key == key) with
      | none => none
      | some t =>
        if t.held then some s
        else if (accReads k && s.overLimit t false secs) || (accWrites k && s.overLimit t true secs) then
          some (s.updTask l key (fun t => { t with held := true }))
        else none

/-- An MBXDONE store of the Easel stream to these bytes is still to be performed: a later access of the stream comes after it (R289,
R293). -/
def State.donePending (s : State) (a : Actor) (ea : Dword) (n : Nat) : Bool :=
  match a with
  | .easel k => (s.engine k).mbxdones.any (fun m => overlaps m.ea.toNat 4 ea.toNat n)
  | _ => false

/-- A global access of `n` bytes at `gea`, checked from the walk on (R199, R445): it parks behind the actor's parked accesses to its page
(R448), and waits for those that come before it (R32, R200). -/
def State.reachGlobal (s : State) (a : Actor) (ctx : Nat) (k : Acc) (sp : Space) (gea : Dword) (n : Nat) : Reach × State :=
  if s.parkedOn a ctx gea then (.absent gea, s)
  else if s.donePending a gea n then (.hold .none, s)
  else match s.ownEarlier a gea n with
    | some f => (.hold (if f.park.isSome then .flight f.id else .none), s)
    | none => match s.translate ctx k gea with
      | (.bad c, s) => (.bad (memCause c gea k sp n), s)
      | (.absent, s) => (.absent gea, s)
      | (.ok pa, s) => match s.limitGate a (s.portOf a ctx sp) k gea (sectorsOf pa n) with
        | some s => (.hold .frontier, s)
        | none => (.go gea pa, s)

/-- An access of a speculative task to host or peer memory waits for the frontier before it can raise anything (R383, R384). -/
def State.awaitsFrontier (s : State) (a : Actor) (ea : Dword) : Bool :=
  decide (ea.toNat / 2 ^ 56 = 4 ∨ ea.toNat / 2 ^ 56 = 5) && s.speculative a

/-- The checks of R199 for an access of `n` bytes at `ea`. -/
def State.reach (s : State) (a : Actor) (t : Thread) (k : Acc) (sp : Space) (ea : Dword) (n : Nat) : Reach × State :=
  if sp = .g ∧ s.awaitsFrontier a ea then (.hold .frontier, s)
  else if ea.toNat % n ≠ 0 then (.bad (memCause 0x43 ea k sp n), s)
  else match sp with
    | .x =>
      if s.footprint (crewOf a) < ea.toNat + n then (.bad (memCause 0x46 ea k sp n), s) else (.scratch ea.toNat, s)
    | .pv =>
      if t.privSize < ea.toNat + n then (.bad (memCause 0x41 ea k sp n), s)
      else s.reachGlobal a t.ctx k sp (t.privBase + ea) n
    | .g => match (if a = .mp ∧ k ≠ .atomic then mgSpace ea.toNat else none) with
      | some o => (.mgmt o, s)
      | none => s.reachGlobal a t.ctx k sp ea n

/-- What a body answers where an access does not get through; only LD.g and ST.g reach the management space (R455). -/
def missBody (r : Reach) (s : State) (acc : Word) (w : Option Work) : Body :=
  match r with
  | .bad c => .raise c s
  | .absent ea => .park ea acc w s
  | .hold .frontier => .held s
  | .hold w => .stay w
  | .mgmt o => .raise { code := 0x41, detail := dword (0x0480000000000000 + o), faddr := dword (0x0480000000000000 + o), access := acc } s
  | _ => .stay .none

/-- UNCORRECTABLE_DATA at an address (R452). -/
def dataCause (ea : Dword) (k : Acc) (sp : Space) (n : Nat) : Cause := memCause 0x44 ea k sp n

/-! ### Loads and stores (R203) -/

/-- A width sign-extends (R197). -/
def Width.sgn : Width → Bool
  | .s8 | .s16 => true
  | _ => false

/-- The words of a loaded value of `n` bytes (R203). -/
def loadWords (n : Nat) (sg : Bool) (v : Nat) : List Word :=
  if n = 8 then [word v, word (v / 2 ^ 32)]
  else if sg then [(BitVec.ofNat (8 * n) v).signExtend 32] else [word v]

/-- The body of a load (R203). [DEDUCED, log 7] -/
def loadBody (sp : Space) (n : Nat) (sg : Bool) (off : Int) : Actor → Thread → Vals → State → Body := fun a t v s =>
  match s.reach a t .load sp (memEa sp v.a off) n with
  | (.scratch o, s) =>
    if s.scratchFails (crewOf a) o n then .raise (dataCause (dword o) .load .x n) s
    else .done (loadWords n sg (s.scratchRead (crewOf a) o n)) s
  | (.mgmt o, s) => .done (loadWords n sg (s.mgRead o n)) s
  | (.go ea pa, s) =>
    let r := s.gRead (s.portOf a t.ctx sp) ea pa n
    if r.2.1 then .raise (dataCause ea .load sp n) r.2.2 else .done (loadWords n sg r.1) r.2.2
  | (.absent ea, s) => missBody (.absent ea) s (accessWord .load (spaceCode sp) n) (some (.load sp ea n sg))
  | (r, s) => missBody r s (accessWord .load (spaceCode sp) n) none

/-- The body of a store of the low `n` bytes of C (R203). [DEDUCED, log 7] -/
def storeBody (sp : Space) (n : Nat) (off : Int) : Actor → Thread → Vals → State → Body := fun a t v s =>
  let data := (dw (v.c.headD 0) (v.c.getD 1 0)).toNat % 2 ^ (8 * n)
  match s.reach a t .store sp (memEa sp v.a off) n with
  | (.scratch o, s) => .done [] (s.scratchWrite (crewOf a) o n data)
  | (.mgmt o, s) => .done [] (s.mgWrite o n data)
  | (.go ea pa, s) => .done [] (s.gWrite (s.portOf a t.ctx sp) ea pa n data)
  | (.absent ea, s) =>
    missBody (.absent ea) s (accessWord .store (spaceCode sp) n) (some (.store sp ea n (dword data)))
  | (r, s) => missBody r s (accessWord .store (spaceCode sp) n) none

/-! ### Atomics (R206-R209) -/

/-- ATOM's new word (R207). -/
def atomNew (op : AtomOp) (old c : Nat) : Nat :=
  let a : Word := word old
  let b : Word := word c
  (match op with
    | .add => a + b
    | .exch => b
    | .and => a &&& b
    | .or => a ||| b
    | .minS => if a.toInt ≤ b.toInt then a else b
    | .maxS => if a.toInt ≤ b.toInt then b else a
    | .minU => if a.toNat ≤ b.toNat then a else b
    | .maxU => if a.toNat ≤ b.toNat then b else a).toNat

/-- The operations the root complex performs (R206). -/
def AtomOp.atRoot : AtomOp → Bool
  | .add | .exch => true
  | _ => false

/-- An atomic's PROTECTION on die code 4 (R206): the operation is no AtomicOp, or the root complex lacks its size.
[DESIGN CHOICE, log 13] -/
def rootRefuses (ea : Dword) (n : Nat) (atRoot : Bool) : Bool :=
  decide (ea.toNat / 2 ^ 56 = 4 ∧ ea.toNat % n = 0) && !(atRoot && Config.atomicOps n)

/-- The body of an atomic of `n` bytes: `f` of the old value; `w` is its work where it parks (R206). [DEDUCED, log 7] -/
def atomicBody (n : Nat) (atRoot : Bool) (sc : Scope) (off : Int) (f : Vals → Nat → Nat) (w : Dword → Vals → Work) :
    Actor → Thread → Vals → State → Body := fun a t v s =>
  let ea := memEa .g v.a off
  if s.awaitsFrontier a ea then .held s
  else match s.strictCause t.ctx sc with
    | some c => .raise c s
    | none =>
      if rootRefuses ea n atRoot then .raise (memCause 0x41 ea .atomic .g n) s
      else match s.reach a t .atomic .g ea n with
        | (.go ea pa, s) =>
          let r := s.gAtomic (s.portOf a t.ctx .g) ea pa n (f v)
          if r.2.1 then .raise (dataCause ea .atomic .g n) r.2.2
          else .done (if n = 8 then [word r.1, word (r.1 / 2 ^ 32)] else [word r.1]) (r.2.2.demote t.ctx sc)
        | (.absent ea, s) => missBody (.absent ea) s (accessWord .atomic 0 n) (some (w ea v))
        | (r, s) => missBody r s (accessWord .atomic 0 n) none

/-- ATOMCAS: comparand and new value of its run (R208). -/
def casNew (wide : Bool) (c : List Word) (old : Nat) : Nat :=
  if wide then
    (if old = (dw (c.getD 0 0) (c.getD 1 0)).toNat then (dw (c.getD 2 0) (c.getD 3 0)).toNat else old)
  else if old = (c.getD 0 0).toNat then (c.getD 1 0).toNat else old

/-! ### Tensor elements (R205) -/

/-- Check the pieces of a tensor access in order; the pieces' global and home addresses where all get through. [DEDUCED, log 61] -/
def State.reachPieces (s : State) (a : Actor) (t : Thread) (k : Acc) (scratch : Bool) :
    List (Int × Nat) → Except Reach (List (Dword × Nat)) × State
  | [] => (.ok [], s)
  | (b, n) :: r =>
    let go (x : Reach × State) : Except Reach (List (Dword × Nat)) × State := match x with
      | (.go ea pa, s) => match s.reachPieces a t k scratch r with
        | (.ok l, s) => (.ok ((ea, pa) :: l), s)
        | e => e
      | (e, s) => (.error e, s)
    if scratch then
      if b % n ≠ 0 then (.error (.bad (memCause 0x43 (BitVec.ofInt 64 (b % 2 ^ 32)) k .x n)), s)
      else if b < 0 ∨ s.footprint (crewOf a) < b + n then
        (.error (.bad (memCause 0x46 (BitVec.ofInt 64 (b % 2 ^ 32)) k .x n)), s)
      else match s.reachPieces a t k scratch r with
        | (.ok l, s) => (.ok ((BitVec.ofInt 64 b, 0) :: l), s)
        | e => e
    else go (s.reach a t k .g (BitVec.ofInt 64 b) n)

/-- Read pieces and join them, the first lowest; and whether a check failed. -/
def State.readPieces (s : State) (crew : Nat) (p : Port) (scratch : Bool) : List ((Dword × Nat) × Nat) → Nat × Bool × State
  | [] => (0, false, s)
  | ((ea, pa), n) :: r =>
    let x := if scratch then (s.scratchRead crew ea.toNat n, s.scratchFails crew ea.toNat n, s) else s.gRead p ea pa n
    let y := x.2.2.readPieces crew p scratch r
    (x.1 + 2 ^ (8 * n) * y.1, x.2.1 || y.2.1, y.2.2)

/-- Write one piece whole, or its bits `sh .. sh+w-1` merged at the home so that elements sharing a byte never disturb each other
(R205). -/
def State.writePiece (s : State) (crew : Nat) (p : Port) (scratch whole : Bool) (ea : Dword) (pa n v mask : Nat) : State :=
  let merge (old : Nat) : Nat := (old &&& (2 ^ (8 * n) - 1 - mask)) ||| (v &&& mask)
  if scratch then
    s.scratchWrite crew ea.toNat n (if whole then v else merge (s.scratchRead crew ea.toNat n))
  else if whole then s.gWrite p ea pa n v
  else
    let r := s.gReadHome p ea pa n
    r.2.2.gWriteHome p ea pa n (merge r.1)

/-- Write one element of `w` bits at a bit address through its pieces: two bytes of one word at once, so that a watch of the word sees the
element whole (R217, R241). [DEDUCED, log 55] -/
def State.writeElem (s : State) (crew : Nat) (p : Port) (scratch : Bool) (w sh v : Nat) : List ((Dword × Nat) × Nat) → State
  | [] => s
  | [((ea, pa), n)] =>
    if 8 ≤ w then s.writePiece crew p scratch true ea pa n (v % 2 ^ w) 0
    else s.writePiece crew p scratch false ea pa n (v % 2 ^ w * 2 ^ sh) ((2 ^ w - 1) * 2 ^ sh % 256)
  | ((e0, p0), n0) :: ((e1, p1), n1) :: _ =>
    let x := v % 2 ^ w * 2 ^ sh
    let m := (2 ^ w - 1) * 2 ^ sh
    if e1 = e0 + 1 ∧ e0.toNat % 4 ≠ 3 then s.writePiece crew p scratch false e0 p0 2 x m
    else (s.writePiece crew p scratch false e0 p0 n0 (x % 256) (m % 256)).writePiece crew p scratch false e1 p1 n1 (x / 256) (m / 256)

/-- Cut a list of pieces' addresses along the elements. -/
def cutPieces (w : Nat) : List (Option Int) → List (Dword × Nat) → List (Option (Nat × List ((Dword × Nat) × Nat)))
  | [], _ => []
  | none :: r, l => none :: cutPieces w r l
  | some b :: r, l =>
    let ps := elemPieces w b
    some ((b % 8).toNat, (l.take ps.length).zip (ps.map (·.2))) :: cutPieces w r (l.drop ps.length)

/-- The path of one element's pieces (R241): where they lie in two granules they are read at their homes together, so that the element
is whole. [DESIGN CHOICE, log 9] -/
def State.wholePort (s : State) (p : Port) (scratch : Bool) (ps : List ((Dword × Nat) × Nat)) : State × Port :=
  match ps with
  | [((e0, _), _), ((e1, _), _)] =>
    if scratch || !p.l1 || e0.toNat / 8 == e1.toNat / 8 then (s, p)
    else ((s.flushRange p.core p.ctx e0 1).flushRange p.core p.ctx e1 1, { p with l1 := false })
  | _ => (s, p)

/-- Read the elements of an LDT: the packed value (R70, R205), outside elements being code 0. -/
def State.readElems (s : State) (crew : Nat) (p : Port) (scratch : Bool) (w : Nat) :
    List (Option (Nat × List ((Dword × Nat) × Nat))) → Nat × Bool × State
  | [] => (0, false, s)
  | none :: r =>
    let y := s.readElems crew p scratch w r
    (2 ^ w * y.1, y.2)
  | some (sh, ps) :: r =>
    let (s, q) := s.wholePort p scratch ps
    let x := s.readPieces crew q scratch ps
    let y := x.2.2.readElems crew p scratch w r
    (x.1 / 2 ^ sh % 2 ^ w + 2 ^ w * y.1, x.2.1 || y.2.1, y.2.2)

/-- Write the elements of an STT from a packed value. [DEDUCED, log 61] -/
def State.writeElems (s : State) (crew : Nat) (p : Port) (scratch : Bool) (w v : Nat) :
    List (Option (Nat × List ((Dword × Nat) × Nat))) → State
  | [] => s
  | none :: r => s.writeElems crew p scratch w (v / 2 ^ w) r
  | some (sh, ps) :: r => (s.writeElem crew p scratch w sh v ps).writeElems crew p scratch w (v / 2 ^ w) r

/-- The 8-byte scratch words of an access join the group's access set (R298). -/
def State.touchScratch (s : State) (crew : Nat) (l : List (Int × Nat)) : State :=
  { s with grp := { s.grp with touch := (s.grp.touch ++ l.map (fun p => (crew, (p.1 / 8).toNat))).eraseDups } }

/-- Add an excess to a crew's BANKCONF, saturating (R299). -/
def State.addBankconf (s : State) (crew n : Nat) : State :=
  s.updCrew crew (fun c => { c with bankconf := word (min (2 ^ 32 - 1) (c.bankconf.toNat + n)) })

/-- The excess of a set of 8-byte words over the 32 banks (R298). -/
def bankExcess (ws : List Nat) : Nat :=
  (List.range 32).foldl (fun n b => n + ((ws.filter (fun w => w % 32 == b)).length - 1)) 0

/-- At the end of an issue group the access sets of its LDT or STT are charged (R298). -/
def State.flushTouch (s : State) : State :=
  let l := s.grp.touch
  ((l.map (·.1)).eraseDups).foldl (fun u c => u.addBankconf c (bankExcess ((l.filter (fun p => p.1 == c)).map (·.2))))
    { s with grp := { s.grp with touch := [] } }

/-- The sectors of a tensor access together pass a limit of its task (R380). -/
def State.limitPieces (s : State) (a : Actor) (t : Thread) (k : Acc) (scratch : Bool) (l : List (Dword × Nat)) : Option State :=
  match l with
  | (ea, _) :: _ =>
    if scratch then none else s.limitGate a (s.portOf a t.ctx .g) k ea (l.map (·.2 / 32)).eraseDups
  | [] => none

/-- The words of a packed value (R205). -/
def tensorWords (e : List Word) (v : Nat) : List Word :=
  if palFormat e = 12 then [word v, word (v / 2 ^ 32)] else [word v]

/-- The first piece's address for a record or an item. -/
def tensorAccess (k : Acc) (e : List Word) : Word :=
  accessWord k (if isScratchEnt e then 1 else 0) (max 1 (codeWidth (palFormat e) / 8))

/-- The body of LDT from a captured entry (R205). -/
def ldtBody (e : List Word) : Actor → Thread → Vals → State → Body := fun a t v s =>
  let sc := isScratchEnt e
  let ps := tensorPieces e v.a
  match s.reachPieces a t .load sc ps with
  | (.ok l, s) => match s.limitPieces a t .load sc l with
    | some s => .held s
    | none =>
      let w := codeWidth (palFormat e)
      let r := s.readElems (crewOf a) (s.portOf a t.ctx .g) sc w (cutPieces w (tensorBits e v.a) l)
      let s := if sc then r.2.2.touchScratch (crewOf a) ps else r.2.2
      if r.2.1 then .raise (dataCause (BitVec.ofInt 64 ((ps.headD (0, 1)).1)) .load .g (ps.headD (0, 1)).2) s
      else .done (tensorWords e r.1) s
  | (.error (.absent ea), s) => missBody (.absent ea) s (tensorAccess .load e) (some (.tload e v.a))
  | (.error r, s) => missBody r s (tensorAccess .load e) none

/-- The body of STT from a captured entry: the data is register B, a pair for FP64 (R205). Elements below a byte read the bytes they are
merged into, so that both limits of R380 are tried. -/
def sttBody (e : List Word) : Actor → Thread → Vals → State → Body := fun a t v s =>
  let sc := isScratchEnt e
  let ps := tensorPieces e v.a
  match s.reachPieces a t .store sc ps with
  | (.ok l, s) => match s.limitPieces a t (if codeWidth (palFormat e) < 8 then .atomic else .store) sc l with
    | some s => .held s
    | none =>
      let w := codeWidth (palFormat e)
      let s := s.writeElems (crewOf a) (s.portOf a t.ctx .g) sc w (dw (v.b.headD 0) (v.b.getD 1 0)).toNat
        (cutPieces w (tensorBits e v.a) l)
      .done [] (if sc then s.touchScratch (crewOf a) ps else s)
  | (.error (.absent ea), s) => missBody (.absent ea) s (tensorAccess .store e) (some (.tstore e v.a v.b))
  | (.error r, s) => missBody r s (tensorAccess .store e) none

end Sys2Proof.Machine
end

