-- ==== Sys2Proof/Machine/Basin.lean ====
section
/-! DEFINITION. The queue instructions PUSH, POP, QCFG and QSTAT (R222-R225) and the steps of the Basin: commands, waiters, refills
and release (R346-R362). -/

namespace Sys2Proof.Machine

/-! ### PUSH and POP (R222, R223) -/

/-- The word of operand A as it would be captured now, or none while it is not there to read. -/
def State.peekA (s : State) (a : Actor) (t : Thread) (x : Args) : Option Word :=
  match t.replay with
  | some (srcs, _) => srcs.head?
  | none =>
    if !(guardOn t x.guard) || !(s.scoreboard a (x.guard.codes ++ x.a.codes)) then none
    else match x.a with
      | .reg c => some (s.reg a t c.toNat)
      | .chan n p => match s.chanSource a t n.toNat [p] with
        | .go => some (s.chanRead a n.toNat false).1
        | _ => none
      | _ => none

/-- The registers of the entry run of the queue that A names for the acting thread: entry size / 4; 1 while the queue is not
known (R222). -/
def State.entryRegs (s : State) (x : Args) : Nat :=
  match s.acting with
  | some (a, t) => match s.peekA a t x with
    | some w => match s.queue? (w.toNat % 65536) with
      | some q => 2 ^ q.esize
      | none => 1
    | none => 1
  | none => 1

/-- A run operand takes its run-time length. -/
def sizedRun (n : Nat) (o : Opnd) : Opnd :=
  match o with
  | .run c _ => .run c n
  | o => o

/-- QUEUE_INVALID (R222). -/
def queueCause (q : Nat) : Cause := { code := 0x85, detail := dword q }

/-- Send a command to a queue; the flight of the instruction is the next fresh identifier but one (R351). -/
def sendCmd (a : Actor) (ctx q : Nat) (op : QOp) (tr : Bool) (tp : Option Nat) (s : State) : Body :=
  let (i, s) := s.fresh
  .fly (.basin i tp)
    { s with qcmds := s.qcmds ++ [{ id := i, q := q, sender := .actor a, ctx := ctx, op := op, try' := tr, flight := some s.next }] }

/-- PUSH (R223). [DESIGN CHOICE, log 51] -/
def execPush (x : Args) (tr : Bool) (s : State) : Out :=
  let y := { x with c := sizedRun (s.entryRegs x) x.c }
  issue s (issOf (.push y tr)) (fun a t v s =>
    let q := (v.a.headD 0).toNat % 65536
    if s.queueOk t.ctx q then sendCmd a t.ctx q (.push v.c) tr none s else .raise (queueCause q) s)

/-- POP (R223). [DESIGN CHOICE, log 51] -/
def execPop (x : Args) (tr : Bool) (s : State) : Out :=
  let y := { x with d := sizedRun (s.entryRegs x) x.d }
  let tp : Option Nat := match x.c with
    | .pred n => some n.toNat
    | _ => none
  issue s (issOf (.pop y tr)) (fun a t v s =>
    let q := (v.a.headD 0).toNat % 65536
    if s.queueOk t.ctx q then sendCmd a t.ctx q (.pop 1) tr tp s else .raise (queueCause q) s)

/-! ### QCFG and QSTAT (R224, R225, R347-R349) -/

/-- The reserved bits of a descriptor's words are zero (R347). -/
def descReserved (w : List Word) : Bool :=
  let g (i : Nat) : Nat := (w.getD i 0).toNat
  g 0 / 64 != 0 || g 1 / 65536 != 0 || g 4 / 32 != 0 || bits (g 5) 30 16 != 0 || g 6 != 0 || g 7 != 0

/-- The queue a descriptor configures (R347). -/
def descQueue (q : Nat) (w : List Word) (ctx : Nat) : BQueue :=
  let g (i : Nat) : Nat := (w.getD i 0).toNat
  { id := q, kind := g 0 % 4, esize := bits (g 0) 3 2, hostPush := (g 0).testBit 4, hostPop := (g 0).testBit 5, ctx := ctx,
    spillBase := g 2 + 2 ^ 32 * g 3, spillLog := g 4, vector := g 5 % 65536, irq := (g 5).testBit 31 }

/-- The spill areas of two queues of one instance overlap (R348). -/
def BQueue.clashes (x y : BQueue) : Bool :=
  x.id / 4096 == y.id / 4096 && x.cap != 0 && y.cap != 0 &&
  decide (x.spillBase < y.spillBase + y.cap * y.bytes ∧ y.spillBase < x.spillBase + x.cap * x.bytes)

/-- The Basin refuses a descriptor (R348). -/
def State.descRefused (s : State) (x : BQueue) (w : List Word) : Bool :=
  descReserved w || x.kind == 3 || (1 ≤ x.spillLog && x.spillLog ≤ 4) || decide (24 < x.spillLog) ||
  x.spillBase % 4096 != 0 || decide (2 ^ 36 < x.spillBase + x.cap * x.bytes) ||
  s.queues.any (fun y => y.id != x.id && x.clashes y) || (if x.kind = 0 then (s.queue? x.id).isNone else (s.queue? x.id).isSome)

/-- Commands the actor has sent to a queue wait for their turn (R351). -/
def State.sentTo (s : State) (a : Actor) (q : Nat) : Bool := s.qcmds.any (fun k => k.q == q && k.sender == .actor a)

/-- QCFG (R224, R347-R349): from a handler CTX is the issuer's own context; a queue of another context, or a launch's spawn queue,
is refused it (R222, R364). The descriptor is the run in C, as R196 and R224 have it; R347 speaks of registers from A on.
[DEDUCED, log 66] -/
def execQcfg (x : Args) (s : State) : Out :=
  issue s (issOf (.qcfg x)) (fun a t v s =>
    let q := (v.a.headD 0).toNat % 65536
    let y := descQueue q v.c (if t.inHandler then t.ctx else (v.c.getD 1 0).toNat % 65536)
    let foreign : Bool := match s.queue? q with
      | some z => (t.inHandler && z.ctx != t.ctx) || s.spawnLive q
      | none => false
    if ((s.queue? q).map (·.releasing)).getD false || s.sentTo a q then .stay .none
    else if 2 ^ 15 ≤ q ∨ foreign ∨ s.descRefused y v.c then .raise (queueCause q) s
    else if y.kind = 0 then
      let s := s.updQueue q (fun z => { z with releasing := true })
      .done [] { s with agenda := s.agenda ++ [.queueRelease q] }
    else .done [] { s with queues := s.queues ++ [y] })

/-- QSTAT's snapshot (R225); an unconfigured queue reads 0 (R349). [DESIGN CHOICE, log 51] -/
def State.queueStat (s : State) (q : Nat) : Dword :=
  match s.queue? q with
  | some x => if x.releasing then 0 else
    dword (min x.count (2 ^ 32 - 1) + 2 ^ 32 * x.ondie.length + 2 ^ 40 * x.kind + 2 ^ 42 * x.esize)
  | none => 0

/-- QSTAT (R225). -/
def execQstat (x : Args) (s : State) : Out :=
  issue s (issOf (.qstat x)) (fun a t v s =>
    let q := (v.a.headD 0).toNat % 65536
    let foreign : Bool := match s.queue? q with
      | some z => z.ctx != t.ctx
      | none => false
    if s.sentTo a q then .stay .none
    else if 2 ^ 15 ≤ q ∨ foreign then .raise (queueCause q) s
    else .done [lo32 (s.queueStat q), hi32 (s.queueStat q)] s)

/-! ### Answers -/

/-- The unbinding of a slot whose command has been performed (R458). -/
def State.finishUnbind (s : State) (f n : Nat) : State :=
  if (s.slot f n).unbind then
    (s.setMg (slotQAt f n) (s.mg (slotQAt f n) &&& 0x7FFFFFFF)).setSlot { s.slot f n with unbind := false }
  else s

/-- A window command has been performed (R462): words popped stand in ENTRY. [DESIGN CHOICE, log 41] -/
def State.windowDone (s : State) (f n : Nat) (ok denied : Bool) (ws : List Word) : State :=
  let x := s.slot f n
  (s.setSlot { x with entry := ws ++ x.entry.drop ws.length, ok := ok, denied := denied, done := true }).finishUnbind f n

/-- The predicate of a POP.try (R223). -/
def State.setTry (s : State) (f : Flight) (b : Bool) : State :=
  match f.work with
  | .basin _ (some p) => if f.orphan then s else s.updThread f.owner (fun t => t.setPred p b)
  | _ => s

/-- The thread waits at a BASIN read that this command makes for it (R358). -/
def State.awaits (s : State) (a : Actor) (k : QCmd) : Bool :=
  match s.thread? a with
  | some t => t.wait == .command k.lead
  | none => false

/-- A cause of a command without a flight: of a read, at the instruction that waits for it; of a channel's push, whose instruction has
gone, at the thread's pc. [DESIGN CHOICE, log 51] -/
def State.raiseCmd (s : State) (a : Actor) (k : QCmd) (c : Cause) : State :=
  match s.thread? a with
  | some t => if t.exited || t.pending.isSome || (k.op.isPop && !s.awaits a k) then s else s.raise a (s.siteAt t) c
  | none => s

/-- The command ends with QUEUE_INVALID in its thread, or DENIED in its window slot (R349, R361, R462). -/
def State.rejectCmd (s : State) (k : QCmd) : State :=
  match k.sender with
  | .window f n => s.windowDone f n false true []
  | .actor a => match k.flight with
    | some i => match s.flight? i with
      | some f => s.raiseLate f (queueCause k.q)
      | none => s
    | none => s.raiseCmd a k (queueCause k.q)

/-- A push has been performed or, in the `.try` form, has failed (R223, R462). -/
def State.answerPush (s : State) (k : QCmd) (ok : Bool) : State :=
  match k.sender with
  | .window f n => s.windowDone f n ok false []
  | .actor _ => match k.flight.bind s.flight? with
    | some f =>
      (if f.orphan then s else s.writeDestLate f.owner f.group f.dest [word (b2n ok)]).delFlight f.id
    | none => s

/-- A pop gives an entry, or none to a failing `.try` (R223, R359, R462): the result waits to be written. [DESIGN CHOICE, log 41] -/
def State.answerPop (s : State) (k : QCmd) (e : Option QEntry) : State :=
  match k.sender with
  | .window f n => match e with
    | some e => s.windowDone f n (!e.bad) false (if e.bad then [] else e.words)
    | none => s.windowDone f n false false []
  | .actor _ => match k.flight.bind s.flight? with
    | some f => match e with
      | some e =>
        if e.bad then s.raiseLate f { code := 0x44 }
        else if f.orphan && !f.dest.isPush then s.delFlight f.id
        else (s.setTry f true).updFlight f.id (fun f => { f with work := .value e.words })
      | none => (s.setTry f false).delFlight f.id
    | none => s

/-! ### The steps of the Basin -/

/-- The sender may have its command processed: a withdrawn one waits until its crew is on the device again, and those of an Easel
thread that is saved stay with it (R360). -/
def State.senderHere (s : State) (k : QCmd) : Bool :=
  match k.sender with
  | .actor (.thread t) => !k.withdrawn || (match s.crew? t.crew with
    | some c => c.at'.core?.isSome
    | none => true)
  | .actor (.easel n) => decide (n < 80)
  | _ => true

/-- No earlier command of the same sender to the same queue is before it (R351). -/
def firstOf (l : List QCmd) (k : QCmd) : Bool :=
  (l.find? (fun x => x.q == k.q && x.sender == k.sender)).map (·.id) == some k.id

/-- The context of a sender owns the queue, and the device does not keep it to itself (R361, R364). -/
def State.senderOwns (s : State) (k : QCmd) (q : BQueue) : Bool :=
  (match k.sender with
    | .actor _ => k.ctx == q.ctx
    | .window f _ => Config.ctxFunction q.ctx == f) && !s.spawnLive q.id

/-- The waiters an instance holds (R352). -/
def State.waitersOf (s : State) (inst : Nat) : Nat :=
  s.queues.foldl (fun n q => if q.id / 4096 = inst then n + q.waiters.length else n) 0

/-- The Basin answers an instruction's reads of a BASIN channel: the words stay with the instruction until it issues (R109, R358). -/
def State.answerRead (s : State) (a : Actor) (c : Nat) (ws : List Word) : State :=
  s.updThread a (fun t => { t with got := (t.pc, c, ws) :: t.got.filter (fun g => !(g.1 == t.pc && g.2.1 == c)) })

/-- The entries a command takes leave the queue, after the refill they need, and it is answered (R223, R353, R358). An entry that a read
finds lost ends it with UNCORRECTABLE_DATA, and goes (R359). -/
def State.servePop (s : State) (k : QCmd) (q : Nat) : State :=
  let s := s.qFetch q k.op.need k.op.need
  match ((s.queue? q).bind (·.heads k.op.need)).getD [] with
  | [] => s
  | e :: r => match k.op, k.sender with
    | .read c _ n _, .actor a =>
      if !s.awaits a k then s
      else if (e :: r).any (·.bad) then
        ((s.updQueue q (fun x => { x with ondie := x.ondie.eraseP (·.bad) })).queueChanged q).raiseCmd a k { code := 0x44 }
      else (s.qTake q n).answerRead a c ((e :: r).map (·.words.headD 0))
    | _, _ => (s.qTake q 1).answerPop k (some e)

/-- A thread whose command has become a waiter waits on the channel condition (R352). -/
def State.waitCmd (s : State) (k : QCmd) : State :=
  match k.sender with
  | .actor a => s.updThread a (fun t =>
      if t.wait = .none ∧ t.exited = false then { t with wait := .command k.lead, yielded := none } else t)
  | .window _ _ => s

/-- The words of a push, or those its thread expects of a pop, are an entry's (R222, R350). [DESIGN CHOICE, log 51] -/
def State.sized (s : State) (k : QCmd) (q : BQueue) : Bool :=
  match k.op, k.flight.bind s.flight? with
  | .push ws, _ => ws.length == 2 ^ q.esize
  | .read _ _ _ _, _ => q.esize == 0
  | .pop _, some f => match f.dest with
    | .run _ n => n == 2 ^ q.esize
    | _ => true
  | .pop _, none => true

/-- The reads that one instruction makes of several channels, still to be processed (R109). [DESIGN CHOICE, log 53] -/
def State.readGroup (s : State) (k : QCmd) : List QCmd :=
  match k.op with
  | .read _ _ _ l => s.qcmds.filter (fun x => x.sender == k.sender && x.lead == l && x.op.isPop)
  | _ => []

/-- A read is next in its queue, which holds what it needs (R351, R352). -/
def State.canServe (s : State) (k : QCmd) : Bool :=
  firstOf s.qcmds k && (match s.queue? k.q with
    | some q => !q.releasing && s.senderOwns k q && s.sized k q && !(q.waiters.any (fun w => w.op.isPop)) && decide (k.op.need ≤ q.count)
    | none => false)

/-- The reads of one instruction are performed together, once every queue holds what they need; until then none is, and none becomes
a waiter (R109). [DESIGN CHOICE, log 53] -/
def State.serveAll (s : State) : List QCmd → Option State
  | [] => some s
  | k :: r =>
    if s.canServe k then (State.servePop { s with qcmds := s.qcmds.filter (fun x => x.id != k.id) } k k.q).serveAll r else none

/-- The queue processes a command (R352, R353). A command that finds the waiter store full stays at its core; a `.try` command, and so
the host's, never becomes a waiter (R462). -/
def State.processCmd (s : State) (k : QCmd) (q : BQueue) : State :=
  let s' := { s with qcmds := s.qcmds.filter (fun x => x.id != k.id) }
  let wait : State :=
    if 8192 ≤ s.waitersOf (q.id / 4096) then s
    else ((s'.updQueue q.id (fun q => { q with waiters := q.waiters ++ [k] })).queueChanged q.id).waitCmd k
  match k.op with
  | .push ws =>
    if q.room && !(q.waiters.any (fun w => !w.op.isPop)) then (s'.qInsert q.id ws).answerPush k true
    else if k.try' then s'.answerPush k false
    else wait
  | op =>
    let claims := q.waiters.foldl (fun n w => n + w.op.takes) 0
    if k.try' ∧ q.count ≤ claims then s'.answerPop k none
    else if !(q.waiters.any (fun w => w.op.isPop)) && decide (op.need ≤ q.count) then s'.servePop k q.id
    else if k.try' then s'.answerPop k none
    else wait

/-- The command pushes a launch's entry: its queue is a registered launch queue (R249, R457). -/
def State.launchPush (s : State) (k : QCmd) : Bool :=
  !k.op.isPop && (List.range 256).any (fun n => (s.launchQ n).1 && (s.launchQ n).2.2 == k.q)

/-- A push of a launch's entry is a release at SYSTEM scope (R249): it comes after the writes that it carries and that
are still to be performed: the pusher's earlier ones, and those released by others before (R244). [DESIGN CHOICE, log 9] -/
def State.pushReady (s : State) (k : QCmd) : Bool :=
  match k.sender with
  | .actor a => !s.launchPush k || (s.pendingBefore a k.id).isEmpty
  | .window _ _ => true

/-- What stands dirty in the L1s as a launch's entry is pushed goes home (R249). [DESIGN CHOICE, log 9] -/
def State.pushRelease (s : State) (k : QCmd) : State :=
  if s.launchPush k then (s.wbWhere (fun _ => true)).stampCopies else s

/-- BASIN_COMMAND: a queue processes one command that was sent to it: a thread's in the order of issue, so that a push whose word is
still to come holds the later ones (R351, R358); it carries the entry's own bytes only (R262, R352, R353, R361). A command whose
words are not an entry's, because the queue has been configured anew since it was sent, ends with QUEUE_INVALID (R222, R350).
[DESIGN CHOICE, log 51] -/
def execBasinCommand (cmd : Nat) (s : State) : Out :=
  match s.qcmds.find? (fun k => k.id == cmd) with
  | none => .next s
  | some k =>
    if !(firstOf s.qcmds k) || !(s.senderHere k) || !k.filled || !(s.pushReady k) then .next s
    else match s.queue? k.q with
      | none => .next (State.rejectCmd { s with qcmds := s.qcmds.filter (fun x => x.id != k.id) } k)
      | some q =>
        if q.releasing then .next s
        else if !(s.senderOwns k q && s.sized k q) then .next (State.rejectCmd { s with qcmds := s.qcmds.filter (fun x => x.id != k.id) } k)
        else if 1 < (s.readGroup k).length then .next ((s.serveAll (s.readGroup k)).getD s)
        else .next ((s.pushRelease k).processCmd k q)

/-- BASIN_WAITER_ANSWER: the oldest waiting pop takes the next entry, or the oldest waiting push finds room (R352,
R362). Once a launch has the queue for its spawn queue, what waits there ends with QUEUE_INVALID (R364).
[DESIGN CHOICE, log 51, DEDUCED, log 65] -/
def execBasinWaiterAnswer (q : Nat) (s : State) : Out :=
  match s.queue? q with
  | none => .next s
  | some x =>
    let drop (k : QCmd) (s : State) : State := s.updQueue q (fun y => { y with waiters := y.waiters.filter (fun w => w.id != k.id) })
    if s.spawnLive q then .next (match x.waiters with
      | k :: _ => ((drop k s).queueChanged q).rejectCmd k
      | [] => s)
    else match x.waiters.find? (fun w => w.op.isPop && decide (w.op.need ≤ x.count)) with
    | some k => .next (if x.waiters.find? (fun w => w.op.isPop) = some k then (drop k s).servePop k q else s)
    | none => match x.waiters.find? (fun w => !w.op.isPop) with
      | some k => match k.op with
        | .push ws => .next (if x.waitRoom then ((drop k s).qAccept q ws).answerPush k true else s)
        | _ => .next s
      | none => .next s

/-- BASIN_REFILL: entries move from the spill area to the on-die part, where a refill is due (R355, R356). -/
def execBasinRefill (q : Nat) (s : State) : Out :=
  match s.queue? q with
  | some x => .next (if x.refillDue then s.qRefill q else s)
  | none => .next s

/-- QUEUE_RELEASE: a released queue's waiters end with QUEUE_INVALID, its entries go, and it is unconfigured; registrations and
bindings that name it end (R349, R457, R458). -/
def execQueueRelease (q : Nat) (s : State) : Out :=
  match s.queue? q with
  | none => .next s
  | some x =>
    if !x.releasing then .next s
    else
      let s := { s with queues := s.queues.filter (fun y => y.id != q) }
      let s := x.waiters.foldl (fun u k => u.rejectCmd k) s
      let s := (List.range 256).foldl (fun u n =>
        if (u.launchQ n).1 ∧ (u.launchQ n).2.2 = q then u.setMg64 (launchQAt n) (u.mg64 (launchQAt n) % 2 ^ 32) else u) s
      .next ((List.range 17).foldl (fun u f => (List.range 16).foldl (fun (u : State) n =>
        if u.slotQueue f n = some q then u.writeSlotQ f n (u.mg (slotQAt f n) &&& 0xFFFF) else u) u) s)

end Sys2Proof.Machine
end

