-- ==== Sys2Proof/Machine/Collectives.lean ====
section
/-! DEFINITION. Collectives (R36-R41, R89-R91, R151-R160): arrival of VOTE, SHFL, REDUX, SCAN, MATCH, PART and SQBAR, the check of
their meetings, and what a good meeting writes. -/

namespace Sys2Proof.Machine

/-! ### Trees and scans (R89-R91) -/

/-- The identity of an integer operation (R90). -/
def intIdentity (op : RedOp) (t : IntTy) : Nat :=
  let w := IntTy.w t
  match op with
  | .add | .or | .xor => 0
  | .and => 2 ^ w - 1
  | .max => if t.signed then 2 ^ (w - 1) else 0
  | .min => if t.signed then 2 ^ (w - 1) - 1 else 2 ^ w - 1

/-- The pattern a float format gives one element's identity (R90). -/
def fltIdentity (op : RedOp) (f : Fmt) : Nat :=
  match op with
  | .max => f.signBit + f.infPat
  | .min => f.infPat
  | _ => f.signBit

/-- The identity of an operation at a type, as one value (R90). -/
def redIdentity (op : RedOp) (t : RedTy) : Nat :=
  match t with
  | .int t => intIdentity op t
  | .flt t => match t with
    | .f16x2 | .bf16x2 => fltIdentity op (FTy.fmt t) * (2 ^ 16 + 1)
    | _ => fltIdentity op (FTy.fmt t)

/-- An integer operation (R155). -/
def intRed (op : RedOp) (t : IntTy) (a b : Nat) : Nat :=
  match op with
  | .add => (a + b) % 2 ^ IntTy.w t
  | .max => if intVal t a ≤ intVal t b then b else a
  | .min => if intVal t a ≤ intVal t b then a else b
  | .and => a &&& b
  | .or => a ||| b
  | .xor => a ^^^ b

/-- A floating operation, element by element, in rne (R155). -/
def fltRed (op : RedOp) (t : FTy) (a b : Nat) : Nat :=
  let f := FTy.fmt t
  natOf (fMap2 t (match op with
    | .max => fMax f
    | .min => fMin f
    | _ => fAdd f .rne) (wordsOf t.wide a) (wordsOf t.wide b))

/-- The operation of REDUX and SCAN (R155). -/
def redApply (op : RedOp) (t : RedTy) (a b : Nat) : Nat :=
  match t with
  | .int t => intRed op t a b
  | .flt t => fltRed op t a b

/-- One level of the tree: neighbours are combined, the lower position first (R89). -/
def treeLevel (f : Nat → Nat → Nat) : List Nat → List Nat
  | a :: b :: r => f a b :: treeLevel f r
  | l => l

/-- The tree over a list whose length is a power of two (R89). -/
def treeOf (f : Nat → Nat → Nat) : Nat → List Nat → Nat
  | 0, l => l.headD 0
  | n + 1, l => treeOf f n (treeLevel f l)

/-- One level of the scan: position l takes op of the position 2^j below it and itself (R91). -/
def scanLevel (f : Nat → Nat → Nat) (d : Nat) (l : List Nat) : List Nat :=
  l.zipIdx.map (fun p => if p.2 < d then p.1 else f (l.getD (p.2 - d) 0) p.1)

/-- The inclusive scan: levels 2^0, 2^1, ... (R91). -/
def scanOf (f : Nat → Nat → Nat) : Nat → Nat → List Nat → List Nat
  | 0, _, l => l
  | n + 1, d, l => scanOf f n (2 * d) (scanLevel f d l)

/-! ### Members -/

/-- A member of a meeting: its place, its thread and its arrival. -/
structure Member where
  ref : TRef
  th : Thread
  arr : Arrival
  deriving Repr, Inhabited

/-- A member's captured operands. -/
def Member.vals (m : Member) : Vals := splitVals (issOf m.arr.instr) m.arr.srcs

/-- A member's A as one number. -/
def Member.a (m : Member) : Nat := natOf m.vals.a

/-- The lane's first position of its tile (R39). -/
def tileBase (lane tsize : Nat) : Nat := lane / tsize * tsize

/-- The values of a tile by logical position, identities where no member stands (R89). -/
def tileValues (ms : List Member) (base tsize ident : Nat) : List Nat :=
  (List.range tsize).map (fun i => ((ms.find? (fun m => m.ref.lane == base + i)).map Member.a).getD ident)

/-- The mask of the members that meet a test. -/
def memberMask (ms : List Member) (p : Member → Bool) : Nat :=
  ms.foldl (fun n m => if p m then n ||| 2 ^ m.ref.lane else n) 0

/-- Log2 of a tile size, at most 5. -/
def tileLevels (tsize : Nat) : Nat := tsize.log2

/-- SHFL's source position (R154). -/
def shflPos (k : ShflKind) (t b size : Nat) : Nat :=
  (match k with
    | .idx => b
    | .up => size + t - b % size
    | .down => t + b
    | .xorl => t ^^^ b) % size

/-- A floating value whose elements that are NaN are the canonical one (R78); an integer as it is. -/
def canonWords (t : RedTy) (ws : List Word) : List Word :=
  match t with
  | .int _ => ws
  | .flt t => fMap2 t (fun a _ => if ((FTy.fmt t).decode a).isNan then (FTy.fmt t).nanPat else a) ws ws

/-- The words a member writes when its meeting issues; `tsize` is the squad's tile size (R153-R160). -/
def memberWords (ms : List Member) (tsize : Nat) (m : Member) : List Word :=
  let base := tileBase m.ref.lane tsize
  let pos := m.ref.lane % tsize
  match m.arr.instr with
  | .vote _ .ballot => [word (memberMask ms (fun u => u.a % 2 == 1))]
  | .vote _ .any => boolWord (ms.any (fun u => u.a % 2 == 1))
  | .vote _ .all => boolWord (ms.all (fun u => u.a % 2 == 1))
  | .shfl _ k t =>
    let q := shflPos k pos (m.vals.b.headD 0).toNat tsize
    wordsOf t.wide (((ms.find? (fun u => u.ref.lane == base + q)).map Member.a).getD m.a)
  | .redux _ op t =>
    wordsOf t.wide (treeOf (redApply op t) (tileLevels tsize) (tileValues ms base tsize (redIdentity op t)))
  | .scan _ op t =>
    canonWords t
      (wordsOf t.wide ((scanOf (redApply op t) (tileLevels tsize) 1 (tileValues ms base tsize (redIdentity op t))).getD pos 0))
  | .matchL _ _ => [word (memberMask ms (fun u => u.a == m.a))]
  | _ => []

/-! ### Arrival (R36, R37, R40, R151) -/

/-- The squad's tile size in lanes (R25). -/
def State.tileSize (s : State) (k : Nat × Nat × Bool) : Nat := 2 ^ ((s.squad? k).map (·.part)).getD 5

/-- The checks of R37 on a mask. -/
def maskCause (lane tsize : Nat) (m : Word) : Option Cause :=
  if !m.toNat.testBit lane then some { code := 0x21, detail := m.setWidth 64 }
  else if m.toNat / 2 ^ tileBase lane tsize % 2 ^ tsize * 2 ^ tileBase lane tsize ≠ m.toNat then
    some { code := 0x23, detail := m.setWidth 64 }
  else none

/-- The membership mask: the last operand (R151). -/
def meetMask (x : Args) (v : Vals) : Word := sWord x v (fun i => i.setWidth 32)

/-- The body of a collective with a mask. -/
def meetBody (mask : Vals → Word) : Actor → Thread → Vals → State → Body := fun a _ v s =>
  match maskCause (laneOf a) (s.tileSize (squadKey a)) (mask v) with
  | some c => .raise c s
  | none => .meet (mask v) s

/-- VOTE (R153). -/
def execVote (x : Args) (k : VoteKind) (s : State) : Out := issue s (issOf (.vote x k)) (meetBody (meetMask x))

/-- SHFL's mask stands in C (R151). -/
def shflMask (x : Args) (v : Vals) : Word :=
  match x.c with
  | .imm i => i.setWidth 32
  | _ => v.c.headD 0

/-- SHFL (R154). -/
def execShfl (x : Args) (k : ShflKind) (t : IntTy) (s : State) : Out :=
  issue s (issOf (.shfl x k t)) (meetBody (shflMask x))

/-- REDUX (R155, R156). -/
def execRedux (x : Args) (op : RedOp) (t : RedTy) (s : State) : Out :=
  issue s (issOf (.redux x op t)) (meetBody (meetMask x))

/-- SCAN (R155, R157). -/
def execScan (x : Args) (op : RedOp) (t : RedTy) (s : State) : Out :=
  issue s (issOf (.scan x op t)) (meetBody (meetMask x))

/-- MATCH (R158). -/
def execMatchL (x : Args) (t : IntTy) (s : State) : Out := issue s (issOf (.matchL x t)) (meetBody (meetMask x))

/-- SQBAR (R160). -/
def execSqbar (x : Args) (s : State) : Out := issue s (issOf (.sqbar x)) (meetBody (meetMask x))

/-- PART arrives with its tile-size code; its mask is implied (R40, R159). -/
def execPart (x : Args) (s : State) : Out :=
  issue s (issOf (.part x)) (fun a _ v s =>
    let c := meetMask x v
    if 1 ≤ c.toNat ∧ c.toNat ≤ 5 then .meet (word (s.liveMask (squadKey a))) s
    else .raise { code := 0x23, detail := c.setWidth 64 } s)

/-! ### Meetings (R36, R40) -/

/-- The instruction is PART. -/
def isPart : Instr → Bool
  | .part _ => true
  | _ => false

/-- The lane of a squad as a member, if it waits at a collective and its crew is resident; a thread in its trap handler is not at one
(R41). [DEDUCED, log 25] -/
def State.memberAt (s : State) (k : Nat × Nat × Bool) (lane : Nat) : Option Member :=
  let r : TRef := ⟨k.1, k.2.1, k.2.2, lane⟩
  match s.thread? (.thread r), s.crew? k.1 with
  | some th, some c => match c.at', th.wait, th.exited || th.inHandler with
    | .on _, .meeting a, false => some ⟨r, th, a⟩
    | _, _, _ => none
  | _, _ => none

/-- The lanes of a mask. -/
def lanesOf (m : Nat) : List Nat := (List.range 32).filter (fun i => m.testBit i)

/-- A lane has exited: born exited lanes have no thread. -/
def State.laneExited (s : State) (k : Nat × Nat × Bool) (lane : Nat) : Bool :=
  match s.thread? (.thread ⟨k.1, k.2.1, k.2.2, lane⟩) with
  | some th => th.exited
  | none => true

/-- Two members wait at the same program counter with the same instruction and the same mask (R36). -/
def agree (a b : Member) : Bool := a.arr.pc == b.arr.pc && a.arr.instr == b.arr.instr && a.arr.mask == b.arr.mask

/-- Two lanes wait at PART and give the same tile size (R40), at whatever program counters. [DEDUCED, log 25] -/
def agreePart (a b : Member) : Bool := isPart b.arr.instr && (meetMask (issOf a.arr.instr).x a.vals == meetMask (issOf b.arr.instr).x b.vals)

/-- The named lanes, all of which wait at a collective. -/
def State.meetingOf (s : State) (k : Nat × Nat × Bool) (mask : Nat) : Option (List Member) :=
  (lanesOf mask).mapM (s.memberAt k)

/-- A meeting of a collective other than PART among the squad's lanes is good and can issue (R40). [DEDUCED, log 25] -/
def State.goodOther (s : State) (k : Nat × Nat × Bool) : Bool :=
  (List.range 32).any (fun l => match s.memberAt k l with
    | some m => !isPart m.arr.instr && (match s.meetingOf k m.arr.mask.toNat with
      | some ms => ms.all (agree m)
      | none => false)
    | none => false)

/-- Where a member's cause strikes. -/
def Member.site (m : Member) : Site :=
  { pc := m.arr.pc, len := 8, srcs := m.arr.srcs, dests := if m.arr.dest = .none then [] else [m.arr.dest], captured := true }

/-- A member writes its result and goes on (R151); a member that popped is in the long-latency class (R113). -/
def State.finishMember (s : State) (ms : List Member) (tsize : Nat) (m : Member) : State :=
  let a := Actor.thread m.ref
  let ws := memberWords ms tsize m
  let now := s.cycle (s.issuerOf a)
  let p := issOf m.arr.instr
  let s := if p.isLong then s.launchFlight a m.th p m.arr.dest m.arr.srcs (.value ws) true none else s.writeDest a m.arr.dest ws
  let w := s.restWait a
  s.updThread a (fun t => { t with met := none, wait := w, pc := m.arr.pc + 8, elig := now + 1 })

/-- A formed meeting issues as one unit of the issue group under way (R28, R36); what one member knows to be unbound is so for all (R152,
R247). [DEDUCED, log 25] -/
def State.issueMeeting (s : State) (k : Nat × Nat × Bool) (ms : List Member) : State :=
  let tsize := s.tileSize k
  let s := s.shareUnbinds (ms.map (fun m => .thread m.ref))
  let s := ms.foldl (fun u m => u.finishMember ms tsize m) s
  let s := { s with grp := { s.grp with rest := s.grp.rest.filter (fun a => !(ms.any (fun m => a == .thread m.ref))) } }
  match ms with
  | m :: _ => match m.arr.instr with
    | .part x => s.updSquad k (fun q => { q with part := (meetMask x m.vals).toNat })
    | _ => s
  | [] => s

/-- A good meeting has formed (R36): its members' waits end, and it is to issue through the picker (R28). [DEDUCED, log 25] -/
def State.formMeeting (s : State) (lanes : Nat) (ms : List Member) : State :=
  ms.foldl (fun (u : State) m => (u.wake (.thread m.ref)).updThread (.thread m.ref) (fun t => { t with met := some ⟨m.arr, lanes⟩ })) s

/-- The members of the formed meeting to which a thread belongs; none where it belongs to none. -/
def State.formedWith (s : State) (t : TRef) : List Member :=
  match (s.thread? (.thread t)).bind (·.met) with
  | none => []
  | some m => (lanesOf m.lanes).filterMap (fun l =>
      let r : TRef := { t with lane := l }
      match s.thread? (.thread r) with
      | some th => match th.met with
        | some y => if y.lanes = m.lanes then some ⟨r, th, y.arr⟩ else none
        | none => none
      | none => none)

/-- A formed meeting may issue: what its members issued before has taken its effect on the context and the squad (R152), and none of them
waits on a command of its own (R352). [DEDUCED, log 25] -/
def State.meetingReady (s : State) (t : TRef) : Bool :=
  (s.formedWith t).all (fun m => s.sharedSettled (.thread m.ref) && m.th.wait == .none)

/-- Every member raises MEMBERSHIP_MISMATCH with its own mask, the implied one at PART (R36, R40). [DEDUCED, log 25] -/
def State.mismatch (s : State) (ms : List Member) : State :=
  let mask (m : Member) : Word :=
    if isPart m.arr.instr then word (s.liveMask (m.ref.crew, m.ref.squad, m.ref.shadow)) else m.arr.mask
  ms.foldl (fun u m => u.raise (.thread m.ref) m.site { code := 0x21, detail := (mask m).setWidth 64 }) s

/-- PART's one moment (R40): every non-exited lane waits at a collective and no good meeting of another collective can issue. The meeting
forms where all wait at PART with one tile size; else every waiting lane raises MEMBERSHIP_MISMATCH. [DEDUCED, log 25] -/
def State.judgePart (s : State) (k : Nat × Nat × Bool) : State :=
  match s.meetingOf k (s.liveMask k) with
  | none => s
  | some ms =>
    if s.goodOther k then s
    else if (match ms with
      | m :: _ => isPart m.arr.instr && ms.all (agreePart m)
      | [] => false) then s.formMeeting (s.liveMask k) ms
    else s.mismatch ms

/-- A lane of the squad waits at PART. -/
def State.partWaits (s : State) (k : Nat × Nat × Bool) : Bool :=
  (List.range 32).any (fun l => ((s.memberAt k l).map (fun m => isPart m.arr.instr)).getD false)

/-- The check of one thread waiting at a collective (R36); a meeting that a PART lane stands in, and a bad one at PART's moment, is judged
then, for every waiting lane (R40). [DEDUCED, log 25] -/
def State.checkMeeting (s : State) (t : TRef) : State :=
  let k := (t.crew, t.squad, t.shadow)
  match s.memberAt k t.lane with
  | none => s
  | some m =>
    if isPart m.arr.instr then s.judgePart k
    else match (lanesOf m.arr.mask.toNat).find? (s.laneExited k) with
      | some l => s.raise (.thread t) m.site { code := 0x22, detail := dword (m.arr.mask.toNat + 2 ^ 32 * l) }
      | none => match s.meetingOf k m.arr.mask.toNat with
        | none => s
        | some ms =>
          if ms.any (fun u => isPart u.arr.instr) then s.judgePart k
          else if ms.all (agree m) then s.formMeeting m.arr.mask.toNat ms
          else if s.partWaits k && (s.meetingOf k (s.liveMask k)).isSome && !(s.goodOther k) then s.judgePart k
          else s.mismatch ms

/-- MEETING_ISSUE (R28, R36): a waiting thread's meeting is checked, and forms where it is good; a formed one issues whole in the issue
group that the picker has put it in. -/
def execMeetingIssue (t : TRef) (s : State) : Out :=
  let a := Actor.thread t
  match (s.thread? a).bind (·.met) with
  | some _ =>
    .next (if s.grp.members.contains a && s.meetingReady t then s.issueMeeting (t.crew, t.squad, t.shadow) (s.formedWith t) else s)
  | none => .next (if s.resident a then s.checkMeeting t else s)

end Sys2Proof.Machine
end

