-- ==== Sys2Proof/Machine/Control.lean ====
section
/-! DEFINITION. The meanings of opcode group 3 that one thread performs alone (R143-R150, R161-R167): branches, calls, EXIT, YIELD,
NAP, predicates, CRBAR, MARK, REGB, BKPT and TRAP. The collectives are in Collectives.lean. -/

namespace Sys2Proof.Machine

/-! ### Branches and calls (R143-R145) -/

/-- pc + 4 * offset. -/
def branchTo (pc : Dword) (off : Int) : Dword := pc + BitVec.ofInt 64 (4 * off)

/-- BRA (R143). -/
def execBra (x : Args) (off : BitVec 24) (s : State) : Out :=
  issue s (issOf (.bra x off)) (fun _ t _ s => .jump (branchTo t.pc off.toInt) s)

/-- MISALIGNED of a branch target (R144). [DEDUCED, log 21] -/
def targetCause (d : Dword) : Option Cause := if d.toNat % 4 ≠ 0 then some { code := 0x43, detail := d } else none

/-- BRX (R144). -/
def execBrx (x : Args) (s : State) : Out :=
  issue s (issOf (.brx x)) (fun _ _ v s =>
    let d := dw (v.a.headD 0) (v.a.getD 1 0)
    match targetCause d with
    | some c => .raise c s
    | none => .jump d s)

/-- BAD_REGISTER of a CALL, CALLX or RET in a launch with fewer than 2 registers (R145). [DESIGN CHOICE, log 20] -/
def stackCheck (_ : Actor) (t : Thread) : Option Cause := if t.nregs < 2 then some { code := 0x05, detail := 1 } else none

/-- The faults of v1 before a push or a pop of the call stack (R145): `room` says that the dword lies in the window. -/
def stackCause (sp : Word) (room : Bool) : Option Cause :=
  if sp.toNat % 8 ≠ 0 then some { code := 0x43, detail := sp.setWidth 64 }
  else if room then none
  else some { code := 0x24, detail := sp.setWidth 64 }

/-- CALL's effect once the target is known (R145): push pc + 8, then go. -/
def callBody (target : Dword) : Actor → Thread → State → Body := fun a t s =>
  let sp := s.reg a t 1
  match stackCause sp (decide (8 ≤ sp.toNat)) with
  | some c => .raise c s
  | none => match s.reach a t .store .pv (dword (sp.toNat - 8)) 8 with
    | (.go ea pa, s) =>
      .jump target ((s.gWrite (s.portOf a t.ctx .pv) ea pa 8 (t.pc + 8).toNat).writeReg a 1 (sp - 8))
    | (r, s) => missBody r s (accessWord .store 2 8) none

/-- CALL (R143, R145). -/
def execCall (x : Args) (off : BitVec 24) (s : State) : Out :=
  issueChk s (issOf (.call x off)) stackCheck (fun a t _ s => callBody (branchTo t.pc off.toInt) a t s)

/-- CALLX (R144, R145). [DESIGN CHOICE, log 64] -/
def execCallx (x : Args) (s : State) : Out :=
  issueChk s (issOf (.callx x)) stackCheck (fun a t v s =>
    let d := dw (v.a.headD 0) (v.a.getD 1 0)
    match targetCause d with
    | some c => .raise c s
    | none => callBody d a t s)

/-- RET's body (R145). -/
def retBody : Actor → Thread → Vals → State → Body := fun a t _ s =>
  let sp := s.reg a t 1
  match stackCause sp (decide (sp.toNat + 8 ≤ t.privSize)) with
  | some c => .raise c s
  | none => match s.reach a t .load .pv (dword sp.toNat) 8 with
    | (.go ea pa, s) =>
      let r := s.gRead (s.portOf a t.ctx .pv) ea pa 8
      if r.2.1 then .raise (dataCause ea .load .pv 8) r.2.2
      else match targetCause (dword r.1) with
        | some c => .raise c r.2.2
        | none => .jump (dword r.1) (r.2.2.writeReg a 1 (sp + 8))
    | (r, s) => missBody r s (accessWord .load 2 8) none

/-- RET (R145). -/
def execRet (x : Args) (s : State) : Out := issueChk s (issOf (.ret x)) stackCheck retBody

/-! ### EXIT, YIELD, NAP (R146-R148) -/

/-- EXIT (R44, R146). A partner or a reader of a ring that is left waiting waits on (R46). -/
def execExit (x : Args) (s : State) : Out := issue s (issOf (.exit x)) (fun a _ _ s => .gone (s.exitThread a))

/-- The thread yields to the threads of its core that are ready in this cycle (R34); a scalar core has no other thread. -/
def State.yieldNow (s : State) (a : Actor) : State :=
  if isVector a then
    let now := s.cycle (s.issuerOf a)
    s.updThread a (fun t => { t with yielded := some (now, s.grp.ready.filter (· != a)) })
  else s

/-- YIELD (R34, R147). -/
def execYield (x : Args) (s : State) : Out := issue s (issOf (.yield x)) (fun a _ _ s => .done [] (s.yieldNow a))

/-- The squad has a lane that has not exited. -/
def State.squadLive (s : State) (q : Squad) : Bool := s.liveMask (q.crew, q.num, q.shadow) != 0

/-- Another squad of the crew is a computer with a live lane (R277). -/
def State.otherComputer (s : State) (q : Squad) : Bool :=
  s.squads.any (fun r => r.crew == q.crew && !(r.num == q.num && r.shadow == q.shadow) && !r.role.getLsbD 0 && s.squadLive r)

/-- Role reassignment at YIELD.role (R277), at most once a group for a squad. A conversion that disarms the crew also starts its
arming count anew, which R276 says of occupancy only. [DESIGN CHOICE, log 53] -/
def State.reassign (s : State) (a : Actor) : State :=
  let k := squadKey a
  match s.squad? k, s.crew? (crewOf a) with
  | some q, some c =>
    let pk := s.crewPkt c
    let mark (s : State) : State := { s with grp := { s.grp with roled := k :: s.grp.roled } }
    if s.grp.roled.contains k then s
    else if !q.role.getLsbD 0 then
      if c.armed && s.otherComputer q then
        mark ((s.updSquad k (fun q => { q with role := q.role ||| 1 })).updCrew c.id (fun c => { c with armed := false, armCount := 0 }))
      else s
    else if q.role = 1 ∧ pk.rolehigh < s.occupancy c.id then mark (s.updSquad k (fun q => { q with role := q.role &&& 6 }))
    else s
  | _, _ => s

/-- YIELD.role (R147, R277). -/
def execYieldRole (x : Args) (s : State) : Out :=
  issue s (issOf (.yieldRole x)) (fun a _ _ s => .done [] ((if isVector a then s.reassign a else s).yieldNow a))

/-- NAP (R35, R148). -/
def execNap (x : Args) (s : State) : Out :=
  issue s (issOf (.nap x)) (fun a _ v s =>
    let n := (sWord x v (fun i => i.setWidth 32)).toNat % 65536
    if n = 0 then .done [] s else .wait (.nap (s.issuerOf a) (s.cycle (s.issuerOf a) + n)) s)

/-- NAP_EXPIRE: a napping thread's cycles have passed, while it was saved too (R33, R35). NAP is 8 bytes. -/
def execNapExpire (a : Actor) (s : State) : Out :=
  match s.thread? a with
  | some t => match t.wait with
    | .nap i till => .next (if s.resident a ∧ till ≤ s.cycle i then s.wakePast a 8 else s)
    | _ => .next s
  | none => .next s

/-- YIELD_EXPIRE: 64 core cycles after its YIELD a thread is no longer yielded (R34). -/
def execYieldExpire (t : TRef) (s : State) : Out :=
  match s.thread? (.thread t) with
  | some th => match th.yielded with
    | some (c, _) =>
      .next (if c + 64 ≤ s.cycle (s.issuerOf (.thread t)) then s.updThread (.thread t) (fun u => { u with yielded := none }) else s)
    | none => .next s
  | none => .next s

/-! ### Predicates (R149, R150) -/

/-- PSET (R149). -/
def execPset (x : Args) (op : PsetOp) (s : State) : Out :=
  issue s (issOf (.pset x op)) (pureBody (fun v =>
    let n : BitVec 8 := match x.c with
      | .imm i => i
      | _ => 0
    let a := (v.a.headD 0).getLsbD 0 != n.getLsbD 0
    let b := (v.b.headD 0).getLsbD 0 != n.getLsbD 1
    let r := match op with
      | .and => a && b
      | .or => a || b
      | .xor => a != b
    [word (b2n (r != n.getLsbD 2))]))

/-- PMOV (R150): to a register where D is one, else from A under the mask B. -/
def execPmov (x : Args) (s : State) : Out :=
  issue s (issOf (.pmov x)) (fun a t v s =>
    match x.d with
    | .none =>
      let m := v.b.headD 0
      if m.toNat / 2 ^ 24 ≠ 0 then .raise { code := 0x03 } s
      else
        let mm : BitVec 24 := m.setWidth 24
        let vv : BitVec 24 := (v.a.headD 0).setWidth 24
        .done [] (s.updThread a (fun u => { u with preds := (u.preds &&& ~~~mm) ||| (vv &&& mm) }))
    | _ => .done [t.preds.setWidth 32] s)

/-! ### CRBAR, MARK, REGB, BKPT, TRAP (R161-R167) -/

/-- The immediate in C. -/
def immC (x : Args) : Nat :=
  match x.c with
  | .imm i => i.toNat
  | _ => 0

/-- CRBAR (R161). -/
def execCrbar (x : Args) (s : State) : Out :=
  issue s (issOf (.crbar x)) (fun a _ _ s => .gone ((s.arriveWait a 1 (.crbar (immC x))).releaseBarrier (crewOf a)))

/-- MARK (R162): the last-block identifier, and a record at the end of the group (R477). -/
def execMark (x : Args) (id : BitVec 16) (s : State) : Out :=
  issue s (issOf (.mark x id)) (fun a t _ s =>
    let s := s.updThread a (fun t => { t with lastBlock := id })
    .done [] (if isVector a then
      { s with grp := { s.grp with marks := s.grp.marks ++ [(s.coreOf a, squadKey a, laneOf a, id, t.lastBlock)] } } else s))

/-- REGB (R163): it issues once every long-latency result is written. -/
def execRegb (x : Args) (s : State) : Out :=
  issue s (issOf (.regb x)) (fun a t _ s =>
    if (s.flightsOf a).any (·.long) then .stay .none
    else .done [] (s.updThread a (fun u => { u with region := some ⟨t.pc, t.dcount, t.rcount⟩, written := [] })))

/-- BKPT (R166). -/
def execBkpt (x : Args) (s : State) : Out :=
  issue s (issOf (.bkpt x)) (fun _ _ _ s => .raise { code := 0xA0, detail := dword (immC x), next := true } s)

/-- TRAP (R167). -/
def execTrap (x : Args) (s : State) : Out :=
  issue s (issOf (.trap x)) (fun _ _ _ s => .raise { code := 0x30 + immC x, next := true } s)

end Sys2Proof.Machine
end

