-- ==== Sys2Proof/Machine/Compact.lean ====
section
/-! DEFINITION. The compact forms (R99-R103, R140-R142, R186): a parcel alone and a pair of them. -/

namespace Sys2Proof.Machine

/-! ### One operation -/

/-- The result of a compact operation from its captured operands (R100); none for NOP.c, ST.c and BRA.c. LD.c's stands with the
scratchpad. -/
def compactWords (i : CInstr) (v : Vals) : List Word :=
  let a := v.a.headD 0
  let b := v.b.headD 0
  match i with
  | .mov _ _ => [a]
  | .iadd _ _ => [a + b]
  | .isub _ _ => [a - b]
  | .and _ _ => [a &&& b]
  | .or _ _ => [a ||| b]
  | .xor _ _ => [a ^^^ b]
  | .shl _ k => [a <<< k.toNat]
  | .shr _ k => [a >>> k.toNat]
  | .sar _ k => [a.sshiftRight k.toNat]
  | .iaddi _ k => [a + k.signExtend 32]
  | .movi _ l => [l.signExtend 32]
  | .fadd _ _ => fMap2 .f32 (fAdd fp32 .rne) [a] [b]
  | .fmul _ _ => fMap2 .f32 (fMul fp32 .rne) [a] [b]
  | .fmax _ _ => fMap2 .f32 (fMax fp32) [a] [b]
  | .fmin _ _ => fMap2 .f32 (fMin fp32) [a] [b]
  | .imul _ _ => [a * b]
  | .imin _ _ => [if a.toInt ≤ b.toInt then a else b]
  | .imax _ _ => [if a.toInt ≤ b.toInt then b else a]
  | .nop | .ld _ _ _ | .st _ _ _ | .bra _ => []

/-- The body of a compact instruction that stands alone (R140-R142, R186). -/
def compactBody (i : CInstr) : Actor → Thread → Vals → State → Body :=
  match i with
  | .ld _ _ k => loadBody .x 4 false (4 * k.toNat)
  | .st _ _ k => storeBody .x 4 (4 * k.toNat)
  | .bra off => fun _ t _ s => .jump (branchTo t.pc off.toInt) s
  | i => pureBody (compactWords i)

/-! ### Pairs (R102, R103) -/

/-- The register reads of an operation (R100): RD, then RS. -/
def compactReads : CInstr → List (BitVec 8)
  | .mov _ s => [s]
  | .iadd d s | .isub d s | .and d s | .or d s | .xor d s | .fadd d s | .fmul d s | .fmax d s | .fmin d s | .imul d s
  | .imin d s | .imax d s => [d, s]
  | .shl d _ | .shr d _ | .sar d _ | .iaddi d _ => [d]
  | .ld _ s _ => [s]
  | .st d s _ => [d, s]
  | .nop | .movi _ _ | .bra _ => []

/-- RD, where R100 gives the field a register meaning. -/
def compactRd : CInstr → Option (BitVec 8)
  | .mov d _ | .iadd d _ | .isub d _ | .and d _ | .or d _ | .xor d _ | .fadd d _ | .fmul d _ | .fmax d _ | .fmin d _
  | .imul d _ | .imin d _ | .imax d _ | .shl d _ | .shr d _ | .sar d _ | .iaddi d _ | .movi d _ | .ld d _ _ | .st d _ _ => some d
  | .nop | .bra _ => none

/-- LD.c or ST.c, and BRA.c. -/
def compactIsMem : CInstr → Bool
  | .ld _ _ _ | .st _ _ _ => true
  | _ => false
def compactIsBra : CInstr → Bool
  | .bra _ => true
  | _ => false

/-- Two of the codes lie in one bank (R102). -/
def bankClash : List (BitVec 8) → Bool
  | [] => false
  | c :: r => r.any (fun d => d.toNat % 4 == c.toNat % 4) || bankClash r

/-- Rules 1 and 3 to 5 of a pair (R102), and rule 2 through `plain`: the second is a compact instruction with PAIR = 0. The
parcel that is blamed. [DEDUCED, log 24] -/
def pairFault (pc : Dword) (a b : CInstr) (plain : Bool) : Option Nat :=
  let names := compactReads b ++ (compactRd b).toList
  if pc.toNat % 8 ≠ 0 then some 0
  else if !plain then some 1
  else if bankClash (compactReads a) then some 0
  else if bankClash (compactReads a ++ compactReads b) then some 1
  else if (match compactRd a with
    | some d => names.contains d
    | none => false) then some 1
  else if compactIsBra a then some 0
  else if compactIsMem a && (compactIsMem b || compactIsBra b) then some 1
  else none

/-- ILLEGAL_PAIR's cause. -/
def pairCause (n : Nat) : Cause := { code := 0x04, detail := dword n }

/-- LD.c and ST.c run on vector cores only (R117). -/
def compactEngine (a : Actor) (i : CInstr) : Option Cause := if compactIsMem i && !isVector a then some { code := 0x07 } else none

/-- BAD_REGISTER of a compact operation. -/
def compactRegs (a : Actor) (t : Thread) (i : CInstr) : Option Cause :=
  (badRegister a t 0 i.args).map (fun c => { code := 0x05, detail := dword c })

/-- The checks 1 to 5 of R118 on the second parcel; what is not compact is left to R102. [DEDUCED, log 24] -/
def secondParcel (a : Actor) (w : Word) : Except Cause (CInstr × Bool) :=
  let lc := w.toNat % 4
  if lc = 3 then .error { code := 0x01 }
  else if lc ≠ 0 then .ok (.nop, false)
  else
    let cop := w.toNat / 8 % 64
    if 21 < cop then .error { code := 0x02 }
    else if (cop = 19 ∨ cop = 20) ∧ !isVector a then .error { code := 0x07 }
    else match decodeCompact w with
      | .ok i => .ok (i, !w.getLsbD 2)
      | .error _ => .error { code := 0x03 }

/-- One half of a pair from its captured operands: its result, the state after its scratch store, and where it branches. -/
def halfRun (a : Actor) (t : Thread) (pc : Dword) (i : CInstr) (v : Vals) (s : State) :
    Except Cause (List Word × State × Option Dword) :=
  match i with
  | .ld _ _ k => match s.reach a t .load .x (memEa .x v.a (4 * k.toNat)) 4 with
    | (.scratch o, s) =>
      if s.scratchFails (crewOf a) o 4 then .error (dataCause (dword o) .load .x 4)
      else .ok ([word (s.scratchRead (crewOf a) o 4)], s, none)
    | (.bad c, _) => .error c
    | _ => .ok ([], s, none)
  | .st _ _ k => match s.reach a t .store .x (memEa .x v.a (4 * k.toNat)) 4 with
    | (.scratch o, s) => .ok ([], s.scratchWrite (crewOf a) o 4 (v.c.headD 0).toNat, none)
    | (.bad c, _) => .error c
    | _ => .ok ([], s, none)
  | .bra off => .ok ([], s, some (branchTo pc off.toInt))
  | i => .ok (compactWords i v, s, none)

/-- A pair that has passed its checks issues (R103): both halves read, then both write. -/
def State.performPair (s : State) (a : Actor) (t : Thread) (x y : CInstr) : State :=
  let px := issOf (x.toInstr false)
  let py := issOf (y.toInstr false)
  let vx := (s.capture a t px).1
  let vy := (s.capture a t py).1
  let (vx, vy) := match t.replay with
    | some (srcs, _) => (splitVals px (srcs.take vx.all.length), splitVals py (srcs.drop vx.all.length))
    | none => (vx, vy)
  let fail (c : Cause) : State :=
    s.raise a { pc := t.pc, len := 8, srcs := vx.all ++ vy.all, dests := [(compactDest x), (compactDest y)], captured := true,
                parcels := s.grp.parcels } c
  match halfRun a t t.pc x vx s with
  | .error c => fail c
  | .ok (wx, s1, _) => match halfRun a t (t.pc + 4) y vy s1 with
    | .error c => fail c
    | .ok (wy, s2, tgt) =>
      ((s2.writeDest a (compactDest x) wx).writeDest a (compactDest y) wy).issued a 2 (tgt.getD (t.pc + 8))

/-- The checks of a pair in their order (R118), then its issue; `plain` is rule 2 of R102. [DEDUCED, log 24] -/
def State.issuePair (s : State) (a : Actor) (t : Thread) (x y : CInstr) (plain : Bool) : State :=
  let bad (c : Cause) : State := s.raise a { pc := t.pc, len := 8, dests := [compactDest x, compactDest y] } c
  match compactEngine a x with
  | some c => bad c
  | none => match compactEngine a y with
    | some c => bad c
    | none => match pairFault t.pc x y plain with
      | some n => bad (pairCause n)
      | none => match (compactRegs a t x).orElse (fun _ => compactRegs a t y) with
        | some c => bad c
        | none =>
          let codes := (compactReads x ++ compactReads y).map (·.toNat) ++ (compactDest x).codes ++ (compactDest y).codes
          if s.windowsOpen a 2 && s.scoreboard a codes then s.performPair a t x y else s.stall a .none

/-- COMPACT_PAIR_ISSUE: the acting thread issues a pair (R103). -/
def execCompactPairIssue (x y : CInstr) (s : State) : Out :=
  match s.acting with
  | some (a, t) => .next (if s.canIssue a t then s.issuePair a t x y true else s)
  | none => .fault .noActor

/-- A parcel with PAIR = 1: the next parcel is fetched and the two issue as a pair (R102, R103). -/
def State.pairAt (s : State) (a : Actor) (t : Thread) (x : CInstr) : State :=
  if !s.canIssue a t then s.stall a .none
  else match compactEngine a x with
    | some c => s.raise a { pc := t.pc, len := 8, dests := [compactDest x] } c
    | none => match s.parcelOf t 1 with
      | (.error none, s) => s.parkFetch a t (t.pc + 4)
      | (.error (some c), s) =>
        s.raise a { pc := t.pc, len := 8, fetch := true } { code := c, detail := t.pc + 4, faddr := t.pc + 4, access := fetchAccess }
      | (.ok w, s) => match secondParcel a w with
        | .error c => s.raise a { pc := t.pc, len := 8, dests := [compactDest x] } c
        | .ok (y, plain) => State.issuePair { s with grp := { s.grp with parcels := s.grp.parcels.set 1 w } } a t x y plain

/-- A compact instruction, alone or as the first of a pair (R103). -/
def compact (i : CInstr) (p : Bool) (s : State) : Out :=
  if p then match s.acting with
    | some (a, t) => .next (s.pairAt a t i)
    | none => .fault .noActor
  else issue s (issOf (i.toInstr false)) (compactBody i)

/-! ### The 22 forms -/

/-- NOP.c (R140). -/
def execNopC (p : Bool) (m : State) : Out := compact .nop p m

/-- MOV.c (R140). -/
def execMovC (p : Bool) (d s : BitVec 8) (m : State) : Out := compact (.mov d s) p m

/-- IADD.c (R140). -/
def execIaddC (p : Bool) (d s : BitVec 8) (m : State) : Out := compact (.iadd d s) p m

/-- ISUB.c (R140). -/
def execIsubC (p : Bool) (d s : BitVec 8) (m : State) : Out := compact (.isub d s) p m

/-- AND.c (R140). -/
def execAndC (p : Bool) (d s : BitVec 8) (m : State) : Out := compact (.and d s) p m

/-- OR.c (R140). -/
def execOrC (p : Bool) (d s : BitVec 8) (m : State) : Out := compact (.or d s) p m

/-- XOR.c (R140). -/
def execXorC (p : Bool) (d s : BitVec 8) (m : State) : Out := compact (.xor d s) p m

/-- SHL.c (R140). -/
def execShlC (p : Bool) (d : BitVec 8) (i : BitVec 7) (m : State) : Out := compact (.shl d i) p m

/-- SHR.c (R140). -/
def execShrC (p : Bool) (d : BitVec 8) (i : BitVec 7) (m : State) : Out := compact (.shr d i) p m

/-- SAR.c (R140). -/
def execSarC (p : Bool) (d : BitVec 8) (i : BitVec 7) (m : State) : Out := compact (.sar d i) p m

/-- IADDI.c (R140). -/
def execIaddiC (p : Bool) (d : BitVec 8) (i : BitVec 7) (m : State) : Out := compact (.iaddi d i) p m

/-- MOVI.c (R140). -/
def execMoviC (p : Bool) (d : BitVec 8) (lit : BitVec 15) (m : State) : Out := compact (.movi d lit) p m

/-- FADD.c (R186). -/
def execFaddC (p : Bool) (d s : BitVec 8) (m : State) : Out := compact (.fadd d s) p m

/-- FMUL.c (R186). -/
def execFmulC (p : Bool) (d s : BitVec 8) (m : State) : Out := compact (.fmul d s) p m

/-- FMAX.c (R186). -/
def execFmaxC (p : Bool) (d s : BitVec 8) (m : State) : Out := compact (.fmax d s) p m

/-- FMIN.c (R186). -/
def execFminC (p : Bool) (d s : BitVec 8) (m : State) : Out := compact (.fmin d s) p m

/-- IMUL.c (R140). -/
def execImulC (p : Bool) (d s : BitVec 8) (m : State) : Out := compact (.imul d s) p m

/-- IMIN.c (R140). -/
def execIminC (p : Bool) (d s : BitVec 8) (m : State) : Out := compact (.imin d s) p m

/-- IMAX.c (R140). -/
def execImaxC (p : Bool) (d s : BitVec 8) (m : State) : Out := compact (.imax d s) p m

/-- LD.c (R141). -/
def execLdC (p : Bool) (d s : BitVec 8) (i : BitVec 7) (m : State) : Out := compact (.ld d s i) p m

/-- ST.c (R141). -/
def execStC (p : Bool) (d s : BitVec 8) (i : BitVec 7) (m : State) : Out := compact (.st d s i) p m

/-- BRA.c (R142). -/
def execBraC (p : Bool) (off : BitVec 23) (m : State) : Out := compact (.bra off) p m

end Sys2Proof.Machine
end

