-- ==== Sys2Proof/Machine/Convert.lean ====
section
/-! DEFINITION. The meanings of opcode group 2 (R187-R195): scalar conversion, narrowing and packing, widening and unpacking,
quantisation with zero points. -/

namespace Sys2Proof.Machine

/-! ### CVT (R187) -/

/-- The format of a floating kind. -/
def kindFmt (k : Nat) : Option Fmt :=
  match k with
  | 0 => some fp32
  | 1 => some fp16
  | 2 => some bf16
  | 3 => some fp64
  | _ => none

/-- The type of an integer kind. -/
def kindInt (k : Nat) : IntTy :=
  match k with
  | 4 => .s32
  | 5 => .u32
  | 6 => .s64
  | _ => .u64

/-- A kind takes an even pair. -/
def kindWide (k : Nat) : Bool := k == 3 || k == 6 || k == 7

/-- The exact value of a source pattern: a 16-bit kind reads [15:0]. -/
def kindValue (k n : Nat) : Exact :=
  match kindFmt k with
  | some f => f.decode (n % 2 ^ f.width)
  | none => .ofInt (intVal (kindInt k) n)

/-- One value of source kind `ks` in destination kind `kd` (R187): floating kinds round, integer kinds round and saturate. -/
def cvtN (m : Rnd) (kd ks n : Nat) : Nat :=
  match kindFmt kd with
  | some f => f.round m (kindValue ks n)
  | none =>
    let t := kindInt kd
    wrapTo (IntTy.w t) ((kindValue ks n).toInt m t.signed (IntTy.w t))

/-- CVT (R187). -/
def execCvt (x : Args) (m : Rnd) (s : State) : Out :=
  let c := srcN x.c []
  issue s (issOf (.cvt x m)) (pureBody (fun v => wordsOf (kindWide (c % 16)) (cvtN m (c % 16) (c / 16) (natOf v.a))))

/-! ### CVTN (R188-R191) -/

/-- The source values of a narrowing conversion (R188). -/
def runValues (t : FTy) (e : Nat) (ws : List Word) : List Exact := ((fElems t ws).take e).map (FTy.fmt t).decode

/-- Nibbles already taken by the thread's earlier `.sr` conversions that have not retired (R190, R324). -/
def State.srPending (s : State) (a : Actor) : Nat :=
  (s.flightsOf a).foldl (fun n f => match f.work with
    | .sr _ k _ _ => n + k
    | _ => n) 0

/-- The packed word of a conversion with nibbles from number `k` (R189). -/
def cvtnWord (f : Nat) (m : Rnd) (nib : Nat → Nat) (xs : List Exact) : Word :=
  packWord f (xs.zipIdx.map (fun p => encodeCode f m (nib p.2) p.1))

/-- CVTN (R188-R191). -/
def execCvtn (x : Args) (t : FTy) (m : Rnd) (s : State) : Out :=
  issue s (issOf (.cvtn x t m)) (fun a th v s =>
    let f := srcN x.c []
    let e := packElems f
    let pal := srcN x.b []
    let xs := runValues t e v.a
    if pal ≠ 0 ∧ palOk pal (s.palEntry th.ctx pal) = false then
      .raise { code := 0x45, detail := dword pal } s
    else
      let k := th.rcount.toNat + s.srPending a
      let w := cvtnWord f m (fun i => nibble (s.pktOf th) th.wid (k + i)) xs
      if m = .sr then .fly (.sr [w] e pal (amaxAll xs)) s
      else .done [w] (if pal = 0 then s else s.captureAmax th.ctx pal (amaxAll xs)))

/-! ### CVTW, QNT, DQNT (R192-R195) -/

/-- CVTW (R192). -/
def execCvtw (x : Args) (t : FTy) (s : State) : Out :=
  issue s (issOf (.cvtw x t)) (pureBody (fun v =>
    fPack t ((unpackWord (srcN x.c []) (v.a.headD 0)).map (fun c => (FTy.fmt t).round .rne (decodeCode (srcN x.c []) c)))))

/-- One code of QNT (R194): `sc` and `z` from the group word. -/
def qntCode (signed : Bool) (w : Nat) (m : Rnd) (sc : Exact) (z : Nat) (x : Exact) : Int :=
  match sc, x with
  | .fin ss n _, .inf xs => if n = 0 then satInt signed w z else satInt signed w (if ss != xs then -(2 ^ 32) else 2 ^ 32)
  | .fin _ n _, .fin _ _ _ =>
    if n = 0 then satInt signed w z else ((x.div sc).add m (.ofInt z)).toInt m signed w
  | _, _ => satInt signed w z

/-- The zero point and the scale of a group word (R193). -/
def groupZ (g : Word) : Nat := bits g.toNat 23 16
def groupS (g : Word) : Exact := fp16.decode (g.toNat % 2 ^ 16)

/-- QNT (R193, R194). -/
def execQnt (x : Args) (t : FTy) (m : Rnd) (s : State) : Out :=
  issue s (issOf (.qnt x t m)) (pureBody (fun v =>
    let f := srcN x.c []
    let g := v.b.headD 0
    let sw := (codeInt f).getD (false, 8)
    [packWord f ((runValues t (packElems f) v.a).map (fun e =>
      wrapTo sw.2 (qntCode sw.1 sw.2 m (groupS g) (groupZ g) e)))]))

/-- DQNT (R193, R195). [DEDUCED, log 18] -/
def execDqnt (x : Args) (t : FTy) (m : Rnd) (s : State) : Out :=
  issue s (issOf (.dqnt x t m)) (pureBody (fun v =>
    let f := srcN x.c []
    let g := v.b.headD 0
    let sw := (codeInt f).getD (false, 8)
    fPack t ((unpackWord f (v.a.headD 0)).map (fun c =>
      let q : Int := (if sw.1 then sint sw.2 c else (c : Int)) - groupZ g
      (FTy.fmt t).round m ((groupS g).mul (.ofInt q))))))

end Sys2Proof.Machine
end

