-- ==== Sys2Proof/Machine/Streamer.lean ====
section
/-! DEFINITION. The streamers (R263-R284): a job's elements, transfer units and footprints, the order of jobs, payloads,
completion actions, faults, slots, and the issue-deadlock detector; the steps JOB_START to CREW_SCRATCH_RELEASE. -/

namespace Sys2Proof.Machine

/-! ### Elements, units and footprints (R228, R264, R266, R269) -/

/-- One element of a job: its bit address in global memory, none where it lies outside the extents, and in scratch. -/
structure Elem where
  g : Option Int
  t : Int
  deriving DecidableEq, Repr, Inhabited

/-- The coordinates of a box, dimension 0 running fastest. -/
def boxCoords (e : List Nat) : List (List Nat) :=
  (List.range (e.getD 3 0)).flatMap (fun j3 => (List.range (e.getD 2 0)).flatMap (fun j2 =>
    (List.range (e.getD 1 0)).flatMap (fun j1 => (List.range (e.headD 0)).map (fun j0 => [j0, j1, j2, j3]))))

/-- An entry's extents. -/
def entExt (e : List Word) : List Nat := (List.range 4).map (fun d => (e.getD (2 + d) 0).toNat)

/-- The job writes global memory. -/
def JobKind.up : JobKind → Bool
  | .cpys | .cpyc => true
  | _ => false

/-- The job's box has a zero extent (R266, R282). -/
def Job.emptyBox (j : Job) : Bool := (entExt j.tile).any (· == 0)

/-- The elements a job moves (R228); a CPYG's come from the index words it has read (R269). -/
def Job.elems (j : Job) : List Elem :=
  let o (d : Nat) : Nat := (j.org.getD d 0).toNat
  let all := if j.kind = .cpyg then
      (List.range j.n).flatMap (fun k => (List.range ((entExt j.tile).headD 0)).filterMap (fun j0 =>
        (elemBit j.tile (fun d => [j0, k].getD d 0)).map (fun t =>
          { g := elemBit j.gent (fun d => [o 0 + j0, (j.idx.getD k 0).toNat].getD d 0), t := t })))
    else (boxCoords (entExt j.tile)).filterMap (fun c =>
      (elemBit j.tile (fun d => c.getD d 0)).map (fun t =>
        { g := elemBit j.gent (fun d => o d + c.getD d 0), t := t }))
  if j.kind.up then all.filter (fun e => e.g.isSome) else all

/-- The 256-byte block that holds an element at the global side; a filled element's at the scratch side (R264). -/
def Elem.block (e : Elem) : Nat :=
  match e.g with
  | some b => (b / 8 % 2 ^ 64).toNat / 256
  | none => 2 ^ 64 + (e.t / 8).toNat / 256

/-- The transfer units of elements from their blocks: `cap` elements fill a unit, and those of a block past them (a stride of 0, a row
gathered twice) make further units (R264). [DEDUCED, log 52] -/
def cutUnits (cap : Nat) : Cells Nat → List Nat → List Nat
  | _, [] => []
  | c, b :: r => (b + 2 ^ 65 * (cget 0 c b / cap)) :: cutUnits cap (cset 0 c b (cget 0 c b + 1)) r

/-- Elements of `w` bits that 256 bytes hold. -/
def unitCap (w : Nat) : Nat := 2048 / w

/-- The elements of a job, each with its transfer unit. -/
def Job.cut (j : Job) : List (Elem × Nat) :=
  j.elems.zip (cutUnits (unitCap (codeWidth (palFormat j.tile))) [] (j.elems.map Elem.block))

/-- The transfer units of a job, and the elements of one. -/
def Job.unitKeys (j : Job) : List Nat := (j.cut.map (·.2)).eraseDups
def Job.unitElems (j : Job) (k : Nat) : List Elem := (j.cut.filter (fun p => p.2 == k)).map (·.1)

/-- The bytes of an element of `w` bits at a bit address, as (scratch?, address, length). -/
def elemFoot (scratch : Bool) (w : Nat) (b : Int) : List (Bool × Nat × Nat) :=
  (elemPieces w b).map (fun p => (scratch, (p.1 % 2 ^ 64).toNat, p.2))

/-- The scratch box of a job. -/
def Job.boxFoot (j : Job) : List (Bool × Nat × Nat) :=
  let w := codeWidth (palFormat j.tile)
  ((boxCoords (entExt j.tile)).filterMap (fun c => elemBit j.tile (fun d => c.getD d 0))).flatMap (elemFoot true w)

/-- The clipped global box of a job, or CPYG's rows across the whole of dimension 1. -/
def Job.globalFoot (j : Job) : List (Bool × Nat × Nat) :=
  let o (d : Nat) : Nat := (j.org.getD d 0).toNat
  let w := codeWidth (palFormat j.gent)
  let bs := if j.kind = .cpyg then
      (List.range ((entExt j.tile).headD 0)).flatMap (fun j0 => (List.range ((entExt j.gent).getD 1 0)).filterMap (fun x =>
        elemBit j.gent (fun d => [o 0 + j0, x].getD d 0)))
    else (boxCoords (entExt j.tile)).filterMap (fun c => elemBit j.gent (fun d => o d + c.getD d 0))
  bs.flatMap (elemFoot false w)

/-- The version word of a CPYC. -/
def Job.versionFoot (j : Job) : List (Bool × Nat × Nat) := [(false, j.vaddr.toNat, 4)]

/-- Scratch bytes as a footprint. -/
def scratchFoot (l : List (Nat × Nat)) : List (Bool × Nat × Nat) := l.map (fun p => (true, p.1, p.2))

/-- The read footprint (R266). -/
def Job.reads (j : Job) : List (Bool × Nat × Nat) :=
  match j.kind with
  | .cpy => j.globalFoot
  | .cpyg => if j.emptyBox then [] else (true, j.idxOff, 4 * j.n) :: j.globalFoot
  | .cpys => j.boxFoot
  | .cpyc => j.boxFoot ++ j.versionFoot
  | .easel => scratchFoot j.footR

/-- The write footprint (R266). -/
def Job.writes (j : Job) : List (Bool × Nat × Nat) :=
  match j.kind with
  | .cpy | .cpyg => if j.emptyBox then [] else j.boxFoot
  | .cpys => j.globalFoot
  | .cpyc => j.globalFoot ++ j.versionFoot
  | .easel => scratchFoot j.footW

/-- Two footprints share a byte. -/
def footMeet (x y : List (Bool × Nat × Nat)) : Bool :=
  x.any (fun p => y.any (fun q => p.1 == q.1 && overlaps p.2.1 p.2.2 q.2.1 q.2.2))

/-- Job `i`, entered before `j`, orders it (R267). [DEDUCED, log 52] -/
def Job.orders (i j : Job) : Bool := footMeet i.writes j.reads || footMeet i.writes j.writes || footMeet i.reads j.writes

/-- The jobs of the same crew that entered before `j` (R263). -/
def State.earlierJobs (s : State) (j : Job) : List Job := (s.jobs.takeWhile (fun i => i.id != j.id)).filter (fun i => i.crew == j.crew)

/-- No earlier unfinished job of the crew overlaps it (R267). -/
def State.jobClear (s : State) (j : Job) : Bool := (s.earlierJobs j).all (fun i => i.finished || !(i.orders j))

/-! ### Moving elements (R264, R265) -/

/-- Check and translate global pieces for a copy, at the die that owns each (R199). -/
def State.jobReach (s : State) (ctx : Nat) (k : Acc) : List (Int × Nat) → Except Reach (List (Dword × Nat)) × State
  | [] => (.ok [], s)
  | (b, n) :: r =>
    let ea : Dword := BitVec.ofInt 64 b
    if ea.toNat % n ≠ 0 then (.error (.bad (memCause 0x43 ea k .g n)), s)
    else match s.translate ctx k ea with
      | (.bad c, s) => (.error (.bad (memCause c ea k .g n)), s)
      | (.absent, s) => (.error (.absent ea), s)
      | (.ok pa, s) => match s.jobReach ctx k r with
        | (.ok l, s) => (.ok ((ea, pa) :: l), s)
        | e => e

/-- The path of a job's global accesses: at the home (R265), over the versions of the frontier task that issued it, while that task is
uncommitted (R268). [DEDUCED, log 52] -/
def State.jobPort (s : State) (j : Job) : Port :=
  { ctx := j.ctx, core := j.core, l1 := false,
    task := match j.task with
      | some (l, k) => if s.tasks.any (fun t => t.launch == l && t.key == k) then some (l, k) else none
      | none => none }

/-- Pieces of scratch with their sizes, as readPieces and writeElem take them. -/
def scratchPieces (w : Nat) (b : Int) : List ((Dword × Nat) × Nat) :=
  (elemPieces w b).map (fun p => ((BitVec.ofInt 64 p.1, 0), p.2))

/-- A scratch element that is not aligned (R281). [DEDUCED, log 52] -/
def scratchBad (w : Nat) (b : Int) (k : Acc) : Option Reach :=
  ((elemPieces w b).find? (fun p => p.1 % (p.2 : Int) != 0)).map (fun p => .bad (memCause 0x43 (BitVec.ofInt 64 (p.1 % 2 ^ 32)) k .x p.2))

/-- What stops the reading of a scratch element: it is not aligned, or its check fails (R281, R452). -/
def State.scratchStop (s : State) (crew w : Nat) (b : Int) (k : Acc) : Option Reach :=
  match scratchBad w b k with
  | some r => some r
  | none =>
    ((scratchPieces w b).find? (fun p => s.scratchFails crew p.1.1.toNat p.2)).map (fun p => .bad (dataCause p.1.1 k .x p.2))

/-- Move one element; what stops it, if anything. -/
def State.moveElem (s : State) (j : Job) (e : Elem) : Option Reach × State :=
  let w := codeWidth (palFormat j.tile)
  let tsh := (e.t % 8).toNat
  let sp := scratchPieces w e.t
  if j.kind.up then match s.scratchStop j.crew w e.t .copyRead, e.g with
    | some r, _ => (some r, s)
    | none, none => (none, s)
    | none, some b =>
      let ps := elemPieces w b
      match s.jobReach j.ctx .copyWrite ps with
      | (.error r, s) => (some r, s)
      | (.ok l, s) =>
        let v := (s.readPieces j.crew (s.jobPort j) true sp).1 / 2 ^ tsh % 2 ^ w
        (none, s.writeElem j.crew (s.jobPort j) false w (b % 8).toNat v (l.zip (ps.map (·.2))))
  else match scratchBad w e.t .copyWrite, e.g with
    | some r, _ => (some r, s)
    | none, none => (none, s.writeElem j.crew (s.jobPort j) true w tsh 0 sp)
    | none, some b =>
      let ps := elemPieces w b
      match s.jobReach j.ctx .copyRead ps with
      | (.error r, s) => (some r, s)
      | (.ok l, s) =>
        let r := s.readPieces j.crew (s.jobPort j) false (l.zip (ps.map (·.2)))
        if r.2.1 then (some (.bad (dataCause (BitVec.ofInt 64 (b / 8)) .copyRead .g (ps.headD (0, 1)).2)), r.2.2)
        else (none, r.2.2.writeElem j.crew (s.jobPort j) true w tsh (r.1 / 2 ^ (b % 8).toNat % 2 ^ w) sp)

/-- Move elements in order until one stops. -/
def State.moveElems (s : State) (j : Job) : List Elem → Option Reach × State
  | [] => (none, s)
  | e :: r => match s.moveElem j e with
    | (none, s) => s.moveElems j r
    | x => x

/-- Charge the scratch side of a transfer unit to BANKCONF (R298). -/
def State.chargeUnit (s : State) (crew : Nat) (w : Nat) (es : List Elem) : State :=
  s.addBankconf crew (bankExcess ((es.flatMap (fun e => (elemPieces w e.t).map (fun p => (p.1 / 8).toNat))).eraseDups))

/-! ### Faults of jobs (R280, R281) -/

/-- The live threads of a crew. -/
def State.liveRefs (s : State) (crew : Nat) : List TRef :=
  s.threads.filterMap (fun p => match p.1 with
    | .thread t => if t.crew = crew ∧ p.2.exited = false then some t else none
    | _ => none)

/-- A compute squad ranks before the shadow squad of its number (R281, R284). -/
def squadRank (k : Nat × Bool) : Nat := 2 * k.1 + b2n k.2

/-- The least of a list by a measure. -/
def leastBy {α : Type} (f : α → Nat) : List α → Option α
  | [] => none
  | x :: r => match leastBy f r with
    | none => some x
    | some y => if f y < f x then some y else some x

/-- The thread that takes a COPY_FAULT whose issuer has exited (R281). -/
def State.faultTaker (s : State) (o : TRef) : Option TRef :=
  let l := s.liveRefs o.crew
  leastBy (fun t : TRef => (if t.squad = o.squad ∧ t.shadow = o.shadow then 0 else 64 * (1 + squadRank (t.squad, t.shadow))) + t.lane) l

/-- The COPY_FAULTs of a crew's exited threads enter the handler in the thread that takes them; one whose taker still waits to enter with
another cause is kept until then (R281). [DEDUCED, log 52] -/
def State.passFaults (s : State) (crew : Nat) : State :=
  s.threads.foldl (fun (u : State) p => match p.1, p.2.copyFaults with
    | .thread o, f :: r =>
      if o.crew = crew ∧ p.2.exited then match (u.faultTaker o).map (fun t => (t, u.thread? (.thread t))) with
        | some (t, some th) =>
          if th.pending.isSome then u
          else (u.updThread p.1 (fun x => { x with copyFaults := r })).raise (.thread t) (u.siteAt th) f
        | _ => u
      else u
    | _, _ => u) s

/-- COPY_FAULT for the issuing thread; where that has exited, for another thread of its crew, or a record of kind ORPHAN_COPY_FAULT
(R281). [DEDUCED, log 52] -/
def State.copyFault (s : State) (j : Job) (o : TRef) (c : Cause) : State :=
  let f : Cause := { code := 0x61, detail := dword (c.code % 256), faddr := c.faddr, access := c.access, ewid := some j.ownerWid }
  match s.thread? (.thread o) with
  | some _ => (s.updThread (.thread o) (fun t => { t with copyFaults := t.copyFaults ++ [f] })).passFaults o.crew
  | none => s.recordCopy j.ctx f

/-- A job ends by an unrecoverable fault (R281). An Easel job's cause goes to its engine (R310), not here. -/
def State.failJob (s : State) (j : Job) (c : Cause) : State :=
  let s := (s.updJob j.id (fun x => { x with dead := true, park := none })).freeSlots
  match j.owner with
  | some o => s.copyFault j o c
  | none => s

/-- What stops a job: a fault ends it; an absent page parks it (R280). -/
def State.stopJob (s : State) (j : Job) (k : Acc) (r : Reach) : State :=
  match r with
  | .bad c => s.failJob j c
  | .absent ea =>
    let (i, s) := s.parkAt (.job j.id) j.ctx ea j.ownerWid (accessWord k 0 (max 1 (codeWidth (palFormat j.gent) / 8))) 1
    s.updJob j.id (fun x => { x with park := some i })
  | _ => s

/-- The job has started: it has moved bytes, or has met what stops it (R282). -/
def Job.begun (j : Job) : Bool := j.st != .queued || j.dead || j.park.isSome

/-- A job of the crew has moved bytes or acted: the deadlock count restarts (R284). -/
def State.jobMoved (s : State) (crew : Nat) : State := s.updCrew crew (fun c => { c with deadlock := 0 })

/-! ### Conditional copies (R230, R272) -/

/-- Whether a CPYC meets a fault or an absent page before it writes anything. -/
def State.probeElems (s : State) (j : Job) : List Elem → Option Reach × State
  | [] => (none, s)
  | e :: r =>
    let w := codeWidth (palFormat j.tile)
    match s.scratchStop j.crew w e.t .copyRead, e.g with
    | some x, _ => (some x, s)
    | none, none => s.probeElems j r
    | none, some b => match s.jobReach j.ctx .copyWrite (elemPieces w b) with
      | (.error x, s) => (some x, s)
      | (.ok _, s) => s.probeElems j r

/-- A CPYC at the streamer head (R230): compare, payload and version update as one action; a refusal writes nothing. Nothing is
written before every page of the payload is there. [DEDUCED, log 52] -/
def State.runCpyc (s : State) (j : Job) : State :=
  let started (s : State) (refused : Bool) : State :=
    (s.updJob j.id (fun x => { x with st := .started, refused := refused, units := x.unitKeys })).jobMoved j.crew
  if rootRefuses j.vaddr 4 true then s.failJob j (memCause 0x41 j.vaddr .atomic .g 4)
  else match s.jobReach j.ctx .atomic [(j.vaddr.toNat, 4)] with
  | (.error r, s) => s.stopJob j .atomic r
  | (.ok l, s) =>
    let pa := (l.headD (0, 0)).2
    match s.gRead (s.jobPort j) j.vaddr pa 4 with
    | (_, true, s) => s.failJob j (dataCause j.vaddr .atomic .g 4)
    | (v, false, s) =>
      if v ≠ j.vexpect.toNat then started s true
      else match s.probeElems j j.elems with
        | (some r, s) => s.stopJob j .copyWrite r
        | (none, s) => match s.moveElems j j.elems with
          | (some r, s) => s.stopJob j .copyWrite r
          | (none, s) =>
            let s := j.unitKeys.foldl (fun (u : State) k => u.chargeUnit j.crew (codeWidth (palFormat j.tile)) (j.unitElems k)) s
            started (s.gWrite (s.jobPort j) j.vaddr pa 4 j.vnew.toNat) false

/-! ### The steps of a streamer -/

/-- JOB_START: every overlapping earlier job has finished (R267); a CPYG reads its index words (R269); a CPYC runs (R230). -/
def execJobStart (n : Nat) (s : State) : Out :=
  match s.job? n with
  | none => .next s
  | some j =>
    if j.st ≠ .queued ∨ j.dead ∨ j.park.isSome ∨ j.owner.isNone ∨ j.emptyBox ∨ !s.jobClear j then .next s
    else if j.kind = .cpyc then .next (s.runCpyc j)
    else
      if j.kind = .cpyg ∧ s.scratchFails j.crew j.idxOff (4 * j.n) then
        .next (s.failJob j (dataCause (dword j.idxOff) .copyRead .x 4)) else
      let idx := if j.kind = .cpyg then (List.range j.n).map (fun k => word (s.scratchRead j.crew (j.idxOff + 4 * k) 4)) else []
      .next (s.updJob n (fun x => { x with st := .started, idx := idx }))

/-- JOB_TRANSFER_UNIT: one transfer unit of a started job, its elements written before any
completion action and in no thread's program order (R254, R256, R264, R280, R281). -/
def execJobTransferUnit (n unit : Nat) (s : State) : Out :=
  match s.job? n with
  | none => .next s
  | some j =>
    if j.st ≠ .started ∨ j.dead ∨ j.park.isSome ∨ j.units.contains unit ∨ !(j.unitKeys.contains unit) then .next s
    else
      let es := j.unitElems unit
      match s.moveElems j es with
      | (some r, s) => .next (s.stopJob j (if j.kind.up then .copyWrite else .copyRead) r)
      | (none, s) =>
        .next (((s.chargeUnit j.crew (codeWidth (palFormat j.tile)) es).updJob n
          (fun x => { x with units := unit :: x.units })).jobMoved j.crew)

/-- A job that wrote global memory announces it: the clean copies of it that its core keeps may be older (R246, R265).
[DESIGN CHOICE, log 9] -/
def State.markBehind (s : State) (j : Job) : State :=
  let w := if j.kind.up && !j.refused then j.writes.filter (fun p => !p.1) else []
  { s with l1 := s.l1.map (fun l =>
      if l.core = j.core ∧ l.ctx = j.ctx ∧ l.clean.isSome ∧ w.any (fun p => overlaps (8 * l.gran) 8 p.2.1 p.2.2) then
        { l with behind := true } else l) }

/-- The completion action carries what its issuer wrote before the copy, and what others had released by then: they are performed
(R244, R270). [DESIGN CHOICE, log 9] -/
def State.actionReady (s : State) (j : Job) : Bool :=
  j.noact || (match j.owner with
    | some o => (s.pendingBefore (.thread o) j.id).isEmpty
    | none => true)

/-- The completion action (R270, R230): a release at CREW scope, which the scratchpad's order gives. An ADD to a word whose check fails
ends the job instead (R281, R452). -/
def State.completeJob (s : State) (j : Job) : State :=
  if j.noact = false ∧ j.add ∧ s.scratchFails j.crew j.cword 4 then s.failJob j (dataCause (dword j.cword) .copyWrite .x 4) else
  let v : Word := j.cvalue ||| (if j.refused then 0x80000000 else 0)
  let s := if j.noact then s else s.markBehind j
  let s := if j.noact then s
    else if j.add then s.scratchWrite j.crew j.cword 4 (word (s.scratchRead j.crew j.cword 4) + v).toNat
    else s.scratchWrite j.crew j.cword 4 v.toNat
  let s := (s.updJob j.id (fun x => { x with st := .acted })).freeSlots
  if j.noact then s else s.jobMoved j.crew

/-- COMPLETION_ACTION: every unit of the job has moved (R270), and what the action carries is performed (R244). -/
def execCompletionAction (n : Nat) (s : State) : Out :=
  match s.job? n with
  | none => .next s
  | some j =>
    if s.actionReady j ∧ j.st = .started ∧ j.dead = false ∧ j.park = none ∧ j.unitKeys.all (fun u => j.units.contains u) then .next (s.completeJob j)
    else .next s

/-- EMPTY_JOB_FINISH: a job with an empty box finishes once every earlier job of its crew has started and every earlier one that it
overlaps has finished (R282); a CPYC still compares and renews its version word, which its footprint keeps (R230, R266).
[DEDUCED, log 52] -/
def execEmptyJobFinish (n : Nat) (s : State) : Out :=
  match s.job? n with
  | none => .next s
  | some j =>
    if j.begun ∨ j.owner.isNone ∨ !j.emptyBox ∨ !(s.earlierJobs j).all Job.begun ∨ !s.jobClear j ∨ !s.actionReady j then .next s
    else if j.kind = .cpyc then
      let s := s.runCpyc j
      .next (match s.job? n with
        | some i => if i.st = .started then s.completeJob i else s
        | none => s)
    else .next (s.completeJob j)

/-- CREW_SCRATCH_RELEASE: once the jobs that use a retired crew's scratchpad have finished, the allocation is zeroed and released
(R45, R283). -/
def execCrewScratchRelease (n : Nat) (s : State) : Out :=
  match s.crew? n with
  | some c => match c.at' with
    | .draining _ =>
      .next (if s.jobs.any (fun j => j.crew == n) then s else { s with crews := s.crews.filter (fun c => c.id != n) })
    | _ => .next s
  | none => .next s

/-! ### Slots and the issue-deadlock detector (R273, R284) -/

/-- The squad has a reserved slot free: it is a loader with fewer than 4 held (R273, R274). -/
def State.reservedFree (s : State) (k : Nat × Nat × Bool) : Bool :=
  (match s.squad? k with
    | some q => q.role.getLsbD 0
    | none => false) &&
  decide ((s.jobs.filter (fun j => j.reserved && (match j.owner with
    | some o => (o.crew, o.squad, o.shadow) == k
    | none => false))).length < 4)

/-- The jobs that hold pool slots of a core. -/
def State.poolJobs (s : State) (core : Nat) : List Job := s.jobs.filter (fun j => j.core == core && j.owner.isSome && !j.reserved)

/-- The squad finds a slot (R273). -/
def State.slotFree (s : State) (core : Nat) (k : Nat × Nat × Bool) : Bool :=
  s.reservedFree k || decide ((s.poolJobs core).length < 32)

/-- The deadlock count of a crew on a core for one core cycle (R284): `stalled` says which threads stand at a copy without a slot; where the
lanes of a squad differ every live lane of it must be held in one of the rule's ways. At 65,536 the cause is raised next.
[DEDUCED, log 52] -/
def State.deadlockTick (s : State) (c : Crew) (core : Nat) (stalled : Actor → Bool) : State :=
  let live := s.threads.filter (liveIn c.id)
  let waits (p : Actor × Thread) : Bool := match p.2.wait with
    | .addr w => w.scratch
    | .batch _ => true
    | _ => false
  if s.jobs.any (fun j => j.crew == c.id && j.park.isSome) then s
  else if !live.isEmpty && live.all (fun p => waits p || stalled p.1) && live.any (fun p => stalled p.1) &&
      (s.poolJobs core).all (fun j => j.crew == c.id) then
    let s := s.updCrew c.id (fun c => { c with deadlock := c.deadlock + 1 })
    if c.deadlock + 1 < 65536 then s else { s with agenda := s.agenda ++ [.copyIssueDeadlock c.id] }
  else s.updCrew c.id (fun c => { c with deadlock := 0 })

/-- The thread that takes COPY_ISSUE_DEADLOCK (R284). A producer squad whose lanes have all exited counts as none. [DEDUCED, log 52] -/
def State.deadlockTaker (s : State) (crew : Nat) : Option TRef :=
  let has (i : Nat) (t : TRef) : Bool := match s.squad? (t.crew, t.squad, t.shadow) with
    | some q => q.role.getLsbD i
    | none => false
  let l := s.liveRefs crew
  let rank (t : TRef) : Nat := 64 * squadRank (t.squad, t.shadow) + t.lane
  (leastBy rank (l.filter (has 2))).orElse (fun _ => leastBy rank (l.filter (has 0)))

/-- COPY_ISSUE_DEADLOCK: the pattern of R284 has held for 65,536 core cycles. -/
def execCopyIssueDeadlock (n : Nat) (s : State) : Out :=
  match s.crew? n with
  | some c =>
    if c.deadlock < 65536 then .next s
    else
      let s := s.updCrew n (fun c => { c with deadlock := 0 })
      match s.deadlockTaker n with
      | some r => match s.thread? (.thread r) with
        | some t => .next (s.raise (.thread r) (s.siteAt t) { code := 0x62 })
        | none => .next s
      | none => .next s
  | none => .next s

end Sys2Proof.Machine
end

