-- ==== Sys2Proof/Machine/Copies.lean ====
section
/-! DEFINITION. The instructions of opcode group 5 (R226-R236): copies, batches, channel table entries and matrix requests, and
the step ROLE_ARM. -/

namespace Sys2Proof.Machine

/-! ### Copies (R226-R230) -/

/-- The job an instruction asks for, from its captured sources and Palette entries (R227, R296). -/
def State.jobOf (s : State) (k : JobKind) (a : Actor) (t : Thread) (id : Nat) (v : Vals) : Job :=
  let b (i : Nat) : Word := v.b.getD i 0
  { id := 0, core := s.coreOf a, crew := crewOf a, ctx := t.ctx, kind := k,
    owner := match a with
      | .thread r => some r
      | _ => none
    ownerWid := t.wid, gent := s.palEntry t.ctx id, tile := s.palEntry t.ctx ((b 0).toNat % 256),
    org := if k = .cpyg then [v.a.getD 2 0] else v.a,
    idxOff := (v.a.headD 0).toNat, n := if k = .cpyg then (v.a.getD 1 0).toNat else 0,
    cword := (b 1).toNat, cvalue := b 2, add := (b 3).getLsbD 0, noact := (b 3).getLsbD 1,
    vaddr := if k = .cpyc then dw (b 4) (b 5) else 0, vexpect := b 6, vnew := b 7
    task := (s.taskOf a).map (fun u => (u.launch, u.key)) }

/-- A cause whose DETAIL and FADDR hold a scratch offset. -/
def scratchCause (code : Nat) (off : Int) : Cause :=
  { code := code, detail := BitVec.ofInt 64 (off % 2 ^ 32), faddr := BitVec.ofInt 64 (off % 2 ^ 32) }

/-- The first piece of the tile box outside the footprint. -/
def Job.tileOut (j : Job) (foot : Nat) : Option Int :=
  let w := codeWidth (palFormat j.tile)
  ((boxCoords (entExt j.tile)).filterMap (fun c => elemBit j.tile (fun d => c.getD d 0))).findSome? (fun b =>
    ((elemPieces w b).find? (fun p => decide (p.1 < 0 ∨ (foot : Int) < p.1 + p.2))).map (·.1))

/-- The checks of R229 in their order; `id` names C. [DEDUCED, log 52] -/
def copyChecks (id tid : Nat) (w0 w3 : Word) (j : Job) (loader : Bool) (foot : Nat) : Option Cause :=
  let bad (i : Nat) : Option Cause := some { code := 0x45, detail := dword i }
  let act := !j.noact
  if !loader then some { code := 0x60 }
  else if w0.toNat / 256 ≠ 0 ∨ w3.toNat / 4 ≠ 0 ∨ (j.kind = .cpyc ∧ (j.add ∨ j.cvalue.msb)) then some { code := 0x03 }
  else if !palOk id j.gent || isScratchEnt j.gent then bad id
  else if !palOk tid j.tile || !isScratchEnt j.tile || palFormat j.gent != palFormat j.tile then bad tid
  else if j.kind = .cpyg ∧ j.idxOff % 4 ≠ 0 then some (scratchCause 0x43 j.idxOff)
  else if j.kind = .cpyc ∧ j.vaddr.toNat % 4 ≠ 0 then some { code := 0x43, detail := j.vaddr, faddr := j.vaddr }
  else if act ∧ j.cword % 4 ≠ 0 then some (scratchCause 0x43 j.cword)
  else match j.tileOut foot with
    | some o => some (scratchCause 0x46 o)
    | none =>
      if j.kind = .cpyg ∧ j.n ≠ 0 ∧ foot < j.idxOff + 4 * j.n then some (scratchCause 0x46 j.idxOff)
      else if act ∧ foot < j.cword + 4 then some (scratchCause 0x46 j.cword)
      else if j.kind = .cpyg ∧ (entExt j.tile).getD 1 0 < j.n then some (scratchCause 0x46 j.idxOff)
      else none

/-- The squad of an actor is a loader (R43). -/
def State.isLoader (s : State) (a : Actor) : Bool :=
  match s.squad? (squadKey a) with
  | some q => q.role.getLsbD 0
  | none => false

/-- Enter a job: it takes a slot, and the core's dirty bytes in its global read footprint go home first (R265, R273). -/
def State.enterJob (s : State) (a : Actor) (j : Job) : State :=
  let (i, s) := s.fresh
  let j := { j with id := i, reserved := s.reservedFree (squadKey a) }
  let foot := j.reads
  let s := s.wbWhere (fun l => l.core == j.core && l.ctx == j.ctx &&
    foot.any (fun p => !p.1 && overlaps (8 * l.gran) 8 p.2.1 p.2.2))
  { (s.updThread a (fun t => { t with unsealed := t.unsealed ++ [i] })) with jobs := s.jobs ++ [j] }

/-- The thread has issued a write to bytes of the job's global footprint that is still to be performed: the job comes after it (R200,
R268). [DEDUCED, log 52] -/
def State.copyBehind (s : State) (a : Actor) (j : Job) : Bool :=
  (s.flightsOf a).any (fun f => f.work.fenced && (j.reads ++ j.writes).any (fun p => !p.1 && f.work.overlapsAt p.2.1 p.2.2))

/-- The body of a copy (R226-R230, R268, R273). -/
def copyBody (k : JobKind) (id : Nat) : Actor → Thread → Vals → State → Body := fun a t v s =>
  let j := s.jobOf k a t id v
  match copyChecks id ((v.b.headD 0).toNat % 256) (v.b.headD 0) (v.b.getD 3 0) j (s.isLoader a) (s.footprint (crewOf a)) with
  | some c => .raise c s
  | none => if s.slotFree j.core (squadKey a) && !s.copyBehind a j then .done [] (s.enterJob a j) else .stay .none

/-- The immediate a copy names its global tensor by. -/
def copyId (x : Args) : Nat :=
  match x.c with
  | .imm i => i.toNat
  | _ => 0

/-- CPY (R226-R229). -/
def execCpy (x : Args) (s : State) : Out := issue s (issOf (.cpy x)) (copyBody .cpy (copyId x))

/-- CPYG (R226-R229, R269). -/
def execCpyg (x : Args) (s : State) : Out := issue s (issOf (.cpyg x)) (copyBody .cpyg (copyId x))

/-- CPYS (R226-R229). -/
def execCpys (x : Args) (s : State) : Out := issue s (issOf (.cpys x)) (copyBody .cpys (copyId x))

/-- CPYC (R226-R230). -/
def execCpyc (x : Args) (s : State) : Out := issue s (issOf (.cpyc x)) (copyBody .cpyc (copyId x))

/-- The kind of a copy and the identifier it names its global tensor by. -/
def copyKind? : Instr → Option (JobKind × Nat)
  | .cpy x => some (.cpy, copyId x)
  | .cpyg x => some (.cpyg, copyId x)
  | .cpys x => some (.cpys, copyId x)
  | .cpyc x => some (.cpyc, copyId x)
  | _ => none

/-- The words that an instruction would issue with now: those captured before, or its operands'. -/
def State.valsOf (s : State) (a : Actor) (t : Thread) (p : Iss) : Vals :=
  match t.replay with
  | some (srcs, _) => splitVals p srcs
  | none => (s.capture a t p).1

/-- The job of a copy that passes the checks at decode and those of R229; none where it fails one or the instruction is no copy. -/
def State.copyPasses (s : State) (a : Actor) (t : Thread) (i : Instr) (p : Iss) : Option Job :=
  match copyKind? i with
  | none => none
  | some (k, id) =>
    let v := s.valsOf a t p
    let j := s.jobOf k a t id v
    if (decodeCheck a t p none).isNone &&
      (copyChecks id ((v.b.headD 0).toNat % 256) (v.b.headD 0) (v.b.getD 3 0) j (s.isLoader a) (s.footprint (crewOf a))).isNone
    then some j else none

/-- A copy that passes its checks stands without a slot (R273): the scoreboard and its windows would let it issue. [DEDUCED, log 52] -/
def State.copyStalled (s : State) (a : Actor) : Bool :=
  match s.thread? a with
  | none => false
  | some t => match s.nextIss t with
    | some (i, p) =>
      guardOn t p.x.guard && s.ready a t p && (s.copyPasses a t i p).isSome && !s.slotFree (s.coreOf a) (squadKey a)
    | none => false

/-! ### Batches (R231, R232) -/

/-- A batch is finished: none of its jobs is left (R231). -/
def State.batchDone (s : State) (b : List Nat) : Bool := b.all (fun i => !(s.jobs.any (fun j => j.id == i && !j.finished)))

/-- The thread's unfinished batches. -/
def State.openBatches (s : State) (t : Thread) : List (List Nat) := t.batches.filter (fun b => !s.batchDone b)

/-- Raise the oldest pending COPY_FAULT (R281), else go on. -/
def faultFirst (go : Actor → Thread → State → Body) : Actor → Thread → Vals → State → Body := fun a t _ s =>
  match t.copyFaults with
  | f :: r => .raise f (s.updThread a (fun u => { u with copyFaults := r }))
  | [] => go a t s

/-- CSEAL (R231). -/
def execCseal (x : Args) (s : State) : Out :=
  issue s (issOf (.cseal x)) (faultFirst (fun a t s =>
    let b := s.openBatches t
    if 8 ≤ b.length then .stay (.batch none)
    else .done [] ((s.sealJobs t.unsealed).updThread a (fun u =>
      { u with unsealed := [], batches := if t.unsealed.isEmpty then b else b ++ [t.unsealed] }))))

/-- CWAIT (R232). -/
def execCwait (x : Args) (s : State) : Out :=
  let n := copyId x
  issue s (issOf (.cwait x)) (faultFirst (fun a t s =>
    let b := s.openBatches t
    if n < b.length then .stay (.batch (some n)) else .done [] (s.updThread a (fun u => { u with batches := b }))))

/-! ### CHSET and CHSTAT (R233-R235) -/

/-- The entry a descriptor installs, or the cause it raises (R233). -/
def chanDesc (nregs kind : Nat) (d : Word) : Except Cause ChanKind :=
  let base := d.toNat % 256
  let depth := bits d.toNat 14 8
  match kind with
  | 1 =>
    if d.toNat / 2 ^ 15 ≠ 0 ∨ depth = 0 ∨ 64 < depth then .error { code := 0x03 }
    else if nregs < base + depth then .error { code := 0x05, detail := dword base }
    else .ok (.loc base depth)
  | 2 =>
    if d.toNat / 2 ^ 16 ≠ 0 then .error { code := 0x03 }
    else if d.toNat / 2 ^ 15 ≠ 0 then .error { code := 0x85, detail := dword d.toNat }
    else .ok (.basin d.toNat)
  | 3 => .ok .easel
  | _ => .ok .unset

/-- A push through the entry that CHSET replaces has reserved a place, a command or a request and not yet filled it (R233, R234). -/
def State.chanUnfilled (s : State) (a : Actor) (c : Nat) : Bool :=
  let same (b : Actor) : Bool := s.chanOwner b c == s.chanOwner a c
  match (s.chan a c).kind with
  | .basin q => s.qcmds.any (fun k => k.q == q && !k.filled && (match k.sender with
    | .actor b => same b
    | .window _ _ => false))
  | .easel => (s.engine (clusterOfCore (s.coreOf a))).mailbox.any (fun r => r.words.isNone && same r.owner)
  | _ => (s.chan a c).places.any (fun p => !p.full)

/-- The places of a ring (R233); the other kinds have one. -/
def ChanKind.depth : ChanKind → Nat
  | .loc _ n => n
  | _ => 1

/-- The body of CHSET (R233, R234): it holds its thread while a place of the entry it replaces is unfilled. Which register takes a ring's
first place is free (R108). -/
def chsetBody (code : Nat) (d : Vals → Word) : Actor → Thread → Vals → State → Body := fun a t v s =>
  let c := code % 16
  match chanDesc t.nregs (code / 16 % 4) (d v) with
  | .error e => .raise e s
  | .ok k =>
    if s.chanUnfilled a c then .stay .none
    else
      let (n, s) := s.freeNat
      .done [] ((s.setChan a c { kind := k, head := n % k.depth, places := [] }).armRestart (crewOf a))

/-- A CHSET of c0 in a shadow squad, or a literal where the kind takes none (R233, R234). [DESIGN CHOICE, log 20] -/
def chsetCheck (code : Nat) (extra : Bool) (a : Actor) (_ : Thread) : Option Cause :=
  let shadow : Bool := match a with
    | .thread t => t.shadow
    | _ => false
  if (shadow && code % 16 == 0) || extra then some { code := 0x03 } else none

/-- CHSET with its descriptor in a register (R233). -/
def execChset (x : Args) (s : State) : Out :=
  let code := copyId x
  issueChk s (issOf (.chset x)) (chsetCheck code false) (chsetBody code (fun v => v.a.headD 0))

/-- CHSET with its descriptor in the literal (R233, R110). -/
def execChsetLong (x : Args) (lit : Word) (s : State) : Out :=
  let code := copyId x
  let extra := lit != 0 && (code / 16 % 4 == 0 || code / 16 % 4 == 3)
  issueChk s (issOf (.chsetLong x lit)) (chsetCheck code extra) (chsetBody code (fun _ => lit))

/-- CHSTAT's word (R235). -/
def State.chanStat (s : State) (a : Actor) (ctx c : Nat) : Word :=
  let x := s.chan a c
  match x.kind with
  | .unset => 0
  | .loc _ depth => word (x.present + 256 + 65536 * depth)
  | .basin q => word (((s.queue? q).map (fun y => if y.ctx = ctx then y.ondie.length else 0)).getD 0 + 512)
  | .easel => word (((s.engine (clusterOfCore (s.coreOf a))).mailbox.filter (fun r => r.words.isSome)).length + 768)

/-- CHSTAT (R235). -/
def execChstat (x : Args) (s : State) : Out :=
  issue s (issOf (.chstat x)) (fun a t _ s => .done [s.chanStat a t.ctx (copyId x)] s)

/-! ### MXREQ (R236, R255) -/

/-- MXREQ: the thread's earlier writes are performed at CLUSTER scope, then the request enters the mailbox. -/
def execMxreq (x : Args) (s : State) : Out :=
  issue s (issOf (.mxreq x)) (fun a t v s =>
    match s.mailboxAns a t.ctx with
    | .bad c => .raise c s
    | .wait w => .stay w
    | _ =>
      if !s.writesDone a then .stay .none
      else .done [] ((s.wbWhere (fun l => l.core == s.coreOf a && l.ctx == t.ctx)).postMailbox a v.a))

/-! ### Role arming (R276) -/

/-- A crew's arming count for one core cycle (R276), outside DETERMINISTIC: it arms once occupancy has stayed below ROLELOW for ROLETIME
cycles. -/
def State.armTick (s : State) (c : Crew) : State :=
  let pk := s.crewPkt c
  if pk.rolelow = 0 ∨ pk.deterministic then s
  else if s.occupancy c.id < pk.rolelow then
    s.updCrew c.id (fun c => { c with armCount := c.armCount + 1, armed := c.armed || decide (pk.roletime ≤ c.armCount + 1) })
  else s.updCrew c.id (fun c => { c with armCount := 0 })

/-- ROLE_ARM: occupancy has stayed below ROLELOW for ROLETIME core cycles (R276). -/
def execRoleArm (n : Nat) (s : State) : Out :=
  match s.crew? n with
  | some c =>
    let pk := s.crewPkt c
    .next (if pk.rolelow ≠ 0 ∧ pk.deterministic = false ∧ pk.roletime ≤ c.armCount then
      s.updCrew n (fun c => { c with armed := true }) else s)
  | none => .next s

end Sys2Proof.Machine
end

