-- ==== Sys2Proof/Machine/LoadStore.lean ====
section
/-! DEFINITION. The meanings of the memory and synchronisation instructions of opcode group 4 (R203-R221): loads, stores, tensor
elements, atomics, fences, bindings, promotion, waits and futures. The queue instructions are in Basin.lean. -/

namespace Sys2Proof.Machine

/-! ### LD, ST, LDT, STT, PREF -/

/-- LD (R203), its offset in the B field. -/
def execLd (x : Args) (w : Width) (sp : Space) (s : State) : Out :=
  issue s (issOf (.ld x w sp)) (loadBody sp w.bytes (Width.sgn w) (offsetOf x))

/-- LD with its offset in the literal (R110). -/
def execLdLong (x : Args) (w : Width) (sp : Space) (lit : Word) (s : State) : Out :=
  issue s (issOf (.ldLong x w sp lit)) (loadBody sp w.bytes (Width.sgn w) lit.toInt)

/-- ST (R203). -/
def execSt (x : Args) (w : Width) (sp : Space) (s : State) : Out :=
  issue s (issOf (.st x w sp)) (storeBody sp w.bytes (offsetOf x))

/-- ST with its offset in the literal (R110). -/
def execStLong (x : Args) (w : Width) (sp : Space) (lit : Word) (s : State) : Out :=
  issue s (issOf (.stLong x w sp lit)) (storeBody sp w.bytes lit.toInt)

/-- The value of a field that holds an immediate. -/
def immOf (o : Opnd) : Nat :=
  match o with
  | .imm i => i.toNat
  | _ => 0

/-- The Palette entry an LDT or STT names, in the acting thread's context (R205, R296). -/
def State.actingEntry (s : State) (x : Args) : List Word :=
  match s.acting with
  | some (_, t) => s.palEntry t.ctx (immOf x.c)
  | none => []

/-- The acting thread's guard holds and the entry it names is a usable one of FP64: the data register is a pair (R205).
[DEDUCED, log 55] -/
def State.fp64Tensor (s : State) (x : Args) : Bool :=
  match s.acting with
  | some (_, t) => guardOn t x.guard && immOf x.c != 0 && palFormat (s.palEntry t.ctx (immOf x.c)) == 12
  | none => false

/-- A register operand as a pair. -/
def Opnd.asPair : Opnd → Opnd
  | .reg c => .pair c
  | o => o

/-- TENSOR_ID_INVALID (R205), else the access. [DEDUCED, log 55] -/
def tensorBody (id : Nat) (e : List Word) (b : Actor → Thread → Vals → State → Body) : Actor → Thread → Vals → State → Body :=
  fun a t v s => if palOk id e then b a t v s else .raise { code := 0x45, detail := dword id } s

/-- LDT (R205). -/
def execLdt (x : Args) (s : State) : Out :=
  let e := s.actingEntry x
  let wide := s.fp64Tensor x
  let y := if wide then { x with d := Opnd.asPair x.d } else x
  issueChk s { issOf (.ldt x) with x := y }
    (fun _ _ => if wide && x.d.isChan then some { code := 0x03 } else none) (tensorBody (immOf x.c) e (ldtBody e))

/-- STT (R205). -/
def execStt (x : Args) (s : State) : Out :=
  let e := s.actingEntry x
  let y := if s.fp64Tensor x then { x with b := Opnd.asPair x.b } else x
  issue s { issOf (.stt x) with x := y } (tensorBody (immOf x.c) e (sttBody e))

/-- PREF: no architected effect, and no fault (R204). -/
def execPref (x : Args) (s : State) : Out :=
  issue s (issOf (.pref x)) (pureBody (fun _ => []))

/-- PREF with its offset in the literal (R204, R110). -/
def execPrefLong (x : Args) (lit : Word) (s : State) : Out :=
  issue s (issOf (.prefLong x lit)) (pureBody (fun _ => []))

/-! ### Atomics -/

/-- ATOM's body (R207). -/
def atomB (op : AtomOp) (sc : Scope) (off : Int) : Actor → Thread → Vals → State → Body :=
  atomicBody 4 (AtomOp.atRoot op) sc off (fun v old => atomNew op old (v.c.headD 0).toNat) (fun ea v => .atom ea op (v.c.headD 0) sc)

/-- ATOMCAS's body (R208). -/
def casB (wide : Bool) (sc : Scope) (off : Int) : Actor → Thread → Vals → State → Body :=
  atomicBody (if wide then 8 else 4) true sc off (fun v old => casNew wide v.c old) (fun ea v => .cas ea wide v.c sc)

/-- ATOMF's new word (R209). -/
def atomfNew (op : AtomFOp) (old c : Nat) : Nat :=
  natOf (match op with
    | .addF32 => fMap2 .f32 (fAdd fp32 .rne) [word old] [word c]
    | .minF32 => fMap2 .f32 (fMin fp32) [word old] [word c]
    | .maxF32 => fMap2 .f32 (fMax fp32) [word old] [word c]
    | .addF16x2 => fMap2 .f16x2 (fAdd fp16 .rne) [word old] [word c]
    | .addBF16x2 => fMap2 .bf16x2 (fAdd bf16 .rne) [word old] [word c])

/-- ATOMF's body (R209). -/
def atomfB (op : AtomFOp) (sc : Scope) (off : Int) : Actor → Thread → Vals → State → Body :=
  atomicBody 4 false sc off (fun v old => atomfNew op old (v.c.headD 0).toNat) (fun ea v => .atomf ea op (v.c.headD 0) sc)

/-- ATOM: one indivisible change at the home, at whatever scope (R206, R207, R252, R253). -/
def execAtom (x : Args) (op : AtomOp) (sc : Scope) (s : State) : Out :=
  issue s (issOf (.atom x op sc)) (atomB op sc (offsetOf x))

/-- ATOM with its offset in the literal. -/
def execAtomLong (x : Args) (op : AtomOp) (sc : Scope) (lit : Word) (s : State) : Out :=
  issue s (issOf (.atomLong x op sc lit)) (atomB op sc lit.toInt)

/-- ATOMCAS (R206, R208). -/
def execAtomcas (x : Args) (wide : Bool) (sc : Scope) (s : State) : Out :=
  issue s (issOf (.atomcas x wide sc)) (casB wide sc (offsetOf x))

/-- ATOMCAS with its offset in the literal. -/
def execAtomcasLong (x : Args) (wide : Bool) (sc : Scope) (lit : Word) (s : State) : Out :=
  issue s (issOf (.atomcasLong x wide sc lit)) (casB wide sc lit.toInt)

/-- ATOMF (R206, R209). -/
def execAtomf (x : Args) (op : AtomFOp) (sc : Scope) (s : State) : Out :=
  issue s (issOf (.atomf x op sc)) (atomfB op sc (offsetOf x))

/-- ATOMF with its offset in the literal. -/
def execAtomfLong (x : Args) (op : AtomFOp) (sc : Scope) (lit : Word) (s : State) : Out :=
  issue s (issOf (.atomfLong x op sc lit)) (atomfB op sc lit.toInt)

/-! ### FENCE, ACQ, REL, BIND, UNBIND, PROMO -/

/-- Every store, atomic, FUTW and PUSH the actor issued earlier is performed (R210, R354). -/
def State.drained (s : State) (a : Actor) : Bool :=
  s.writesDone a &&
  !(s.qcmds.any (fun k => k.sender == .actor a && (match k.op with
    | .push _ => true
    | _ => false))) &&
  !(s.queues.any (fun q => q.waiters.any (fun k => k.sender == .actor a)))

/-- The L1 side of a FENCE (R210): past CREW scope the core's dirty bytes of the context are written back; the core's clean
copies are dropped. What it carries is newer than the copies that stand elsewhere (R250). -/
def State.fenceL1 (s : State) (core ctx : Nat) (sc : Scope) : State :=
  let s := if sc = .crew then s else (s.wbWhere (fun l => l.core == core && l.ctx == ctx)).stampCopies
  s.dropWhere (fun l => l.core == core)

/-- FENCE's body (R210): it holds its thread until its earlier writes are performed (R201). -/
def fenceBody (sc : Scope) : Actor → Thread → Vals → State → Body := fun a t _ s =>
  match s.strictCause t.ctx sc with
  | some c => .raise c s
  | none =>
    if !s.drained a then .stay .none
    else .done [] ((if isVector a then s.fenceL1 (s.coreOf a) t.ctx sc else if sc = .crew then s else s.stampCopies).demote t.ctx sc)

/-- FENCE: what the thread wrote before is at its home, and what it kept is dropped, at the scope (R210, R243, R250, R251). -/
def execFence (x : Args) (sc : Scope) (s : State) : Out := issue s (issOf (.fence x sc)) (fenceBody sc)

/-- The acquire of an object at a scope (R214): at CLUSTER scope or wider the core's clean copies of the regions bound to it are
dropped, and those that may be older than a FENCE, a commit or an engine's release (R245, R250, R259). [DESIGN CHOICE, log 9] -/
def State.acquireObj (s : State) (a : Actor) (core ctx : Nat) (obj : Dword) (sc : Scope) : State :=
  (if sc = .crew then s else s.dropWhere (fun l => l.core == core && l.ctx == ctx && (l.old || s.inBound a ctx obj l))).settleKept a

/-- The write-back of a release (R215): the dirty bytes of the regions bound to the object, those on other cores too, for its payload is
cumulative (R244). [DESIGN CHOICE, log 9] -/
def State.releaseObj (s : State) (ctx : Nat) (bound : List (Dword × Word)) (sc : Scope) : State :=
  if sc = .crew then s else s.wbWhere (L1Line.inBound · ctx bound)

/-- ACQ's body (R214): CREW scope reads through the L1, wider scopes at the home. -/
def acqBody (sc : Scope) (off : Int) : Actor → Thread → Vals → State → Body := fun a t v s =>
  match s.strictCause t.ctx sc with
  | some c => .raise c s
  | none => match s.reach a t .load .g (memEa .g v.a off) 8 with
    | (.go ea pa, s) =>
      let p := s.portOf a t.ctx .g
      let r := if sc = .crew then s.gRead p ea pa 8 else s.gReadHome p ea pa 8
      if r.2.1 then .raise (dataCause ea .load .g 8) r.2.2
      else .done [word r.1, word (r.1 / 2 ^ 32)] ((r.2.2.acquireObj a (s.coreOf a) t.ctx ea sc).demote t.ctx sc)
    | (.absent ea, s) => missBody (.absent ea) s (accessWord .load 0 8) none
    | (r, s) => missBody r s (accessWord .load 0 8) none

/-- ACQ: the object's word is read, and what the core kept of its regions is dropped (R214, R244, R245, R246). -/
def execAcq (x : Args) (sc : Scope) (s : State) : Out := issue s (issOf (.acq x sc)) (acqBody sc (offsetOf x))

/-- ACQ with its offset in the literal. -/
def execAcqLong (x : Args) (sc : Scope) (lit : Word) (s : State) : Out :=
  issue s (issOf (.acqLong x sc lit)) (acqBody sc lit.toInt)

/-- The release store (R215): at CREW scope into the L1, at wider scopes at the home. -/
def State.relStore (s : State) (p : Port) (ea : Dword) (pa v : Nat) (sc : Scope) : State :=
  if sc = .crew then s.gWrite p ea pa 8 v else s.gWriteHome p ea pa 8 v

/-- A release of an actor is performed (R215, R244): the write-back, then the store; what its actor issued before is released. -/
def State.performRel (s : State) (a : Actor) (p : Port) (bound : List (Dword × Word)) (ea : Dword) (pa v : Nat) (sc : Scope) (before : Nat) :
    State :=
  ((s.releaseObj p.ctx bound sc).relStore p ea pa v sc).markReleased a before

/-- REL's body (R215): write-back, then the store; where writes to the regions bound at issue that it carries are still parked it is posted
behind them (R244, R247). -/
def relBody (sc : Scope) (off : Int) : Actor → Thread → Vals → State → Body := fun a t v s =>
  let data := dw (v.c.headD 0) (v.c.getD 1 0)
  match s.strictCause t.ctx sc with
  | some c => .raise c s
  | none => match s.reach a t .store .g (memEa .g v.a off) 8 with
    | (.go ea pa, s) =>
      let bound := s.boundTo a t.ctx ea
      if s.boundPending a t.ctx bound s.next then .fly (.rel ea data sc bound) s
      else .done [] ((s.performRel a (s.portOf a t.ctx .g) bound ea pa data.toNat sc s.next).demote t.ctx sc)
    | (.absent ea, s) => missBody (.absent ea) s (accessWord .store 0 8) (some (.rel ea data sc (s.boundTo a t.ctx ea)))
    | (r, s) => missBody r s (accessWord .store 0 8) none

/-- REL: the writes to the bound regions go home, then the object's word (R215, R244, R245, R251). -/
def execRel (x : Args) (sc : Scope) (s : State) : Out := issue s (issOf (.rel x sc)) (relBody sc (offsetOf x))

/-- REL with its offset in the literal. -/
def execRelLong (x : Args) (sc : Scope) (lit : Word) (s : State) : Out :=
  issue s (issOf (.relLong x sc lit)) (relBody sc lit.toInt)

/-- MISALIGNED of an object address of BIND, UNBIND or PROMO, which access no memory there. -/
def objCause (ea : Dword) : Option Cause :=
  if ea.toNat % 8 ≠ 0 then some { code := 0x43, detail := ea, faddr := ea } else none

/-- BIND's body (R212): D holds the region base, C the length. [DEDUCED, log 21, log 62] -/
def bindBody (off : Int) : Actor → Thread → Vals → State → Body := fun _ t v s =>
  let obj := memEa .g v.a off
  let b : Dword × Dword × Word := (obj, dw (v.d.headD 0) (v.d.getD 1 0), v.c.headD 0)
  match objCause obj with
  | some c => .raise c s
  | none =>
    let tab := (s.ctxOf t.ctx).bindings
    if b.2.2 = 0 ∨ tab.contains b then .done [] s
    else if 64 ≤ tab.length then .raise { code := 0x47, detail := obj } s
    else .done [] (s.updCtx t.ctx (fun c => { c with bindings := c.bindings ++ [b] }))

/-- BIND (R212, R247). -/
def execBind (x : Args) (s : State) : Out := issue s (issOf (.bind x)) (bindBody (offsetOf x))

/-- BIND with its offset in the literal. -/
def execBindLong (x : Args) (lit : Word) (s : State) : Out := issue s (issOf (.bindLong x lit)) (bindBody lit.toInt)

/-- The bindings of an object leave the table (R213); they may still be in effect for the other threads of the context, so those keep
them (R247). -/
def State.unbind (s : State) (a : Actor) (ctx : Nat) (obj : Dword) : State :=
  let gone := (s.ctxOf ctx).bindings.filter (fun b => b.1 == obj)
  let keep (p : Actor × Thread) : Actor × Thread :=
    if p.1 = a then (p.1, { p.2 with kept := p.2.kept.filter (fun b => b.1 != obj) })
    else if p.2.ctx = ctx ∧ p.2.exited = false then (p.1, { p.2 with kept := p.2.kept ++ gone })
    else p
  { (s.updCtx ctx (fun c => { c with bindings := c.bindings.filter (fun b => b.1 != obj) })) with
    threads := s.threads.map keep }

/-- UNBIND's body (R213). [DEDUCED, log 62] -/
def unbindBody (off : Int) : Actor → Thread → Vals → State → Body := fun a t v s =>
  let obj := memEa .g v.a off
  match objCause obj with
  | some c => .raise c s
  | none => .done [] (if (s.ctxOf t.ctx).bindings.any (fun b => b.1 == obj) then s.unbind a t.ctx obj else s)

/-- UNBIND (R213, R247). -/
def execUnbind (x : Args) (s : State) : Out := issue s (issOf (.unbind x)) (unbindBody (offsetOf x))

/-- UNBIND with its offset in the literal. -/
def execUnbindLong (x : Args) (lit : Word) (s : State) : Out := issue s (issOf (.unbindLong x lit)) (unbindBody lit.toInt)

/-- PROMO's body (R216): on every core the context's dirty bytes of the object and its regions are written back. -/
def promoBody (sc : Scope) (off : Int) : Actor → Thread → Vals → State → Body := fun a t v s =>
  let obj := memEa .g v.a off
  match s.strictCause t.ctx sc with
  | some c => .raise c s
  | none => match objCause obj with
    | some c => .raise c s
    | none =>
      let s' := if sc = .crew then s
        else s.wbWhere (fun l => s.inBound a t.ctx obj l || (l.ctx == t.ctx && l.gran == obj.toNat / 8))
      .done [] (s'.demote t.ctx sc)

/-- PROMO (R216, R257). -/
def execPromo (x : Args) (sc : Scope) (s : State) : Out := issue s (issOf (.promo x sc)) (promoBody sc (offsetOf x))

/-- PROMO with its offset in the literal. -/
def execPromoLong (x : Args) (sc : Scope) (lit : Word) (s : State) : Out :=
  issue s (issOf (.promoLong x sc lit)) (promoBody sc lit.toInt)

/-! ### WAITA, FUTR, FUTW -/

/-- WAITA's acquire on return (R217): `.g` drops the core's clean copies of the context's lines, `.x` those that a copy job's payload has
passed (R246, R265). [DESIGN CHOICE, log 9] -/
def State.waitaAcquire (s : State) (a : Actor) (ctx : Nat) (scratch : Bool) : State :=
  (if isVector a then s.dropWhere (fun l => l.core == s.coreOf a && l.ctx == ctx && (!scratch || l.behind)) else s).settleKept a

/-- WAITA's body (R217): the word as it stands meets the condition, or the thread watches it. [DEDUCED, log 47] -/
def waitaBody (p : Iss) (ge : Bool) (sp : Space) (off : Int) : Actor → Thread → Vals → State → Body := fun a t v s =>
  let watch (scratch : Bool) (addr : Dword) (pa : Nat) : Watch :=
    { scratch := scratch, addr := addr, ge := ge, cmp := v.c.headD 0,
      dest := (match p.x.d with
        | .reg c => .reg c.toNat
        | _ => .none), len := p.len, pa := pa, group := s.grp.num }
  let settle (w : Watch) (x : Word) (s : State) : Body :=
    if w.met x then .done [x] (s.waitaAcquire a t.ctx w.scratch) else .wait (.addr w) s
  match s.reach a t .load sp (memEa sp v.a off) 4 with
  | (.scratch o, s) =>
    if s.scratchFails (crewOf a) o 4 then .raise (dataCause (dword o) .load .x 4) s
    else settle (watch true (dword o) 0) (word (s.scratchRead (crewOf a) o 4)) s
  | (.go ea pa, s) =>
    let r := s.gReadHome { s.portOf a t.ctx .g with task := none } ea pa 4
    if r.2.1 then .raise (dataCause ea .load sp 4) r.2.2 else settle (watch false ea pa) (word r.1) r.2.2
  | (.absent ea, s) => missBody (.absent ea) s (accessWord .load (spaceCode sp) 4) none
  | (r, s) => missBody r s (accessWord .load (spaceCode sp) 4) none

/-- WAITA (R217). -/
def execWaita (x : Args) (ge : Bool) (sp : Space) (s : State) : Out :=
  issue s (issOf (.waita x ge sp)) (waitaBody (issOf (.waita x ge sp)) ge sp (offsetOf x))

/-- WAITA with its offset in the literal. -/
def execWaitaLong (x : Args) (ge : Bool) (sp : Space) (lit : Word) (s : State) : Out :=
  issue s (issOf (.waitaLong x ge sp lit)) (waitaBody (issOf (.waitaLong x ge sp lit)) ge sp lit.toInt)

/-- FUTR and FUTW raise PROTECTION on die code 4 (R218); MISALIGNED comes first (R199). -/
def futCause (ea : Dword) (k : Acc) : Option Cause :=
  if ea.toNat % 8 ≠ 0 then some (memCause 0x43 ea k .g 8)
  else if ea.toNat / 2 ^ 56 = 4 then some (memCause 0x41 ea k .g 8)
  else none

/-- The read of a future at its home (R219): VALUE and the acquire where it is full, else a registration. -/
def State.readFuture (s : State) (a : Actor) (p : Port) (ea : Dword) (pa : Nat) (sc : Scope) : Option Word × Bool × State :=
  let r := s.gReadHome { p with task := none } ea pa 8
  if r.2.1 then (none, true, r.2.2)
  else if r.1.testBit 32 then (some (word r.1), false, r.2.2.acquireObj a p.core p.ctx ea sc)
  else (none, false, r.2.2)

/-- FUTR's body (R219). [DEDUCED, log 47] -/
def futrBody (sc : Scope) (off : Int) : Actor → Thread → Vals → State → Body := fun a t v s =>
  let ea := memEa .g v.a off
  match s.strictCause t.ctx sc with
  | some c => .raise c s
  | none => match futCause ea .load with
    | some c => .raise c s
    | none => match s.reach a t .load .g ea 8 with
      | (.go ea pa, s) =>
        let r := s.readFuture a (s.portOf a t.ctx .g) ea pa sc
        let s := r.2.2.demote t.ctx sc
        if r.2.1 then .raise (dataCause ea .load .g 8) r.2.2
        else match r.1 with
          | some x => .done [x] s
          | none => .fly (.futr ea sc true) s
      | (.absent ea, s) => missBody (.absent ea) s (accessWord .load 0 8) (some (.futr ea sc false))
      | (r, s) => missBody r s (accessWord .load 0 8) none

/-- FUTR; a registered one acquires as its fill arrives (R219, R244, R248). -/
def execFutr (x : Args) (sc : Scope) (s : State) : Out := issue s (issOf (.futr x sc)) (futrBody sc (offsetOf x))

/-- FUTR with its offset in the literal. -/
def execFutrLong (x : Args) (sc : Scope) (lit : Word) (s : State) : Out :=
  issue s (issOf (.futrLong x sc lit)) (futrBody sc lit.toInt)

/-- FUTW's body (R220): the write-back at issue; FUTURE_FILL performs the rest. [DEDUCED, log 47] -/
def futwBody (sc : Scope) (off : Int) : Actor → Thread → Vals → State → Body := fun a t v s =>
  let ea := memEa .g v.a off
  match s.strictCause t.ctx sc with
  | some c => .raise c s
  | none => match futCause ea .store with
    | some c => .raise c s
    | none => match s.reach a t .store .g ea 8 with
      | (.go ea _, s) =>
        let bound := s.boundTo a t.ctx ea
        let s := (s.releaseObj t.ctx bound sc).demote t.ctx sc
        .fly (.futw ea (v.c.headD 0) sc bound) (if isVector a then s.flushRange (s.coreOf a) t.ctx ea 8 else s)
      | (.absent ea, s) =>
        missBody (.absent ea) s (accessWord .store 0 8) (some (.futw ea (v.c.headD 0) sc (s.boundTo a t.ctx ea)))
      | (r, s) => missBody r s (accessWord .store 0 8) none

/-- FUTW (R220). -/
def execFutw (x : Args) (sc : Scope) (s : State) : Out := issue s (issOf (.futw x sc)) (futwBody sc (offsetOf x))

/-- FUTW with its offset in the literal. -/
def execFutwLong (x : Args) (sc : Scope) (lit : Word) (s : State) : Out :=
  issue s (issOf (.futwLong x sc lit)) (futwBody sc lit.toInt)

/-! ### Events of memory -/

/-- Fill a future at its home (R220): FULL and VALUE, and every registered reader of that dword is answered, with the acquire
of R219 on its core, where no copy older than the fill stays (R242, R248). [DESIGN CHOICE, log 9] -/
def State.fillFuture (s : State) (pa : Nat) (v : Word) : State :=
  let s := (s.fixLoads pa 8).homeWrite pa 8 (v.toNat + 2 ^ 32)
  let hit (f : Flight) : Option (Dword × Scope) := match f.work with
    | .futr ea sc true => if s.placeOf f.ctx ea = some pa then some (ea, sc) else none
    | _ => none
  s.flights.foldl (fun u f => match hit f with
    | some (ea, sc) =>
      let u := u.updFlight f.id (fun f => { f with work := .value [v] })
      if isVector f.owner then
        (u.dropWhere (fun l => l.isAt f.core f.ctx (ea.toNat / 8))).acquireObj f.owner f.core f.ctx ea sc
      else u
    | none => u) s

/-- A posted FUTW is performed (R220): the write-back of what it carries, its core's copies of the future (R242), then the fill. It waits
for the parked writes that it carries (R244). -/
def State.performFutw (s : State) (x : Flight) (ea : Dword) (v : Word) (sc : Scope) (bound : List (Dword × Word)) : State :=
  if s.boundPending x.owner x.ctx bound x.id then s
  else match s.placeOf x.ctx ea with
    | some pa =>
      let s := s.releaseObj x.ctx bound sc
      (((if isVector x.owner then s.flushRange x.core x.ctx ea 8 else s).fillFuture pa v).markReleased x.owner x.id).delFlight x.id
    | none => s

/-- FUTURE_FILL: a posted FUTW is performed at the home (R220, R221). -/
def execFutureFill (f : Nat) (s : State) : Out :=
  match s.flight? f with
  | some x => match x.work, x.park with
    | .futw ea v sc bound, none => .next (s.performFutw x ea v sc bound)
    | _, _ => .next s
  | none => .next s

/-- Wake a thread whose watch has been met: D receives the value, the thread acquires and goes on (R217). -/
def State.wakeWatch (s : State) (a : Actor) : State :=
  match s.thread? a with
  | some t => match t.wait with
    | .addr w => match w.hit with
      | some v =>
        ((s.writeDestLate a w.group w.dest [v]).waitaAcquire a t.ctx w.scratch).wakePast a w.len
      | none => s
    | _ => s
  | none => s

/-- WAITA_WAKE: a write to the watched word has met the condition (R217). -/
def execWaitaWake (a : Actor) (s : State) : Out := .next (s.wakeWatch a)

/-- WAITA_HOST_POLL: the I/O die re-reads a watched word of the host window (R217). [DESIGN CHOICE, log 11] -/
def execWaitaHostPoll (a : Actor) (s : State) : Out :=
  match s.thread? a with
  | some t => match t.wait with
    | .addr w =>
      let v := word (s.homeRead w.pa 4)
      if w.scratch = false ∧ w.addr.toNat / 2 ^ 56 = 4 ∧ w.hit = none ∧ w.met v then
        .next ((s.updThread a (fun u => { u with wait := .addr { w with hit := some v } })).wakeWatch a)
      else .next s
    | _ => .next s
  | none => .next s

/-- L1_WRITEBACK: the L1 writes back a granule's dirty bytes, or drops its clean copy, on its own (R200, R239). -/
def execL1Writeback (core ctx granule : Nat) (drop : Bool) (s : State) : Out :=
  let at' (l : L1Line) : Bool := l.isAt core ctx granule
  .next (if drop then s.dropWhere at' else s.wbWhere at')

/-- A long-latency result that is ready to be written: its words (R114). -/
def Work.ready? : Work → Option (List Word)
  | .value ws => some ws
  | _ => none

end Sys2Proof.Machine
end

