-- ==== Sys2Proof/Machine/Draws.lean ====
section
/-! DEFINITION. The draw instructions DRAW and DRAWK (R316-R323), recording and replaying draws (R331-R333), RESULT (R334); performing
what has issued: accesses that REPLAY releases (R202, R449), posted ones, and the writing of long-latency results (R114). -/

namespace Sys2Proof.Machine

/-! ### Values -/

/-- The value of a draw: `x0` the first word of its block, or the recorded word, `x1` the second (R322). -/
def drawWords (k : DrawKind) (x0 x1 : Word) : List Word :=
  match k with
  | .u32 => [x0]
  | .f32 => [word (fp32.round .rne (.fin false (x0.toNat / 256) (2 ^ 24)))]
  | .u64 => [x0, x1]

/-- The coordinate of the thread's next DRAW on a stream: retired draws and those under way (R319, R322). -/
def State.drawNext (s : State) (a : Actor) (t : Thread) (st : Nat) : Word :=
  (s.flightsOf a).foldl (fun (k : Word) f => match f.work with
    | .draw u _ _ _ _ _ => if u = st then k + 1 else k
    | _ => k) (cget 0 t.dcount st)

/-! ### The choice vector block of a thread (R330, R331) -/

/-- An access to a block at its home (R330): it stays behind the thread's parked accesses to the page, which `held` names (R448). -/
def State.blockReach (s : State) (ctx : Nat) (held : Dword → Bool) (k : Acc) (ea n : Nat) : Reach × State :=
  if held (dword ea) then (.absent (dword ea), s)
  else match s.translate ctx k (dword ea) with
    | (.ok pa, s) => (.go (dword ea) pa, s)
    | (.bad c, s) => (.bad (memCause c (dword ea) k .g n), s)
    | (.absent, s) => (.absent (dword ea), s)

/-- What a DRAW's block accesses give: its word, or where they stop, with the ACCESS word. -/
inductive DrawAns where
  | word (x : Word) (s : State)
  | miss (r : Reach) (access : Word) (s : State)

/-- The DRAW at coordinate (st, k) whose generated word is `g` (R331): the recorded entry, or `g` recorded or appended.
[DESIGN CHOICE, log 44] -/
def State.drawBlock (s : State) (p : Port) (held : Dword → Bool) (b : Block) (st k : Nat) (g : Word) : DrawAns :=
  match s.blockReach p.ctx held .load (b.header st) 4 with
  | (.go h hp, s) =>
    let r := s.gReadHome p h hp 4
    let len := r.1 % 65536
    if r.2.1 then .miss (.bad (dataCause h .load .g 4)) (accessWord .load 0 4) r.2.2
    else if !b.record && decide (k < min len b.c) then
      match r.2.2.blockReach p.ctx held .load (b.entry st k) 4 with
      | (.go e ep, s) =>
        let q := s.gReadHome p e ep 4
        if q.2.1 then .miss (.bad (dataCause e .load .g 4)) (accessWord .load 0 4) q.2.2 else .word (Sys2Proof.word q.1) q.2.2
      | (x, s) => .miss x (accessWord .load 0 4) s
    else match r.2.2.blockReach p.ctx held .atomic (b.header st) 4 with
      | (.go h hp, s) =>
        if k < b.c then
          match s.blockReach p.ctx held .store (b.entry st k) 4 with
          | (.go e ep, s) =>
            .word g ((s.gWriteHome p e ep 4 g.toNat).gWriteHome p h hp 4 (r.1 / 65536 * 65536 + max len (k + 1)))
          | (x, s) => .miss x (accessWord .store 0 4) s
        else .word g (s.gWriteHome p h hp 4 (r.1 ||| 2 ^ 31))
      | (x, s) => .miss x (accessWord .atomic 0 4) s
  | (x, s) => .miss x (accessWord .load 0 4) s

/-- The generated block of a DRAW (R317). -/
def State.drawGen (s : State) (t : Thread) (st : Nat) (k : Word) : Word × Word × Word × Word := gen (s.pktOf t) k 0 st t.wid

/-! ### DRAW and DRAWK -/

/-- DRAW.u64 has no entry to record or replay (R322). -/
def drawCheck (k : DrawKind) (s : State) (_ : Actor) (t : Thread) : Option Cause :=
  if k = .u64 ∧ ((s.pktOf t).record ∨ (s.pktOf t).replay) then some { code := 0x03 } else none

/-- DRAW's body: its coordinate is captured, its block accesses are checked; they are performed when it retires (R331). A DRAW that the
handler has executed again takes the coordinate anew. [DESIGN CHOICE, log 44] -/
def drawBody (st : Nat) (kind : DrawKind) : Actor → Thread → Vals → State → Body := fun a t _ s =>
  let k := s.drawNext a t st
  let g := s.drawGen t st k
  let w : Work := .draw st k kind g.1 g.2.1 (s.choice? a t)
  match s.choice? a t with
  | none => .fly w s
  | some b => match s.drawBlock (s.portOf a t.ctx .g) (s.parkedOn a t.ctx) b st k.toNat g.1 with
    | .word _ u => .fly w { s with mtlb := u.mtlb, tick := u.tick }
    | .miss (.absent ea) acc u => missBody (.absent ea) u acc (some w)
    | .miss r acc u => missBody r u acc none

/-- The block of the acting thread is used: the instruction takes an operand-log entry (R442). -/
def State.usesBlock (s : State) : Bool :=
  match s.acting with
  | some (a, t) => (s.choice? a t).isSome
  | none => false

/-- DRAW (R321-R323, R331). -/
def execDraw (x : Args) (k : DrawKind) (s : State) : Out :=
  issueChk s { issOf (.draw x k) with logs := s.usesBlock } (drawCheck k s) (drawBody (immOf x.c) k)

/-- DRAWK (R321, R322): domain 2, the instruction's key, stream and index. -/
def execDrawk (x : Args) (k : DrawKind) (s : State) : Out :=
  issue s (issOf (.drawk x k)) (fun _ t v s =>
    let idx := match x.c with
      | .imm i => i.setWidth 32
      | _ => v.c.headD 0
    let g := gen (s.pktOf t) idx 2 (immOf x.b) (dw (v.a.headD 0) (v.a.getD 1 0))
    .fly (.sr (drawWords k g.1 g.2.1) 0 0 0) s)

/-! ### RESULT -/

/-- RESULT's accesses at the home, both at once (R334). -/
def State.resultBlock (s : State) (p : Port) (held : Dword → Bool) (b : Block) (w : Nat) (v : Word) : DrawAns :=
  match s.blockReach p.ctx held .store (b.res w) 4 with
  | (.go e ep, s) => match s.blockReach p.ctx held .atomic b.mask 4 with
    | (.go m mp, s) =>
      let r := s.gReadHome p m mp 4
      if r.2.1 then .miss (.bad (dataCause m .atomic .g 4)) (accessWord .atomic 0 4) r.2.2
      else .word 0 ((r.2.2.gWriteHome p e ep 4 v.toNat).gWriteHome p m mp 4 (r.1 ||| 2 ^ w))
    | (x, s) => .miss x (accessWord .atomic 0 4) s
  | (x, s) => .miss x (accessWord .store 0 4) s

/-- The work accesses a choice vector block. -/
def Work.onBlock : Work → Bool
  | .draw _ _ _ _ _ (some _) | .result _ _ _ => true
  | _ => false

/-- An earlier block access of an actor is still to be performed: those of a thread keep its program order (R330). -/
def State.blockBefore (s : State) (a : Actor) (n : Nat) : Bool :=
  s.flights.any (fun g => decide (g.owner = a ∧ g.id < n) && g.work.onBlock)

/-- RESULT's body (R334): it is posted, and behind an earlier DRAW it is performed later (R330). [DESIGN CHOICE, log 44] -/
def resultBody (w : Nat) : Actor → Thread → Vals → State → Body := fun a t v s =>
  match s.choice? a t with
  | none => .done [] s
  | some b => match s.resultBlock (s.portOf a t.ctx .g) (s.parkedOn a t.ctx) b w (v.a.headD 0) with
    | .word _ u =>
      if s.blockBefore a s.next then .fly (.result b w (v.a.headD 0)) { s with mtlb := u.mtlb, tick := u.tick } else .done [] u
    | .miss (.absent ea) acc s => missBody (.absent ea) s acc (some (.result b w (v.a.headD 0)))
    | .miss r acc s => missBody r s acc none

/-- RESULT (R334). -/
def execResult (x : Args) (s : State) : Out :=
  issue s { issOf (.result x) with logs := s.usesBlock } (resultBody (immOf x.c))

/-! ### Results come (R114, R109, R325) -/

/-- Park a flight under its page: its item is new (R448), and it holds an operand-log entry until it is performed (R442). -/
def State.parkFlight (s : State) (f : Flight) (ea : Dword) (access : Word) : State :=
  let who := match s.thread? f.owner with
    | some t => whoOf f.owner t
    | none => (0, 0)
  let (i, s) := s.parkAt (.flight f.id) f.ctx ea (match f.owner with
    | .thread _ => who.1
    | _ => f.pc) access who.2
  s.updFlight f.id (fun x => { x with park := some i, log := true })

/-- Translate an access again and go on, fault or park again. -/
def State.again (s : State) (f : Flight) (k : Acc) (sp : Space) (ea : Dword) (n : Nat) (go : Nat → State → Body) : Body :=
  match s.translate f.ctx k ea with
  | (.ok pa, s) => go pa s
  | (.bad c, s) => .raise (memCause c ea k sp n) s
  | (.absent, s) => .park ea (accessWord k (spaceCode sp) n) none s

/-- The same for the pieces of a tensor access. -/
def State.againPieces (s : State) (f : Flight) (k : Acc) (e co : List Word) (go : List (Dword × Nat) → State → Body) : Body :=
  match s.jobReach f.ctx k (tensorPieces e co) with
  | (.ok l, s) => go l s
  | (.error (.bad c), s) => .raise c s
  | (.error (.absent ea), s) => .park ea (tensorAccess k e) none s
  | (.error _, s) => .done [] s

/-- An atomic that replays; where its scope is demoted that is counted as it is performed (R211). -/
def State.againAtomic (s : State) (f : Flight) (ea : Dword) (n : Nat) (sc : Scope) (g : Nat → Nat) : Body :=
  s.again f .atomic .g ea n (fun pa s =>
    let r := s.gAtomic (s.flightPort f .g) ea pa n g
    if r.2.1 then .raise (dataCause ea .atomic .g n) r.2.2
    else .done (if n = 8 then [word r.1, word (r.1 / 2 ^ 32)] else [word r.1]) (r.2.2.demote f.ctx sc))

/-- The elements that a parked LDT stands to return already (R242), put in the place of those it reads. -/
def fixElems (fixed : List (Nat × Byte)) (w v : Nat) : List (Option Int) → Nat
  | [] => 0
  | b :: r =>
    let x : Nat := match b.map (fun b => (b % 8, elemPieces w b)) with
      | some (sh, (a, n) :: r) =>
        if (aget fixed (a % 2 ^ 64).toNat).isSome then
          fixedValue fixed (BitVec.ofInt 64 a) 0 (n + r.length) / 2 ^ sh.toNat % 2 ^ w
        else v % 2 ^ w
      | _ => v % 2 ^ w
    x + 2 ^ w * fixElems fixed w (v / 2 ^ w) r

/-- Perform a parked or posted access once, from its log (R202): the body's answer as at issue; one that comes after others of its thread
waits for them. A load returns what it stands to return (R242). [DEDUCED, log 7] -/
def State.performFlight (s : State) (f : Flight) : Body :=
  match f.work with
  | .load sp ea n sg => s.again f .load sp ea n (fun pa s =>
      let r := s.gRead (s.flightPort f sp) ea pa n
      if r.2.1 then .raise (dataCause ea .load sp n) r.2.2 else .done (loadWords n sg (fixedValue f.fixed ea r.1 n)) r.2.2)
  | .store sp ea n v => s.again f .store sp ea n (fun pa s => .done [] (s.gWrite (s.flightPort f sp) ea pa n v.toNat))
  | .tload e co => s.againPieces f .load e co (fun l s =>
      let w := codeWidth (palFormat e)
      let r := s.readElems 0 (s.flightPort f .g) false w (cutPieces w (tensorBits e co) l)
      if r.2.1 then
        let p := (tensorPieces e co).headD (0, 1)
        .raise (dataCause (BitVec.ofInt 64 p.1) .load .g p.2) r.2.2
      else .done (tensorWords e (fixElems f.fixed w r.1 (tensorBits e co))) r.2.2)
  | .tstore e co ws => s.againPieces f .store e co (fun l s =>
      let w := codeWidth (palFormat e)
      .done [] (s.writeElems 0 (s.flightPort f .g) false w (dw (ws.headD 0) (ws.getD 1 0)).toNat (cutPieces w (tensorBits e co) l)))
  | .atom ea op v sc => s.againAtomic f ea 4 sc (fun old => atomNew op old v.toNat)
  | .cas ea wide ws sc => s.againAtomic f ea (if wide then 8 else 4) sc (casNew wide ws)
  | .atomf ea op v sc => s.againAtomic f ea 4 sc (fun old => atomfNew op old v.toNat)
  | .futr ea sc _ => s.again f .load .g ea 8 (fun pa s =>
      let r := s.readFuture f.owner (s.flightPort f .g) ea pa sc
      if r.2.1 then .raise (dataCause ea .load .g 8) r.2.2
      else match r.1 with
        | some x => .done [x] (r.2.2.demote f.ctx sc)
        | none => .fly (.futr ea sc true) (r.2.2.demote f.ctx sc))
  | .rel ea v sc bound =>
    if s.boundPending f.owner f.ctx bound f.id then .fly f.work s
    else s.again f .store .g ea 8 (fun pa s =>
      .done [] ((s.performRel f.owner (s.flightPort f .g) bound ea pa v.toNat sc f.id).demote f.ctx sc))
  | .futw ea v sc bound => s.again f .store .g ea 8 (fun _ s =>
      let s := (s.releaseObj f.ctx bound sc).demote f.ctx sc
      .fly (.futw ea v sc bound) (if isVector f.owner then s.flushRange f.core f.ctx ea 8 else s))
  | .result b w v =>
    if s.blockBefore f.owner f.id then .fly f.work s
    else match s.resultBlock (s.flightPort f .g) (s.behindParked f) b w v with
      | .word _ s => .done [] s
      | .miss (.absent ea) acc s => .park ea acc none s
      | .miss (.bad c) _ s => .raise c s
      | .miss _ _ s => .fly f.work s
  | w => .fly w s

/-- Settle a replayed flight: a result is written by LONG_LATENCY_WRITEBACK; an orphan's goes nowhere but to its push (R44). -/
def State.settleFlight (s : State) (f : Flight) : Body → State
  | .done ws s =>
    if !f.dest.isPush && (f.orphan || !f.long) then s.delFlight f.id
    else s.updFlight f.id (fun x => { x with work := .value ws, park := none, log := false })
  | .fly w s =>
    if f.orphan && !(w.outlives || f.dest.isPush) then s.delFlight f.id
    else s.updFlight f.id (fun x => { x with work := w, park := none, log := false })
  | .raise c s => s.raiseLate f c
  | .park ea acc _ s => s.parkFlight f ea acc
  | _ => s

/-- An earlier DRAW of the thread on the stream, or an earlier access to its block, has not retired (R320, R330). -/
def State.drawBefore (s : State) (f : Flight) (st : Nat) : Bool :=
  (s.flightsOf f.owner).any (fun g => decide (g.id < f.id) && (match g.work with
    | .draw u _ _ _ _ _ => u == st
    | _ => false)) || (f.work.onBlock && s.blockBefore f.owner f.id)

/-- A draw retires (R325, R331): block accesses, result and counter advance are one event; an ended thread's is its block accesses alone
(R44). [DESIGN CHOICE, log 44, DEDUCED, log 58] -/
def State.retireDraw (s : State) (f : Flight) (st : Nat) (k : Word) (kind : DrawKind) (g0 g1 : Word) (blk : Option Block) : State :=
  let finish (s : State) (x : Word) : State :=
    let s := s.writeDestLate f.owner f.group f.dest (drawWords kind x g1)
    (if f.orphan then s else s.updThread f.owner (fun u => { u with dcount := cset 0 u.dcount st (k + 1) })).delFlight f.id
  match blk with
  | none => finish s g0
  | some b => match s.drawBlock (s.flightPort f .g) (s.behindParked f) b st k.toNat g0 with
    | .word x s => finish s x
    | .miss (.absent ea) acc s => s.parkFlight f ea acc
    | .miss (.bad c) _ s => s.raiseLate f c
    | .miss _ _ s => s

/-- A ready result is written (R114): registers, a reserved channel place, a predicate; with it the counters of a draw or of a
stochastic conversion advance (R325, R190) and its capture is made (R185). A posted REL or RESULT is performed (R215, R334). Work that is
not ready stays. -/
def State.retire (s : State) (f : Flight) : State :=
  if f.park.isSome then s
  else match f.work with
    | .value ws => (s.writeDestLate f.owner f.group f.dest ws).delFlight f.id
    | .sr ws n pal amax =>
      let s := s.writeDestLate f.owner f.group f.dest ws
      let s := if f.orphan then s else s.updThread f.owner (fun t => { t with rcount := t.rcount + word n })
      (if pal = 0 then s else s.captureAmax f.ctx pal amax).delFlight f.id
    | .draw st k kind g0 g1 blk => if s.drawBefore f st then s else s.retireDraw f st k kind g0 g1 blk
    | .rel _ _ _ _ | .result _ _ _ => s.settleFlight f (s.performFlight f)
    | _ => s

/-- LONG_LATENCY_WRITEBACK: the result of an outstanding instruction is written (R114); of an ended thread's, what is still performed
(R44). -/
def execLongLatencyWriteback (a : Actor) (op : Nat) (s : State) : Out :=
  match s.flight? op with
  | some f => .next (if f.owner = a ∧ (if f.orphan then f.outlives else (s.thread? a).isSome) then s.retire f else s)
  | none => .next s

end Sys2Proof.Machine
end

