-- ==== Sys2Proof/Machine/Float.lean ====
section
/-! DEFINITION. The meanings of opcode group 1 (R168-R184): floating arithmetic, comparison, class, division, roots, the
functions of R180, running statistics and magnitude folding. -/

namespace Sys2Proof.Machine

/-- A function of two floating operands, element by element (R168). -/
def fBin (t : FTy) (f : Fmt → Nat → Nat → Nat) (v : Vals) : List Word := fMap2 t (f (FTy.fmt t)) v.a v.b

/-- A function of one floating operand's pattern. -/
def fUn (t : FTy) (f : Fmt → Nat → Nat) (v : Vals) : List Word := fPack t ((fElems t v.a).map (f (FTy.fmt t)))

/-- A scalar function of one FP32 word. -/
def f32Un (f : Nat → Nat) (v : Vals) : List Word := [word (f (natOf v.a))]

/-- FFMA's words (R173). -/
def ffmaWords (t : FTy) (m : Rnd) (v : Vals) : List Word :=
  fPack t (List.zipWith (fun ab c => fFma (FTy.fmt t) m ab.1 ab.2 c) ((fElems t v.a).zip (fElems t v.b)) (fElems t v.c))

/-- FSCALE's exponent: an 8-bit immediate or a register, signed (R175); beyond 4,000 either way every result is the same. -/
def fscaleN (x : Args) (v : Vals) : Int :=
  let n := match x.c with
    | .imm i => i.toInt
    | _ => (v.b.headD 0).toInt
  max (-4000) (min 4000 n)

/-- A value times 2^n; NaN, infinities and zeros pass (R175). -/
def Exact.scale (n : Int) : Exact → Exact
  | .fin s k d => if k = 0 then .fin s k d else .fin s (scale2 k d n).1 (scale2 k d n).2
  | x => x

/-- FDOT2: C + a0 b0 + a1 b1, exact, one rounding to FP32 (R174). -/
def fdot2Words (t : FTy) (m : Rnd) (v : Vals) : List Word :=
  let ps := List.zipWith (fun a b => ((FTy.fmt t).decode a).mul ((FTy.fmt t).decode b)) (fElems t v.a) (fElems t v.b)
  [word (fp32.round m (ps.foldl (fun x p => x.add m p) (fp32.decode (natOf v.c))))]

/-- An FP32 word's exact value, and the rounding back. -/
def f32v (w : Word) : Exact := fp32.decode w.toNat
def f32r (m : Rnd) (x : Exact) : Word := word (fp32.round m x)

/-- WELF (R182). [DESIGN CHOICE, log 63] -/
def welfWords (m : Rnd) (d : List Word) (x : Word) : List Word :=
  let mu := f32v (d.getD 1 0)
  let n1 := f32r m ((f32v (d.getD 0 0)).add m (.ofInt 1))
  let dx := (f32v x).sub m mu
  let m1 := f32r m (mu.add m (dx.div (f32v n1)))
  let q1 := f32r m ((f32v (d.getD 2 0)).add m (dx.mul ((f32v x).sub m (f32v m1))))
  [n1, m1, q1]

/-- A NaN result is canonical (R78). -/
def canonF32 (w : Word) : Word := if (f32v w).isNan then word fp32.nanPat else w

/-- WMERGE (R183): `d` and `a` are the accumulators. Where nA = -nB the divisor t is a zero with the sign that a sum has in the rounding
direction (-0 in rd, else +0), which gives an infinite mean or M its sign. [DESIGN CHOICE, log 63] -/
def wmergeWords (m : Rnd) (d a : List Word) : List Word :=
  let na := f32v (d.getD 0 0)
  let nb := f32v (a.getD 0 0)
  if nb.isZero then d
  else if na.isZero then a.map canonF32
  else
    let t := na.add m nb
    let dl := (f32v (a.getD 1 0)).sub m (f32v (d.getD 1 0))
    [f32r m t,
     f32r m ((f32v (d.getD 1 0)).add m ((dl.mul nb).div t)),
     f32r m (((f32v (d.getD 2 0)).add m (f32v (a.getD 2 0))).add m ((((dl.mul dl).mul na).mul nb).div t))]

/-- An accumulator begins at a code that is a multiple of 4 (R181). -/
def accumCheck (x : Args) : Option Cause :=
  [x.d, x.a].findSome? (fun o => match o with
    | .run c _ => if c.toNat % 4 = 0 then none else some { code := 0x05, detail := dword c.toNat }
    | _ => none)

/-- FAMAX's words: D, and the flag for the predicate it may name (R184). -/
def famaxWords (t : FTy) (v : Vals) : List Word :=
  let w := amaxFold (v.d.headD 0) (amaxAll ((fElems t v.a).map (FTy.fmt t).decode))
  [w, word (b2n w.msb)]

/-- FADD (R173). -/
def execFadd (x : Args) (t : FTy) (m : Rnd) (s : State) : Out :=
  issue s (issOf (.fadd x t m)) (pureBody (fBin t (fun f => fAdd f m)))

/-- FSUB (R173). -/
def execFsub (x : Args) (t : FTy) (m : Rnd) (s : State) : Out :=
  issue s (issOf (.fsub x t m)) (pureBody (fBin t (fun f => fSub f m)))

/-- FMUL (R173). -/
def execFmul (x : Args) (t : FTy) (m : Rnd) (s : State) : Out :=
  issue s (issOf (.fmul x t m)) (pureBody (fBin t (fun f => fMul f m)))

/-- FFMA (R173). -/
def execFfma (x : Args) (t : FTy) (m : Rnd) (s : State) : Out :=
  issue s (issOf (.ffma x t m)) (pureBody (ffmaWords t m))

/-- FMIN (R176). -/
def execFmin (x : Args) (t : FTy) (s : State) : Out :=
  issue s (issOf (.fmin x t)) (pureBody (fBin t fMin))

/-- FMAX (R176). -/
def execFmax (x : Args) (t : FTy) (s : State) : Out :=
  issue s (issOf (.fmax x t)) (pureBody (fBin t fMax))

/-- FCMP (R177). -/
def execFcmp (x : Args) (t : FTy) (rel : Rel) (s : State) : Out :=
  issue s (issOf (.fcmp x t rel)) (pureBody (fun v =>
    boolWord (fRel rel ((FTy.fmt t).decode (natOf v.a)) ((FTy.fmt t).decode (natOf v.b)))))

/-- FCLASS (R178). -/
def execFclass (x : Args) (t : FTy) (s : State) : Out :=
  issue s (issOf (.fclass x t)) (pureBody (fun v => [word (2 ^ fClass (FTy.fmt t) (natOf v.a))]))

/-- FDIV (R179). -/
def execFdiv (x : Args) (t : FTy) (m : Rnd) (s : State) : Out :=
  issue s (issOf (.fdiv x t m)) (pureBody (fBin t (fun f => fDiv f m)))

/-- FSQRT (R179). -/
def execFsqrt (x : Args) (t : FTy) (m : Rnd) (s : State) : Out :=
  issue s (issOf (.fsqrt x t m)) (pureBody (fUn t (fun f => fSqrt f m)))

/-- FRCP (R179). -/
def execFrcp (x : Args) (t : FTy) (m : Rnd) (s : State) : Out :=
  issue s (issOf (.frcp x t m)) (pureBody (fUn t (fun f p => f.round m ((Exact.ofInt 1).div (f.decode p)))))

/-- FRSQ (R179, R180). -/
def execFrsq (x : Args) (s : State) : Out :=
  issue s (issOf (.frsq x)) (pureBody (f32Un fRsq))

/-- FEXP2 (R179, R180). -/
def execFexp2 (x : Args) (s : State) : Out :=
  issue s (issOf (.fexp2 x)) (pureBody (f32Un fExp2))

/-- FLOG2 (R179, R180). -/
def execFlog2 (x : Args) (s : State) : Out :=
  issue s (issOf (.flog2 x)) (pureBody (f32Un fLog2))

/-- FSINPI (R179, R180). -/
def execFsinpi (x : Args) (s : State) : Out :=
  issue s (issOf (.fsinpi x)) (pureBody (f32Un fSinPi))

/-- FCOSPI (R179, R180). -/
def execFcospi (x : Args) (s : State) : Out :=
  issue s (issOf (.fcospi x)) (pureBody (f32Un fCosPi))

/-- FTANH (R179, R180). -/
def execFtanh (x : Args) (s : State) : Out :=
  issue s (issOf (.ftanh x)) (pureBody (f32Un fTanh))

/-- FSCALE (R175). -/
def execFscale (x : Args) (t : FTy) (m : Rnd) (s : State) : Out :=
  issue s (issOf (.fscale x t m)) (pureBody (fun v => fMap1 t (fun e => (FTy.fmt t).round m (e.scale (fscaleN x v))) v.a))

/-- FDOT2 (R174). -/
def execFdot2 (x : Args) (t : FTy) (m : Rnd) (s : State) : Out :=
  issue s (issOf (.fdot2 x t m)) (pureBody (fdot2Words t m))

/-- WELF (R182). -/
def execWelf (x : Args) (m : Rnd) (s : State) : Out :=
  issueChk s (issOf (.welf x m)) (fun _ _ => accumCheck x) (pureBody (fun v => welfWords m v.d (v.a.headD 0)))

/-- WMERGE (R183). -/
def execWmerge (x : Args) (m : Rnd) (s : State) : Out :=
  issueChk s (issOf (.wmerge x m)) (fun _ _ => accumCheck x) (pureBody (fun v => wmergeWords m v.d v.a))

/-- FAMAX (R184). -/
def execFamax (x : Args) (t : FTy) (s : State) : Out :=
  issue s (issOf (.famax x t)) (pureBody (famaxWords t))

end Sys2Proof.Machine
end

