-- ==== Sys2Proof/Machine/Matrix.lean ====
section
/-! DEFINITION. The Easel core's instructions and the matrix engine (R285-R315, R87, R92-R95): Palette access, steps, the mailbox,
MXSYNC and MBXDONE, and the steps MATRIX_STEP_EXECUTE and MBXDONE_STORE. -/

namespace Sys2Proof.Machine

/-! ### Group 6 on the Easel core -/

/-- A group 6 instruction of the Easel core of cluster `k`: a pending step fault is raised first (R310). -/
def easelBody (go : Nat → Thread → Vals → State → Body) : Actor → Thread → Vals → State → Body := fun a t v s =>
  match a with
  | .easel k => match (s.engine k).pending with
    | some c => .raise c (s.updEngine k (fun e => { e with pending := none }))
    | none => go k t v s
  | _ => .raise { code := 0x07 } s

/-- PALW and PALR raise a pending step fault on the Easel core only (R310). -/
def palBody (go : Actor → Thread → Vals → State → Body) : Actor → Thread → Vals → State → Body := fun a t v s =>
  match a with
  | .easel _ => easelBody (fun _ t v s => go a t v s) a t v s
  | _ => go a t v s

/-- The identifier an instruction names: its immediate, or the low 8 bits of register C (R315). -/
def palId (x : Args) (v : Vals) : Nat :=
  match x.c with
  | .imm i => i.toNat
  | _ => (v.c.headD 0).toNat % 256

/-- TENSOR_ID_INVALID and MATRIX_FORMAT of an identifier (R441). -/
def idCause (id : Nat) : Cause := { code := 0x45, detail := dword id }
def formatCause (id : Nat) : Cause := { code := 0x64, detail := dword id }

/-- GROUP, SCALE and ZERO of an entry (R294). -/
def entGroup (e : List Word) : Nat := bits (e.getD 10 0).toNat 15 8
def entScale (e : List Word) : Nat := bits (e.getD 10 0).toNat 23 16
def entZero (e : List Word) : Nat := bits (e.getD 10 0).toNat 31 24
/-- The group size along dimension 0; 1 without groups. -/
def entGroupSize (e : List Word) : Nat :=
  match entGroup e with
  | 1 => 32
  | 2 => 64
  | 3 => 128
  | _ => 1

/-- PALW (R297): the entry changes at once for every thread of the context, those it is not ordered before among them. Identifier 0
is tested before the reserved bytes, whose order R297 does not give. [DESIGN CHOICE, log 54] -/
def execPalw (x : Args) (s : State) : Out :=
  issue s (issOf (.palw x)) (palBody (fun _ t v s =>
    let id := palId x v
    if id = 0 then .raise (idCause 0) s
    else if (v.a.drop 12).any (· != 0) || decide (3 < entGroup v.a) then .raise { code := 0x03 } s
    else .done [] (s.setPal t.ctx id v.a)))

/-- PALR (R297). -/
def execPalr (x : Args) (s : State) : Out :=
  issue s (issOf (.palr x)) (palBody (fun _ t v s =>
    let id := palId x v
    if id = 0 then .raise (idCause 0) s else .done (s.palEntry t.ctx id) s))

/-! ### Boxes of the steps (R301, R302, R304, R306, R312) -/

/-- Origin coordinate `d`. -/
def orgAt (o : List Nat) (d : Nat) : Nat := o.getD d 0

/-- MXLA's elements, row by row; a K index at or beyond `lim` is none of the tensor's (R301, R312). -/
def boxA (o : List Nat) (lim : Option Nat) : List (Option (List Nat)) :=
  (List.range 128).flatMap (fun i => (List.range 512).map (fun k =>
    let x := orgAt o 0 + k
    match lim with
    | some l => if x < l then some [x, orgAt o 1 + i, orgAt o 2, orgAt o 3] else none
    | none => some [x, orgAt o 1 + i, orgAt o 2, orgAt o 3]))

/-- MXLB's elements: slab, column, k (R302). -/
def boxB (o : List Nat) : List (Option (List Nat)) :=
  (List.range 16).flatMap (fun t => (List.range 1024).flatMap (fun j => (List.range 32).map (fun k =>
    some [orgAt o 0 + 32 * t + k, orgAt o 1 + j, orgAt o 2, orgAt o 3])))

/-- The companion coordinates of MXLB: slab, column (R295, R302). -/
def boxComp (o : List Nat) (g : Nat) : List (Option (List Nat)) :=
  (List.range 16).flatMap (fun t => (List.range 1024).map (fun j =>
    some [(orgAt o 0 + 32 * t) / g, orgAt o 1 + j, orgAt o 2, orgAt o 3]))

/-- The Canvas' elements: row, column (R304, R306). -/
def boxC (o : List Nat) : List (Option (List Nat)) :=
  (List.range 128).flatMap (fun i => (List.range 1024).map (fun j =>
    some [orgAt o 0 + j, orgAt o 1 + i, orgAt o 2, orgAt o 3]))

/-- `n` elements along dimension 0 from `o` (R306). -/
def boxLine (o n : Nat) : List (Option (List Nat)) := (List.range n).map (fun i => some [o + i, 0, 0, 0])

/-- The bit addresses of a box's elements inside an entry's extents. -/
def boxBits (e : List Word) (l : List (Option (List Nat))) : List Int :=
  l.filterMap (fun c => c.bind (fun c => elemBit e (fun d => c.getD d 0)))

/-- The scratch pieces of a box; none for a global tensor. -/
def boxPieces (e : List Word) (l : List (Option (List Nat))) : List (Int × Nat) :=
  if isScratchEnt e then (boxBits e l).flatMap (elemPieces (codeWidth (palFormat e))) else []

/-! ### Checks at issue (R300, R303, R305, R308, R311, R312) -/

/-- The entry of an identifier among those captured. -/
def Step.ent (st : Step) (id : Nat) : List Word := cget (List.replicate 16 0) st.ents id

/-- TENSOR_ID_INVALID of the first unusable identifier of a list; 0 counts only where it must name an entry. -/
def badIds (ent : Nat → List Word) (must : List Nat) (may : List Nat) : Option Cause :=
  ((must ++ may.filter (· != 0)).find? (fun i => !palOk i (ent i))).map idCause

/-- An entry has no group companions. -/
def noCompanions (e : List Word) : Bool := entGroup e == 0 && entScale e == 0 && entZero e == 0

/-- Formats of A (R300). -/
def formatA (f : Nat) : Bool := [1, 3, 5, 6, 7, 8, 9].contains f
/-- Formats of B. -/
def formatB (f : Nat) : Bool := 1 ≤ f && f ≤ 9
/-- B's zero points are for UINT4 and UINT8. -/
def formatUint (f : Nat) : Bool := f == 2 || f == 4

def checkA (id : Nat) (e : List Word) : Option Cause :=
  if formatA (palFormat e) && noCompanions e then none else some (formatCause id)

/-- MXLB's entry and its companions (R295, R300). -/
def checkB (ent : Nat → List Word) (id : Nat) : Option Cause :=
  let e := ent id
  if !formatB (palFormat e) || ((entScale e != 0 || entZero e != 0) && entGroup e == 0) || decide (3 < entGroup e) ||
      (entZero e != 0 && !formatUint (palFormat e)) then some (formatCause id)
  else if entScale e ≠ 0 ∧ palFormat (ent (entScale e)) ≠ 8 then some (formatCause (entScale e))
  else if entZero e ≠ 0 ∧ palFormat (ent (entZero e)) ≠ 4 then some (formatCause (entZero e))
  else none

def checkCanvasIn (id : Nat) (e : List Word) : Option Cause :=
  if palFormat e == 10 && noCompanions e then none else some (formatCause id)

/-- The identifiers of the epilogue settings: row scale, column scale, bias (R305). -/
def epiIds (epi : List Word) : List Nat := (List.range 3).map (fun i => (epi.getD i 0).toNat % 256)

/-- The settings' entries are FP32 (R300, R305). -/
def checkEpiEnts (ent : Nat → List Word) (epi : List Word) : Option Cause :=
  ((epiIds epi).find? (fun i => i != 0 && !(palFormat (ent i) == 10 && noCompanions (ent i)))).map formatCause

/-- MODE of the settings. -/
def epiMode (epi : List Word) : Nat := (epi.getD 3 0).toNat % 8

/-- CVST's entry under the settings (R300, R306). -/
def checkOut (ent : Nat → List Word) (id : Nat) (epi : List Word) : Option Cause :=
  let f := palFormat (ent id)
  if 11 < f ∨ noCompanions (ent id) = false ∨ (epiMode epi = 4 ∧ (codeInt f).isSome) ∨ (epiMode epi = 4 ∧ f = 10) then
    some (formatCause id)
  else checkEpiEnts ent epi

/-- The settings' reserved bits and MODE (R305). -/
def checkEpiBits (w : List Word) : Option Cause :=
  if (w.take 3).any (fun x => x.toNat / 256 != 0) || decide (16 ≤ (w.getD 3 0).toNat) || decide (4 < epiMode w) then
    some (formatCause 0)
  else none

/-- MXTILE's operands (R312). -/
def tileIds (w : List Word) : Nat × Nat × Nat × Nat :=
  let x := (w.headD 0).toNat
  (bits x 7 0, bits x 15 8, bits x 23 16, bits x 31 24)
def tileBad (w : List Word) : Bool :=
  let m := (w.getD 5 0).toNat
  (w.getD 4 0) == 0 || m == 0 || decide (128 < m) || w.getD 6 0 != 0

/-- The epilogue settings a step issued now will find: those of the last MXEPI in the queue, else those in force. -/
def Engine.epiNext (e : Engine) : List Word :=
  e.queue.foldl (fun w st => if st.op = .mxepi then st.ws else w) e.epi

/-- An operation of the engine: a step's own, or one of those an MXTILE expands into (R312): the operation, its tensor and origin, and
MXLA's limit of K indices. -/
structure Micro where
  op : StepOp
  id : Nat := 0
  org : List Nat := []
  lim : Option Nat := none
  deriving DecidableEq, Repr, Inhabited

/-- What an MXTILE starts with, the operations of its pass `p`, and its drain (R312). -/
def Step.tileStart (st : Step) : Micro :=
  let w (i : Nat) : Nat := (st.ws.getD i 0).toNat
  let (_, _, _, ii) := tileIds st.ws
  if ii = 0 then { op := .cvzero } else { op := .cvld, id := ii, org := [w 2, w 1, w 7, 0] }
def Step.tilePart (st : Step) (p sub : Nat) : Micro :=
  let w (i : Nat) : Nat := (st.ws.getD i 0).toNat
  let (ia, ib, _, _) := tileIds st.ws
  match sub with
  | 0 => { op := .mxla, id := ia, org := [w 3 + 512 * p, w 1, w 7, 0], lim := some (w 3 + w 4) }
  | 1 => { op := .mxlb, id := ib, org := [w 3 + 512 * p, w 2, w 7, 0] }
  | _ => { op := .mxmm (w 5) }
def Step.tileEnd (st : Step) : Micro :=
  let w (i : Nat) : Nat := (st.ws.getD i 0).toNat
  let (_, _, io, _) := tileIds st.ws
  { op := .cvst, id := io, org := [w 2, w 1, w 7, 0] }

/-- The operation a step stands at; `pass` is the sequencer's position in an MXTILE (R312, R313). -/
def Step.micro (st : Step) (pass : Option Nat) : Micro :=
  match st.op with
  | .mxtile => match pass with
    | none => st.tileStart
    | some p => if 512 * p < (st.ws.getD 4 0).toNat then st.tilePart p st.sub else st.tileEnd
  | op => { op := op, id := st.pal, org := st.ws.map (·.toNat) }

/-- Every operation of a step. -/
def Step.micros (st : Step) : List Micro :=
  match st.op with
  | .mxtile =>
    st.tileStart :: (List.range (((st.ws.getD 4 0).toNat + 511) / 512)).flatMap (fun p => [st.tilePart p 0, st.tilePart p 1]) ++
      [st.tileEnd]
  | _ => [st.micro none]

/-- A box an operation reads or writes: entry, coordinates, and whether it writes. -/
abbrev Box := List Word × List (Option (List Nat)) × Bool

/-- The coordinate is wanted only where the output has an element there (R306). -/
def wanted (e : List Word) (at' : Nat → List Nat) (l : List (Option (List Nat))) : List (Option (List Nat)) :=
  l.zipIdx.map (fun p => if (elemBit e (fun d => (at' p.2).getD d 0)).isSome then p.1 else none)

/-- The boxes of an operation in the order in which it goes through them: MXLB's codes, scales and zero points (R302), a drain's row
scales, column scales and bias, those alone that some output element uses, and its output (R306). -/
def Micro.boxes (m : Micro) (st : Step) (epi : List Word) : List Box :=
  let e := st.ent m.id
  let o := orgAt m.org
  match m.op with
  | .mxla => [(e, boxA m.org m.lim, false)]
  | .mxlb =>
    let comp (id : Nat) : Box := (st.ent id, if id = 0 then [] else boxComp m.org (entGroupSize e), false)
    [(e, boxB m.org, false), comp (entScale e), comp (if formatUint (palFormat e) then entZero e else 0)]
  | .cvld => [(e, boxC m.org, false)]
  | .cvst =>
    let row (i : Nat) : List Nat := [o 0, o 1 + i, o 2, o 3]
    let col (j : Nat) : List Nat := [o 0 + j, o 1, o 2, o 3]
    let line (i : Nat) (l : List (Option (List Nat))) (at' : Nat → List Nat) : Box :=
      let id := (epiIds epi).getD i 0
      (st.ent id, if id = 0 then [] else wanted e at' l, false)
    [line 0 (boxLine (o 1) 128) row, line 1 (boxLine (o 0) 1024) col, line 2 (boxLine (o 0) 1024) col, (e, boxC m.org, true)]
  | _ => []

/-- What a step reads and writes (R266, R301-R306, R312). MXEPI itself touches no element. [DESIGN CHOICE, log 54] -/
def stepBoxes (st : Step) (epi : List Word) : List Box := st.micros.flatMap (fun m => m.boxes st epi)

/-- TENSOR_ID_INVALID, then MATRIX_FORMAT, of a step at issue (R311). -/
def stepChecks (st : Step) (ent : Nat → List Word) (epi : List Word) : Option Cause :=
  let comps (id : Nat) : List Nat := [entScale (ent id), entZero (ent id)]
  match st.op with
  | .mxla => (badIds ent [st.pal] []).orElse (fun _ => checkA st.pal (ent st.pal))
  | .mxlb => (badIds ent [st.pal] (comps st.pal)).orElse (fun _ => checkB ent st.pal)
  | .cvld => (badIds ent [st.pal] []).orElse (fun _ => checkCanvasIn st.pal (ent st.pal))
  | .cvst => (badIds ent [st.pal] (epiIds epi)).orElse (fun _ => checkOut ent st.pal epi)
  | .mxmm m => if m = 0 ∨ 128 < m then some (formatCause 0) else none
  | .mxepi => (badIds ent [] (epiIds st.ws)).orElse (fun _ => (checkEpiEnts ent st.ws).orElse (fun _ => checkEpiBits st.ws))
  | .cvzero => none
  | .mxtile =>
    let (ia, ib, io, ii) := tileIds st.ws
    (badIds ent [ia, ib, io] (ii :: comps ib ++ epiIds epi)).orElse (fun _ =>
      if tileBad st.ws then some (formatCause 0)
      else (checkA ia (ent ia)).orElse (fun _ => (checkB ent ib).orElse (fun _ =>
        (if ii = 0 then none else checkCanvasIn ii (ent ii)).orElse (fun _ => checkOut ent io epi))))

/-- The identifiers a step captures (R296). -/
def stepIds (st : Step) (ent : Nat → List Word) (epi : List Word) : List Nat :=
  let comps (id : Nat) : List Nat := [entScale (ent id), entZero (ent id)]
  (match st.op with
    | .mxla | .cvld => [st.pal]
    | .mxlb => st.pal :: comps st.pal
    | .cvst => st.pal :: epiIds epi
    | .mxtile =>
      let (ia, ib, io, ii) := tileIds st.ws
      [ia, ib, io, ii] ++ comps ib ++ epiIds epi
    | _ => []).eraseDups

/-- An MXEPI names a scratch entry (R305, R308). [DESIGN CHOICE, log 54] -/
def epiScratch (st : Step) (ent : Nat → List Word) : Bool :=
  st.op == .mxepi && (epiIds st.ws).any (fun i => i != 0 && isScratchEnt (ent i))

/-- SCRATCH_RANGE of a step that names scratch, through its boxes or as MXEPI does (`named`), while no crew is current or the
current one has retired, and of a box outside the footprint (R298, R308); a pre-empted current crew counts as none.
[DESIGN CHOICE, log 54] -/
def State.stepScratch (s : State) (cur : Option Nat) (named : Bool) (boxes : List Box) : Option Cause :=
  if named || boxes.any (fun b => isScratchEnt b.1) then
    match (cur.bind s.crew?).bind (fun c => c.at'.core?.bind (fun _ => match c.at' with
      | .on _ => some c
      | _ => none)) with
    | none => some { code := 0x46 }
    | some c =>
      (boxes.findSome? (fun b => (boxPieces b.1 b.2.1).find? (fun p => decide (p.1 < 0 ∨ (c.scratchSize : Int) < p.1 + p.2)))).map
        (fun p => { code := 0x46, detail := BitVec.ofInt 64 (p.1 % 2 ^ 32), faddr := BitVec.ofInt 64 (p.1 % 2 ^ 32) })
  else none

/-- Pieces as scratch bytes. -/
def pieceBytes (l : List (Int × Nat)) : List (Nat × Nat) := l.map (fun p => ((p.1 % 2 ^ 32).toNat, p.2))

/-- Post a checked step: with scratch it enters the current crew's streamer (R307, R308). -/
def State.postStep (s : State) (k ctx : Nat) (st : Step) (boxes : List Box) : State :=
  let e := s.engine k
  let before := s.next
  let put (s : State) (st : Step) : State :=
    s.updEngine k (fun e => { e with queue := e.queue ++ [{ st with id := e.nextStep, before := before }], nextStep := e.nextStep + 1 })
  match (if boxes.any (fun b => isScratchEnt b.1) then e.cur.bind s.crew? else none) with
  | some c =>
    let (i, s) := s.fresh
    let foot (w : Bool) : List (Nat × Nat) :=
      pieceBytes ((boxes.filter (fun b => b.2.2 == w)).flatMap (fun b => boxPieces b.1 b.2.1))
    let j : Job := { id := i, core := c.at'.core?.getD 0, crew := c.id, ctx := ctx, kind := .easel, owner := none,
                     footR := foot false, footW := foot true, sealed := true, step := some (k, e.nextStep) }
    put { s with jobs := s.jobs ++ [j] } { st with crew := some c.id, job := some i }
  | none => put s st

/-- The step an instruction asks for: opcode, identifier and words, with the Palette entries it captures (R296, R307).
[DESIGN CHOICE, log 54] -/
def State.stepFor (s : State) (k ctx : Nat) (m : StepOp × Nat × List Word) : Step :=
  let st : Step := { id := 0, op := m.1, pal := m.2.1, ws := m.2.2 }
  let ents := (stepIds st (s.palEntry ctx) (s.engine k).epiNext).foldl
    (fun c i => cset (List.replicate 16 0) c i (s.palEntry ctx i)) []
  { st with ents := ents }

/-- The issue of a step (R307, R310, R311). -/
def stepBody (mk : Vals → StepOp × Nat × List Word) : Actor → Thread → Vals → State → Body :=
  easelBody (fun k t v s =>
    let e := s.engine k
    if 16 ≤ e.queue.length then .stay .none
    else
      let st := s.stepFor k t.ctx (mk v)
      let boxes := stepBoxes st e.epiNext
      match stepChecks st (s.palEntry t.ctx) e.epiNext with
      | some c => .raise c s
      | none => match s.stepScratch e.cur (epiScratch st (s.palEntry t.ctx)) boxes with
        | some c => .raise c s
        | none => .done [] (s.postStep k t.ctx st boxes))

/-- MXLA (R301). -/
def execMxla (x : Args) (s : State) : Out := issue s (issOf (.mxla x)) (stepBody (fun v => (.mxla, palId x v, v.a)))

/-- MXLB (R302). -/
def execMxlb (x : Args) (s : State) : Out := issue s (issOf (.mxlb x)) (stepBody (fun v => (.mxlb, palId x v, v.a)))

/-- MXMM (R303): the immediate, or the whole value of register C. -/
def execMxmm (x : Args) (s : State) : Out :=
  issue s (issOf (.mxmm x)) (stepBody (fun v => (.mxmm (match x.c with
    | .imm i => i.toNat
    | _ => (v.c.headD 0).toNat), 0, [])))

/-- MXEPI (R305). -/
def execMxepi (x : Args) (s : State) : Out := issue s (issOf (.mxepi x)) (stepBody (fun v => (.mxepi, 0, v.a)))

/-- MXTILE (R312). -/
def execMxtile (x : Args) (s : State) : Out := issue s (issOf (.mxtile x)) (stepBody (fun v => (.mxtile, 0, v.a)))

/-- CVZERO (R304). -/
def execCvzero (x : Args) (s : State) : Out := issue s (issOf (.cvzero x)) (stepBody (fun _ => (.cvzero, 0, [])))

/-- CVLD (R304). -/
def execCvld (x : Args) (s : State) : Out := issue s (issOf (.cvld x)) (stepBody (fun v => (.cvld, palId x v, v.a)))

/-- CVST (R306). -/
def execCvst (x : Args) (s : State) : Out := issue s (issOf (.cvst x)) (stepBody (fun v => (.cvst, palId x v, v.a)))

/-- MXSYNC (R309): it holds until every earlier step has finished, then raises what is pending. -/
def execMxsync (x : Args) (s : State) : Out :=
  issue s (issOf (.mxsync x)) (easelBody (fun k _ _ s => if (s.engine k).queue.isEmpty then .done [] s else .stay .none))

/-- The requests of a mailbox without the one that MBXPOP takes: the first whose words are there and before which its thread has posted
none whose words are still to come (R236, R292). [DESIGN CHOICE, log 53] -/
def popRequest : List MailReq → List Actor → Option (MailReq × List Word × List MailReq)
  | [], _ => none
  | r :: l, held => match r.words with
    | some ws =>
      if held.contains r.owner then (popRequest l held).map (fun x => (x.1, x.2.1, r :: x.2.2)) else some (r, ws, l)
    | none => (popRequest l (r.owner :: held)).map (fun x => (x.1, x.2.1, r :: x.2.2))

/-- MBXPOP (R292). -/
def execMbxpop (x : Args) (tr : Bool) (s : State) : Out :=
  issue s (issOf (.mbxpop x tr)) (easelBody (fun k _ _ s =>
    let setP (s : State) (b : Bool) : State := match tr, x.c with
      | true, .pred n => s.updThread (.easel k) (fun t => t.setPred n.toNat b)
      | _, _ => s
    match popRequest (s.engine k).mailbox [] with
    | none => if tr then .done [] (setP s false) else .stay .mailbox
    | some (r, ws, l) => .done ws (setP (s.updEngine k (fun e => { e with mailbox := l, cur := some (crewOf r.owner) })) true)))

/-- MBXDONE's body (R293): the store follows once the earlier steps have finished. -/
def mbxdoneBody (off : Int) : Actor → Thread → Vals → State → Body :=
  easelBody (fun k t v s => match s.reach (.easel k) t .store .g (memEa .g v.a off) 4 with
    | (.go ea _, s) => .done [] (s.updEngine k (fun e =>
        { e with mbxdones := e.mbxdones ++ [⟨((e.queue.getLast?).map (·.id)).getD 0, s.next, ea, v.c.headD 0⟩] }))
    | (r, s) => missBody r s (accessWord .store 0 4) none)

/-- MBXDONE (R293). -/
def execMbxdone (x : Args) (s : State) : Out := issue s (issOf (.mbxdone x)) (mbxdoneBody (offsetOf x))

/-- MBXDONE with its offset in the literal. -/
def execMbxdoneLong (x : Args) (lit : Word) (s : State) : Out :=
  issue s (issOf (.mbxdoneLong x lit)) (mbxdoneBody lit.toInt)

/-! ### Reading and writing elements (R298, R308) -/

/-- The path of the engine's global accesses: at the home (R308). -/
def enginePort (ctx : Nat) : Port := ⟨ctx, 0, false, none⟩

/-- One element's code. -/
def State.elemRead (s : State) (ctx crew : Nat) (e : List Word) (b : Int) : Except Reach Nat × State :=
  let w := codeWidth (palFormat e)
  let sh := (b % 8).toNat
  if isScratchEnt e then match s.scratchStop crew w b .load with
    | some r => (.error r, s)
    | none => (.ok ((s.readPieces crew (enginePort ctx) true (scratchPieces w b)).1 / 2 ^ sh % 2 ^ w), s)
  else
    let ps := elemPieces w b
    match s.jobReach ctx .load ps with
    | (.error r, s) => (.error r, s)
    | (.ok l, s) =>
      let r := s.readPieces crew (enginePort ctx) false (l.zip (ps.map (·.2)))
      if r.2.1 then (.error (.bad (dataCause (BitVec.ofInt 64 (b / 8)) .load .g (ps.headD (0, 1)).2)), r.2.2)
      else (.ok (r.1 / 2 ^ sh % 2 ^ w), r.2.2)

/-- The elements of a box inside the extents: place in the box, bit address, and transfer unit (R264). -/
def boxCut (e : List Word) (l : List (Option (List Nat))) : List ((Nat × Int) × Nat) :=
  let es := l.zipIdx.filterMap (fun p => (p.1.bind (fun c => elemBit e (fun d => c.getD d 0))).map (fun b => (p.2, b)))
  es.zip (cutUnits (unitCap (codeWidth (palFormat e))) [] (es.map (fun x => (x.2 / 8 % 2 ^ 64).toNat / 256)))

/-- Read the elements of a transfer unit; the codes by place in the box. -/
def State.elemsRead (s : State) (ctx crew : Nat) (e : List Word) (c : Cells Nat) : List (Nat × Int) → Except Reach (Cells Nat) × State
  | [] => (.ok c, s)
  | (i, b) :: r => match s.elemRead ctx crew e b with
    | (.error x, s) => (.error x, s)
    | (.ok v, s) => s.elemsRead ctx crew e (aset c i v) r

/-- Write one element's code. -/
def State.elemWrite (s : State) (ctx crew : Nat) (e : List Word) (b : Int) (v : Nat) : Option Reach × State :=
  let w := codeWidth (palFormat e)
  let sh := (b % 8).toNat
  if isScratchEnt e then match scratchBad w b .store with
    | some r => (some r, s)
    | none => (none, s.writeElem crew (enginePort ctx) true w sh v (scratchPieces w b))
  else
    let ps := elemPieces w b
    match s.jobReach ctx .store ps with
    | (.error r, s) => (some r, s)
    | (.ok l, s) => (none, s.writeElem crew (enginePort ctx) false w sh v (l.zip (ps.map (·.2))))

/-- Write elements in order until one stops. -/
def State.elemsWrite (s : State) (ctx crew : Nat) (e : List Word) : List (Int × Nat) → Option Reach × State
  | [] => (none, s)
  | (b, v) :: r => match s.elemWrite ctx crew e b v with
    | (none, s) => s.elemsWrite ctx crew e r
    | x => x

/-- A list as cells without the default. -/
def cellsOf {α : Type} [DecidableEq α] (d : α) (l : List α) : Cells α :=
  (l.zipIdx.map (fun p => (p.2, p.1))).filter (fun p => decide (p.2 ≠ d))

/-! ### Numbers (R87, R92-R95) -/

/-- The exponent of a nonzero finite code: a subnormal's is the format's minimum (R87). -/
def alignExp (f : Nat) (n d : Nat) : Int :=
  match codeIeee f with
  | some g => max (ilog2 n d) g.emin
  | none => ilog2 n d

/-- Align (R87): significands of P magnitude bits and the shared exponent. -/
def alignCodes (f p : Nat) (codes : List Nat) : List Int × Int :=
  let xs := codes.map (decodeCode f)
  let es := xs.filterMap (fun x => match x with
    | .fin _ n d => if n = 0 then none else some (alignExp f n d)
    | _ => none)
  let e : Int := match es with
    | [] => 0
    | x :: r => r.foldl max x
  (xs.map (fun x => match x with
    | .fin s n d =>
      let r := scale2 n d ((p : Int) - 1 - e)
      let q : Int := (r.1 / r.2 : Nat)
      if s then -q else q
    | _ => 0), e - p + 1)

/-- Bit planes of an A format (R286, R87). -/
def planesOf (f : Nat) : Nat :=
  match f with
  | 1 => 4
  | 5 => 6
  | 3 | 6 => 8
  | 7 => 12
  | _ => 16

/-- An integer code's value. -/
def codeValue (f c : Nat) : Int :=
  match codeInt f with
  | some (signed, w) => if signed then sint w c else (c : Int)
  | none => 0

/-- The significands and exponent of 32 codes: aligned, or raw for integers (R87, R301, R302). -/
def slabOf (f p : Nat) (codes : List Nat) : List Int × Int :=
  if (codeInt f).isSome then (codes.map (codeValue f), 0) else alignCodes f p codes

/-- A code that makes V a NaN: NaN or an infinity (R94). -/
def badCode (f c : Nat) : Bool :=
  match decodeCode f c with
  | .fin _ _ _ => false
  | _ => true

/-- 2^x as an exact value. -/
def pow2 (x : Int) : Exact :=
  let r := scale2 1 1 x
  .fin false r.1 r.2

/-- The dot product of two lists. -/
def dotInt : List Int → List Int → Int
  | a :: r, b :: q => a * b + dotInt r q
  | _, _ => 0

/-- The codes of row `i` of the row buffer. -/
def Engine.rowCodes (e : Engine) (i : Nat) : List Nat := (List.range 512).map (fun k => (cget 0 e.rowbuf (512 * i + k)).toNat)

/-- V(i, j) of R92, none where R94 makes it a NaN. -/
def Engine.value (e : Engine) (i j : Nat) : Option Exact :=
  let row := e.rowCodes i
  let gs (t : Nat) : Exact := fp16.decode (cget 0x3C00 e.gscale (1024 * t + j)).toNat
  let fin (x : Exact) : Bool := match x with
    | .fin _ _ _ => true
    | _ => false
  if row.any (badCode e.rowFmt) || e.gnan.contains j || (List.range 16).any (fun t => !fin (gs t)) then none
  else
    let v := (List.range 16).foldl (fun (acc : Exact) t =>
      let a := slabOf e.rowFmt (planesOf e.rowFmt - 1) ((row.drop (32 * t)).take 32)
      let z : Int := (cget 0 e.gz (1024 * t + j) : Nat)
      let b := (List.range 32).map (fun k => cget 0 e.ground ((1024 * t + j) * 32 + k) - z)
      acc.add .rne (((Exact.ofInt (dotInt a.1 b)).mul (gs t)).mul (pow2 (a.2 + cget 0 e.geb (1024 * t + j)))))
      (.fin false 0 1)
    some (if v.isZero then .fin false 0 1 else v)

/-- One Canvas element after a pass (R93, R94). -/
def Engine.passed (e : Engine) (i j : Nat) : Word :=
  match e.value i j with
  | none => 0x7FC00000
  | some v => word (fAdd fp32 .rne (cget 0 e.canvas (1024 * i + j)).toNat (fp32.round .rne v))

/-- A pass over rows 0 to m-1 (R303). -/
def Engine.pass (e : Engine) (m : Nat) : Engine :=
  { e with canvas := cellsOf 0 ((List.range (128 * 1024)).map (fun x =>
      if x / 1024 < m then e.passed (x / 1024) (x % 1024) else cget 0 e.canvas x)) }

/-- The rounding code of a MODE (R305). -/
def modeRnd (m : Nat) : Rnd :=
  match m with
  | 1 => .rz
  | 2 => .ru
  | 3 => .rd
  | 4 => .sr
  | _ => .rne

/-- y of the drain (R306), exact. The sign of an exact zero that the bias makes from unlike terms is R88's in MODE's direction; under MODE 4
(sr), which R88 does not name, it is +0. [DESIGN CHOICE, log 63] -/
def drainValue (m : Rnd) (canvas : Word) (rs cs bias : Option Nat) (biased : Bool) : Exact :=
  let one : Exact := .fin false 1 1
  let get (x : Option Nat) (d : Exact) : Exact := (x.map fp32.decode).getD d
  let y := ((fp32.decode canvas.toNat).mul (get rs one)).mul (get cs one)
  if biased then y.add m (get bias (.fin false 0 1)) else y

/-! ### Performing steps (R301-R306, R310, R312) -/

/-- Store MXLA's codes (R301). -/
def Engine.putA (e : Engine) (f : Nat) (l : List (Option Nat)) : Engine :=
  { e with rowbuf := cellsOf 0 (l.map (fun c => BitVec.ofNat 16 (c.getD 0))), rowFmt := f }

/-- Store MXLB's codes, scales and zero points (R302): lists by slab, column and k. -/
def Engine.putB (e : Engine) (f : Nat) (l sc ze : List (Option Nat)) : Engine :=
  let floats := (codeInt f).isNone
  let cols := List.range (16 * 1024)
  let z (x : Nat) : Nat := ((ze.getD x none).getD 0)
  let slab (x : Nat) : List Int × Int :=
    let cs := (l.drop (32 * x)).take 32
    if floats then alignCodes f 15 (cs.map (fun c => c.getD 0))
    else (cs.map (fun c => match c with
      | some v => codeValue f v
      | none => (z x : Int)), 0)
  { e with
    ground := cellsOf 0 (cols.flatMap (fun x => (slab x).1)), gFmt := f
    geb := cellsOf 0 (cols.map (fun x => (slab x).2))
    gscale := cellsOf 0x3C00 (cols.map (fun x => BitVec.ofNat 16 ((sc.getD x none).getD 0x3C00)))
    gz := cellsOf 0 (cols.map z)
    badGround := false
    gnan := if floats then (List.range 1024).filter (fun j => (List.range 16).any (fun t =>
        ((l.drop (32 * (1024 * t + j))).take 32).any (fun c => badCode f (c.getD 0)))) else [] }

/-- The launch whose seed and modes govern the drain (R288, R306). -/
def State.enginePkt (s : State) (k : Nat) : Packet := (s.engine k).pkt

/-- The rounding nibble of output element (n, m) (R306). -/
def drainNibble (pk : Packet) (id n m : Nat) : Nat :=
  blockNibble (gen pk (word (n / 32)) 1 0 (dw (word m) (0x80000000 ||| word id))) n

/-- y and the code of element `x` of the drain, from the Canvas and the scales and bias read (R306). -/
def State.drainElem (s : State) (k : Nat) (st : Step) (m : Micro) (x : Nat) : Exact × Nat :=
  let g := s.engine k
  let i := x / 1024
  let j := x % 1024
  let md := modeRnd (epiMode g.epi)
  let line (n t : Nat) : Option Nat := (st.got.getD n []).getD t none
  let y := drainValue md (cget 0 g.canvas x) (line 0 i) (line 1 j) (line 2 j) ((epiIds g.epi).getD 2 0 != 0)
  (y, encodeCode (palFormat (st.ent m.id)) md (drainNibble (s.enginePkt k) m.id (orgAt m.org 0 + j) (orgAt m.org 1 + i)) y)

/-- What an operation does once it has gone through its boxes (R301-R306). -/
def State.endMicro (s : State) (k ctx : Nat) (st : Step) (m : Micro) : State :=
  let e := st.ent m.id
  let got (i : Nat) : List (Option Nat) := st.got.getD i []
  match m.op with
  | .mxla => s.updEngine k (fun g => g.putA (palFormat e) (got 0))
  | .mxlb => s.updEngine k (fun g => g.putB (palFormat e) (got 0) (got 1) (got 2))
  | .mxmm n => s.updEngine k (fun g => g.pass n)
  | .mxepi => s.updEngine k (fun g => { g with epi := st.ws })
  | .cvzero => s.updEngine k (fun g => { g with canvas := [], badRows := [] })
  | .cvld => s.updEngine k (fun g => { g with canvas := cellsOf 0 ((got 0).map (fun c => word (c.getD 0))), badRows := [] })
  | .cvst =>
    if ((s.engine k).epi.getD 3 0).getLsbD 3 then
      s.captureAmax ctx m.id (amaxAll ((boxCut e (boxC m.org)).map (fun x => (s.drainElem k st m x.1.1).1)))
    else s
  | .mxtile => s

/-- The free contents that a failed operation leaves in the rows it was writing (R310). [DESIGN CHOICE, log 54] -/
def State.spoilStep (s : State) (k : Nat) (op : StepOp) : State :=
  let s' := { s with tick := s.tick + 16 }
  let half (x : Nat) : Half := (s.fw x).setWidth 16
  match op with
  | .mxla => s'.updEngine k (fun g => { g with rowbuf := cellsOf 0 ((List.range 65536).map half) })
  | .mxlb => s'.updEngine k (fun g => { g with
      ground := cellsOf 0 ((List.range 524288).map (fun x => (half x).toInt)),
      geb := cellsOf 0 ((List.range 16384).map (fun x => (half (524288 + x)).toInt)),
      gscale := cellsOf 0x3C00 ((List.range 16384).map (fun x => half (540672 + x))),
      gz := cellsOf 0 ((List.range 16384).map (fun x => (half (557056 + x)).toNat % 256)),
      gnan := if (codeInt g.gFmt).isNone then (List.range 1024).filter (fun j => (half (573440 + j)).getLsbD 0) else [] })
  | .cvld => s'.updEngine k (fun g => { g with canvas := cellsOf 0 ((List.range 131072).map s.fw) })
  | .mxmm n => s'.updEngine k (fun g => { g with canvas := cellsOf 0 ((List.range 131072).map (fun x =>
      if x / 1024 < n then s.fw x else cget 0 g.canvas x)) })
  | _ => s'

/-- Remove the streamer jobs of steps. -/
def State.dropStepJobs (s : State) (k : Nat) (p : Nat → Bool) : State :=
  { s with jobs := s.jobs.filter (fun j => match j.step with
    | some (c, n) => !(c == k && p n)
    | none => true) }

/-- A step ends by a fault: its cause pends, later steps and the MBXDONEs that wait for it are discarded (R310, R293).
[DESIGN CHOICE, log 54] -/
def State.stepFault (s : State) (k : Nat) (st : Step) (c : Cause) : State :=
  let s := s.spoilStep k (st.micro (s.engine k).tilePass).op
  (s.dropStepJobs k (fun _ => true)).updEngine k (fun g =>
    { g with pending := some (g.pending.getD c), queue := [], tilePass := none,
             mbxdones := g.mbxdones.filter (fun m => decide (m.after < st.id)) })

/-- A step has finished: it leaves the queue, and its streamer job has finished (R267, R307). -/
def State.stepDone (s : State) (k : Nat) (st : Step) : State :=
  (s.dropStepJobs k (· == st.id)).updEngine k (fun g => { g with queue := g.queue.tail, tilePass := none })

/-- Change the step at the head of the queue. -/
def State.updHead (s : State) (k : Nat) (f : Step → Step) : State :=
  s.updEngine k (fun g => { g with queue := match g.queue with
    | h :: r => f h :: r
    | [] => [] })

/-- A pass reads the Ground, or a Canvas row, whose check fails (R451, R452). [DEDUCED, log 32] -/
def Engine.fails (e : Engine) (op : StepOp) : Bool :=
  match op with
  | .mxmm n => e.badGround || e.badRows.any (fun i => decide (i < n))
  | _ => false

/-- The operation's boxes are left behind. -/
def Step.fresh (st : Step) : Step := { st with phase := 0, got := [], units := [], codes := [] }

/-- An operation has gone through its boxes: it takes effect, and the step is whole, or the sequencer goes on to the next operation of
the MXTILE (R312, R313). -/
def State.endPart (s : State) (k ctx : Nat) (st : Step) (m : Micro) : State :=
  if (s.engine k).fails m.op then s.stepFault k st { code := 0x44 } else
  let s := s.endMicro k ctx st m
  if st.op ≠ .mxtile ∨ m.op = .cvst then s.stepDone k st
  else
    let go (pass : Option Nat) (sub : Nat) : State :=
      (s.updHead k (fun h => { h.fresh with sub := sub })).updEngine k (fun g => { g with tilePass := pass })
    match (s.engine k).tilePass with
    | none => go (some 0) 0
    | some p => if st.sub < 2 then go (some p) (st.sub + 1) else go (some (p + 1)) 0

/-- Charge a transfer unit of a box in scratch to the crew's BANKCONF (R264, R298). -/
def State.chargeBox (s : State) (st : Step) (e : List Word) (es : List (Nat × Int)) : State :=
  match st.crew with
  | some c =>
    if isScratchEnt e then
      s.addBankconf c (bankExcess ((es.flatMap (fun x => (elemPieces (codeWidth (palFormat e)) x.2).map (fun p => (p.1 / 8).toNat))).eraseDups))
    else s
  | none => s

/-- Move one transfer unit of a box: what stops it, and the codes read so far (R264, R301-R306); a drain of a Canvas row whose check fails
stops (R451, R452). -/
def State.moveBox (s : State) (k ctx : Nat) (st : Step) (m : Micro) (b : Box) (es : List (Nat × Int)) :
    Except Reach (Cells Nat) × State :=
  let crew := st.crew.getD 0
  if b.2.2 then
    if es.any (fun x => (s.engine k).badRows.contains (x.1 / 1024)) then (.error (.bad { code := 0x44 }), s)
    else match s.elemsWrite ctx crew b.1 (es.map (fun x => (x.2, (s.drainElem k st m x.1).2))) with
    | (some r, s) => (.error r, s)
    | (none, s) => (.ok [], s)
  else s.elemsRead ctx crew b.1 st.codes es

/-- The step at the head waits (R267, R282, R289, R308, R429): for jobs before its own, for a saved crew, for scalar writes before it. -/
def State.stepWaits (s : State) (k : Nat) (st : Step) : Bool :=
  st.park.isSome ||
  (match st.job.bind s.job? with
    | some j => !s.jobClear j || (j.footR.isEmpty && j.footW.isEmpty && !(s.earlierJobs j).all Job.begun)
    | none => false) ||
  (match st.crew.bind s.crew? with
    | some c => c.at'.core?.isNone
    | none => false) ||
  (s.flightsOf (.easel k)).any (fun f => decide (f.id < st.before) && f.work.fenced)

/-- The step has begun, and so has its streamer's job (R282). -/
def State.stepBegins (s : State) (st : Step) : State :=
  match st.job with
  | some j => s.updJob j (fun x => { x with st := .started })
  | none => s

/-- The step parks at an absent page, and with it its streamer's job (R310, R284). -/
def State.parkStep (s : State) (k ctx : Nat) (st : Step) (b : Box) (ea : Dword) : State :=
  let who := ((s.thread? (.easel k)).map (·.pc)).getD 0
  let acc := accessWord (if b.2.2 then .store else .load) 0 (max 1 (codeWidth (palFormat b.1) / 8))
  let (i, s) := s.parkAt (.step k) ctx ea who acc 3
  let s := s.updHead k (fun h => { h with park := some i })
  match st.job with
  | some j => s.updJob j (fun x => { x with park := some i })
  | none => s

/-- One transfer unit of a box, or the box's end (R264, R307). R264 leaves the order of the units open: the model takes them in the order of
the box's elements. [DESIGN CHOICE, log 54] -/
def State.stepBox (s : State) (k ctx : Nat) (st : Step) (m : Micro) (b : Box) : State :=
  let l := boxCut b.1 b.2.1
  match l.find? (fun x => !st.units.contains x.2) with
  | none => s.updHead k (fun h => { h with
      phase := h.phase + 1, got := h.got ++ [(List.range b.2.1.length).map (fun i => aget st.codes i)], units := [], codes := [] })
  | some u =>
    let es := (l.filter (fun x => x.2 == u.2)).map (·.1)
    match (s.stepBegins st).moveBox k ctx st m b es with
    | (.ok c, s) =>
      let s := (s.chargeBox st b.1 es).updHead k (fun h => { h with units := u.2 :: h.units, codes := c })
      match st.crew with
      | some c => s.jobMoved c
      | none => s
    | (.error (.absent ea), s) => s.parkStep k ctx st b ea
    | (.error (.bad c), s) => s.stepFault k st c
    | (.error _, s) => s

/-- MATRIX_STEP_EXECUTE: the engine moves the next transfer unit of the oldest queued step, passes to its next box, or finishes its
operation (R264, R307, R310, R312). A step with scratch waits for overlapping earlier jobs (R267, R308). [DESIGN CHOICE, log 54] -/
def execMatrixStepExecute (k : Nat) (s : State) : Out :=
  let e := s.engine k
  match e.queue, e.owner with
  | st :: _, some ctx =>
    if s.stepWaits k st then .next s
    else
      let m := st.micro e.tilePass
      .next (match (m.boxes st e.epi)[st.phase]? with
        | some b => s.stepBox k ctx st m b
        | none => s.endPart k ctx st m)
  | _, _ => .next s

/-- MBXDONE_STORE: every step and every write issued before the oldest MBXDONE has finished, and its value is stored at the home as a
release at DEVICE scope (R244, R293). [DESIGN CHOICE, log 54] -/
def execMbxdoneStore (k : Nat) (s : State) : Out :=
  let e := s.engine k
  match e.mbxdones, e.owner with
  | m :: r, some ctx =>
    if e.queue.any (fun st => decide (st.id ≤ m.after)) ∨
        (s.flightsOf (.easel k)).any (fun f => decide (f.id < m.before) && f.work.fenced) then .next s
    else match s.placeOf ctx m.ea with
      | some pa => .next ((((s.fixLoads pa 4).homeWrite pa 4 m.v.toNat).stampCopies).updEngine k (fun g => { g with mbxdones := r }))
      | none => .next s
  | _, _ => .next s

end Sys2Proof.Machine
end

