-- ==== Sys2Proof/Machine/Launch.lean ====
section
/-! DEFINITION. Launch packets, their checks, acceptance and completion (R410, R411, R419-R424), and the placement of crews (R20-R22,
R425-R428, R435). -/

namespace Sys2Proof.Machine

/-! ### Reading at the homes -/

/-- What a read of the device itself meets. -/
inductive HomeAns where
  | ok (ws : List Word) (s : State)
  | bad (code : Nat) (s : State)
  | absent (ea : Dword) (s : State)

/-- `n` words that lie on one page, at their home. -/
def State.homeWords (s : State) (ctx : Nat) (k : Acc) (ea n : Nat) : HomeAns :=
  match s.translate ctx k (dword ea) with
  | (.ok pa, s) =>
    if s.badData pa (4 * n) then .bad 0x44 s
    else .ok ((List.range n).map (fun i => word (s.homeRead (pa + 4 * i) 4))) s
  | (.bad c, s) => .bad c s
  | (.absent, s) => .absent (dword ea) s

/-- `n` lines of 64 bytes from an address that is a multiple of 32. -/
def State.homeLines (s : State) (ctx : Nat) (k : Acc) (ea : Nat) : Nat → HomeAns
  | 0 => .ok [] s
  | n + 1 => match s.homeWords ctx k ea 16 with
    | .ok ws s => match s.homeLines ctx k (ea + 64) n with
      | .ok rest s => .ok (ws ++ rest) s
      | r => r
    | r => r

/-! ### The packet (R419) -/

def wAt (ws : List Word) (i : Nat) : Nat := (ws.getD i 0).toNat
def dAt (ws : List Word) (i : Nat) : Nat := wAt ws i + 2 ^ 32 * wAt ws (i + 1)
/-- Byte `i` of words. -/
def bAt (ws : List Word) (i : Nat) : Nat := wAt ws (i / 4) / 2 ^ (8 * (i % 4)) % 256

/-- The packet's fields (R419). -/
def packetOf (w : List Word) : Packet where
  prio := bits (wAt w 0) 10 8
  deterministic := (wAt w 0).testBit 16
  ordered := (wAt w 0).testBit 17
  record := (wAt w 0).testBit 18
  replay := (wAt w 0).testBit 19
  enumerate := (wAt w 0).testBit 20
  regs := bAt w 4
  squads := bAt w 5
  producer := bAt w 6
  choiceC := bAt w 7
  scratch := wAt w 2
  privSize := wAt w 3
  kentry := dword (dAt w 4)
  sentry := dword (dAt w 6)
  hentry := dword (dAt w 8)
  eentry := dword (dAt w 10)
  w := (List.range 6).map (fun i => bAt w (48 + i))
  e := (List.range 6).map (fun i => wAt w (14 + i))
  seed := dword (dAt w 20)
  cvbase := dword (dAt w 22)
  palimg := dword (dAt w 24)
  palcount := wAt w 26
  spawnq := wAt w 27 % 65536
  shape := (w.drop 28).take 8
  disptab := dword (dAt w 36)
  rolelow := bAt w 152
  rolehigh := bAt w 153
  roletime := wAt w 39
  rolepops := wAt w 40
  ageLimit := wAt w 41 % 65536
  raypool := dword (dAt w 42)
  raycount := wAt w 44
  valecount := wAt w 45
  valetab := dword (dAt w 46)
  doneaddr := dword (dAt w 48)
  donevalue := w.getD 50 0

/-- Reserved bits of a packet: first bit and count; SPAWNQ too unless ORDERED (R419). -/
def reservedRuns (ordered : Bool) : List (Nat × Nat) :=
  [(11, 5), (21, 11), (432, 16), (880, 16), (1232, 16), (1328, 16), (1536, 4), (1632, 416)] ++
  (if ordered then [] else [(864, 16)])

/-- The lowest nonzero reserved bit of a packet. -/
def reservedBit (w : List Word) (ordered : Bool) : Option Nat :=
  (List.range 2048).find? (fun i => (wAt w (i / 32)).testBit (i % 32) &&
    (reservedRuns ordered).any (fun r => decide (r.1 ≤ i ∧ i < r.1 + r.2)))

/-- The lowest offset among failing fields. [DEDUCED, log 42] -/
def failAt (l : List (Nat × Bool)) : Option Nat :=
  l.foldl (fun m x => if x.2 then (match m with
    | some o => some (min o x.1)
    | none => some x.1) else m) none

/-- A status with the lowest offset that fails it. -/
def statusAt (code : Nat) (l : List (Nat × Bool)) : Option (Nat × Nat) := (failAt l).map (fun o => (code, o))

/-- The product of extents `i` .. 5. -/
def Packet.extents (p : Packet) (i : Nat) : Nat := ((p.e.drop i).foldl (· * ·) 1)

/-- R14. -/
def Packet.shapeFails (p : Packet) : List (Nat × Bool) :=
  [(48, p.width 0 != 5 || decide (64 < p.w.foldl (· + ·) 0)), (49, decide (5 < p.width 1))] ++
  ([2, 3, 4, 5].map (fun i => (48 + i, decide (32 < p.width i)))) ++
  ((List.range 6).map (fun i => (56 + 4 * i, p.extent i == 0 || decide (2 ^ p.width i < p.extent i))))

/-- Compute squads of one of the launch's crews (R15, R363), and its squads with their shadows (R42). -/
def Packet.crewSquads (p : Packet) : Nat := if p.ordered then 1 else p.squads
def Packet.shadows (p : Packet) : Bool := p.sentry != 0
def Packet.allSquads (p : Packet) : Nat := p.crewSquads * (if p.shadows then 2 else 1)

/-- The statuses 0x01-0x04, and those of 0x05 that the packet alone decides (R423). [DEDUCED, log 42] -/
def Packet.status1 (p : Packet) : Option (Nat × Nat) :=
  let entryBad (a : Dword) : Bool := a.toNat % 4 != 0
  let choice : Bool := p.record || p.replay
  (statusAt 0x01 (p.shapeFails ++ [(60, p.extent 1 != p.squads), (4, p.producer != 0xFF && decide (p.squads ≤ p.producer))])).or
  ((statusAt 0x02 [(16, p.kentry == 0 || entryBad p.kentry), (24, entryBad p.sentry), (32, p.hentry == 0 || entryBad p.hentry),
    (40, entryBad p.eentry)]).or
  ((statusAt 0x03 [(0, (p.record && p.replay) || (p.ordered && choice)), (4, choice && p.choiceC == 0),
    (88, choice && p.cvbase.toNat % 64 != 0), (4, !([0, 8, 16, 32, 64, 128].contains p.choiceC))]).or
  ((statusAt 0x04 [(4, p.regs == 0 || decide (224 < p.regs) || p.squads == 0 ||
      decide ((if p.shadows then 16 else 32) < p.squads) || decide (131072 < 32 * p.regs * p.allSquads)),
    (8, decide (393216 < p.scratch) || p.scratch % 8 != 0), (12, decide (1048576 < p.privSize) || p.privSize % 8 != 0)]).or
  (statusAt 0x05 [(104, p.palimg != 0 && decide (255 < p.palcount)), (96, p.palimg.toNat % 64 != 0)]))))

/-- A spawn queue as R364 asks, of the launch's context. [DESIGN CHOICE, log 43] -/
def State.spawnOk (s : State) (ctx q : Nat) : Bool :=
  match s.queue? q with
  | some x => decide (q < 2 ^ 15) && x.ctx == ctx && x.kind == 2 && x.esize == 3 && decide (8 ≤ x.spillLog)
  | none => false

/-- The statuses 0x07-0x0A (R423); RAYPOOL and VALETAB are global addresses, of a die code that there is (R388). [DEDUCED, log 42] -/
def State.status2 (s : State) (ctx : Nat) (w : List Word) (p : Packet) : Option (Nat × Nat) :=
  let ray (c : Bool) : Bool := p.raycount != 0 && c
  let off (a : Dword) : Bool := a.toNat % 64 != 0 || decide (6 ≤ a.toNat / 2 ^ 56)
  (statusAt 0x07 [(60, p.ordered && decide (255 < p.extents 1)), (108, p.ordered && !(s.spawnOk ctx p.spawnq)),
    (4, p.ordered && p.producer != 0xFF && p.producer != 0)]).or
  ((statusAt 0x08 [(176, decide (2 ^ 24 < p.raycount)), (168, ray (off p.raypool)), (184, ray (off p.valetab)),
    (180, ray (p.valecount == 0 || decide (2 ^ 28 < p.valecount))), (164, ray (p.ageLimit == 0))]).or
  ((statusAt 0x09 [(152, decide (64 < p.rolelow)), (153, decide (p.rolehigh < p.rolelow) || decide (64 < p.rolehigh)),
    (156, p.rolelow != 0 && p.roletime == 0), (160, p.rolelow != 0 && p.rolepops == 0)]).or
  (if bAt w 0 ≠ 1 then some (0x0A, 0) else (reservedBit w p.ordered).map (fun i => (0x0A, i / 8)))))

/-- An image entry has nonzero reserved bytes or a GROUP above 3 (R297, R423). -/
def imageBad (e : List Word) : Bool := ((e.drop 12).take 4).any (· != 0) || decide (3 < bAt e 41)

/-- A bucket breaks R411. -/
def bucketBad (p : Packet) (b : List Word) : Bool :=
  decide (2 ≤ wAt b 14) || wAt b 15 != 0 || wAt b 8 % 4 != 0 || wAt b 10 % 4 != 0 || wAt b 12 % 4 != 0 ||
  (dAt b 10 != 0) != (p.sentry != 0) || (dAt b 12 != 0) != (p.eentry != 0)

/-- A bucket's bounds hold (R410). -/
def bucketHolds (p : Packet) (b : List Word) : Bool := (List.range 8).all (fun i => decide ((p.shape.getD i 0).toNat ≤ wAt b i))

/-- Where a run of the dispatcher's reads stops short. -/
inductive Short where
  | bad
  | absent (ea : Dword)
  deriving DecidableEq, Repr, Inhabited

/-- Up to `n` entries of 64 bytes at their home, ended by the first that `more` does not hold of: those read, and where the reads stop
short. A page whose REPLAY has failed cannot be read (R449). [DEDUCED, log 42] -/
def State.readEntries (s : State) (ctx : Nat) (lost : List Nat) (more : List Word → Bool) (ea : Nat) :
    Nat → List (List Word) × Option Short × State
  | 0 => ([], none, s)
  | n + 1 =>
    if lost.contains (ea / 65536) then ([], some .bad, s)
    else match s.homeWords ctx .load ea 16 with
      | .bad _ s => ([], some .bad, s)
      | .absent a s => ([], some (.absent a), s)
      | .ok b s =>
        if more b then
          let r := s.readEntries ctx lost more (ea + 64) n
          (b :: r.1, r.2)
        else ([], none, s)

/-- Where the reads of several entries stop short: a page that is not there comes first, since what it holds may decide. -/
def firstShort : Option Short → Option Short → Option Short
  | none, y => y
  | some (.absent a), _ => some (.absent a)
  | some .bad, some (.absent a) => some (.absent a)
  | some .bad, _ => some .bad

/-- All of `n` entries of 64 bytes at their home that can be read, and what stops the others: a bad one is found whatever stands before it
(R423). [DEDUCED, log 42] -/
def State.readAll (s : State) (ctx : Nat) (lost : List Nat) (ea : Nat) : Nat → List (List Word) × Option Short × State
  | 0 => ([], none, s)
  | n + 1 =>
    let x := s.readEntries ctx lost (fun _ => true) ea 1
    let r := x.2.2.readAll ctx lost (ea + 64) n
    (x.1 ++ r.1, firstShort x.2.1 r.2.1, r.2.2)

/-- What the dispatcher decides of a packet. -/
inductive Verdict where
  | refuse (status offset : Nat) (p : Packet)
  | park (ea : Dword)
  | accept (p : Packet) (image : List (List Word))
  deriving Inhabited

/-- The packet's entries as the first bucket that applies gives them (R411). -/
def Packet.take (p : Packet) (b : Option (List Word)) : Packet :=
  match b with
  | some b => { p with kentry := dword (dAt b 8), sentry := dword (dAt b 10), eentry := dword (dAt b 12) }
  | none => p

/-- The checks from the dispatch table on (R410, R411, R423); `fault` is the offset of a field whose memory could not be read. A table
without a valid bucket breaks R410. [DEDUCED, log 42] -/
def State.judgeTable (s : State) (ctx : Nat) (lost : List Nat) (w : List Word) (p : Packet) (img : List (List Word))
    (fault : Option Nat) : Verdict × State :=
  let finish (buckets : List (List Word)) (fault : Option Nat) (s : State) : Verdict × State :=
    match s.status2 ctx w p with
    | some (c, o) => (.refuse c o p, s)
    | none => match fault with
      | some o => (.refuse 0x0B o p, s)
      | none => (.accept (p.take (buckets.find? (bucketHolds p))) img, s)
  if p.disptab = 0 then finish [] fault s
  else if p.disptab.toNat % 64 ≠ 0 then (.refuse 0x06 144 p, s)
  else
    let (bs, short, s) := s.readEntries ctx lost (fun b => (wAt b 14).testBit 0) p.disptab.toNat 32
    if bs.any (bucketBad p) || (bs.isEmpty && short.isNone) then (.refuse 0x06 144 p, s)
    else match short with
      | some (.absent ea) => (.park ea, s)
      | some .bad => finish bs (fault.or (some 144)) s
      | none => finish bs fault s

/-- Where an unreadable packet's completion record goes: its DONEADDR and DONEVALUE, where their line can be read (R424).
[DEDUCED, log 42] -/
def State.judgeLost (s : State) (ctx : Nat) (lost : List Nat) (addr : Nat) : Verdict × State :=
  match s.readEntries ctx lost (fun _ => true) (addr + 192) 1 with
  | (_, some (.absent ea), s) => (.park ea, s)
  | (b :: _, _, s) => (.refuse 0x0B 0 { doneaddr := dword (dAt b 0), donevalue := b.getD 2 0 }, s)
  | ([], _, s) => (.refuse 0x0B 0 {}, s)

/-- The dispatcher's checks of the packet at an address, in the order of R423; a page that is not present parks its read, unless an
entry that can be read is bad already. [DEDUCED, log 42] -/
def State.judge (s : State) (ctx : Nat) (lost : List Nat) (addr : Nat) : Verdict × State :=
  if addr % 64 ≠ 0 then (.refuse 0x0B 0 {}, s)
  else match s.readEntries ctx lost (fun _ => true) addr 4 with
    | (_, some .bad, s) => s.judgeLost ctx lost addr
    | (_, some (.absent ea), s) => (.park ea, s)
    | (ls, none, s) =>
      let w := ls.flatten
      let p := packetOf w
      match p.status1 with
      | some (c, o) => (.refuse c o p, s)
      | none =>
        if p.palimg = 0 then s.judgeTable ctx lost w p [] none
        else
          let (img, short, s) := s.readAll ctx lost p.palimg.toNat p.palcount
          if img.any imageBad then (.refuse 0x05 96 p, s)
          else match short with
            | some (.absent ea) => (.park ea, s)
            | some .bad => s.judgeTable ctx lost w p [] (some 96)
            | none => s.judgeTable ctx lost w p img none

/-! ### Completion (R424) -/

/-- The completion record, word 1 last: a release at SYSTEM scope whose payload is every write of the launch (R424, R211). False
where its page is not present: the record is still to be written. [DESIGN CHOICE, log 43] -/
def State.writeDone (s : State) (l : Launch) : Bool × State :=
  let a := l.pkt.doneaddr.toNat / 16 * 16
  let s := s.wbWhere (fun x => x.ctx == l.ctx)
  if a = 0 then (true, s)
  else match s.translate l.ctx .store (dword a) with
    | (.ok pa, s) =>
      (true, (((((s.homeWrite pa 4 (l.status + 65536 * l.offset)).homeWrite (pa + 8) 4 0).homeWrite (pa + 12) 4 0).homeWrite
        (pa + 4) 4 l.pkt.donevalue.toNat).demote l.ctx .system))
    | (.bad _, s) => (true, s)
    | (.absent, s) => (false, s)

/-- End a launch with its record, or keep it until the record can be written. -/
def State.endLaunch (s : State) (l : Launch) : State :=
  let l := { l with done := true }
  let rest := s.launches.filter (fun x => x.id != l.id)
  match s.writeDone l with
  | (true, s) => { s with launches := rest }
  | (false, s) => { s with launches := rest ++ [l] }

/-- A write of the launch is still to be performed: a parked or posted one of a thread, or a copy's to global memory (R44, R283, R424). -/
def State.launchWrites (s : State) (l : Launch) : Bool :=
  s.flights.any (fun f => f.launch == some l.id && f.work.fenced) ||
  s.jobs.any (fun j => j.kind.up && !j.finished && ((s.crew? j.crew).map (·.launch)) == some l.id)

/-- Every crew has retired, no ray is in flight, no relaunch is queued or running, the domain has ended; what the record is to carry is
performed (R424). -/
def State.launchOver (s : State) (l : Launch) : Bool :=
  !(s.crews.any (fun c => c.launch == l.id && (match c.at' with
    | .draining _ => false
    | _ => true))) && !(s.rays.any (fun r => r.launch == l.id)) && !(s.relaunches.any (fun r => r.launch == l.id)) &&
  !(s.tasks.any (fun t => t.launch == l.id)) && !s.launchWrites l

/-- LAUNCH_COMPLETE: a launch that has finished, or whose record is still to be written, reports (R424). -/
def execLaunchComplete (n : Nat) (s : State) : Out :=
  match s.launch? n with
  | some l => .next (if l.done || s.launchOver l then s.endLaunch l else s)
  | none => .next s

/-! ### Acceptance (R422, R425) -/

/-- Bits of a tensor's elements whose base is global with die code `d` (R425). -/
def palShare (d : Nat) (e : List Word) : Nat :=
  if palFormat e = 0 ∨ 12 < palFormat e ∨ dAt e 0 / 2 ^ 56 ≠ d then 0
  else wAt e 2 * wAt e 3 * wAt e 4 * wAt e 5 * codeWidth (palFormat e)

/-- The die with the largest share of the context's Palette, the lowest on a tie (R425). -/
def State.bestDie (s : State) (ctx : Nat) : Nat :=
  let share (d : Nat) : Nat := (s.ctxOf ctx).palette.foldl (fun n e => n + palShare d e.2) 0
  [1, 2, 3].foldl (fun b d => if share b < share d then d else b) 0

/-- The root tasks of an ordered launch (R363, R365). -/
def rootTasks (l : Nat) (p : Packet) : List Task :=
  (List.range (p.extents 1)).map (fun r =>
    { launch := l, key := (r + 1) * 2 ^ 56, depth := 0, st := .queued, root := some r, lanes := p.extent 0 })

/-- The launch is accepted (R422): the Palette image is written, the launch stands with the bindings in effect (R247, R249), its
crews are ready to place toward the die of R425; an ordered launch has tasks instead, and what waits at its spawn queue is looked at
again (R363, R364). -/
def State.acceptLaunch (s : State) (ctx number : Nat) (p : Packet) (img : List (List Word)) : State :=
  let s := img.zipIdx.foldl (fun (u : State) e => u.setPal ctx (e.2 + 1) e.1) s
  let (l, s) := s.fresh
  let die := s.bestDie ctx
  let x : Launch := { id := l, ctx := ctx, number := number, pkt := p, die := die, bound := (s.ctxOf ctx).bindings }
  let s := { s with launches := s.launches ++ [x] }
  if p.ordered then State.queueChanged { s with tasks := s.tasks ++ rootTasks l p } p.spawnq
  else
    let n := p.extents 2
    { s with next := s.next + n,
             crews := s.crews ++ (List.range n).map (fun i =>
               ({ id := s.next + i, ctx := ctx, launch := l, num := i, squads := p.squads, shadows := p.shadows, at' := .ready die,
                  scratchSize := p.scratch } : Crew)) }

/-- Park the dispatcher's read (R423, R448): under its page, or under a token for the host window. [DESIGN CHOICE, log 43] -/
def State.parkDispatch (s : State) (kind : ItemKind) (ctx : Nat) (ea who : Dword) (source n : Nat) : Nat × State :=
  let acc := accessWord .load 0 n
  if ea.toNat / 2 ^ 56 = 4 then
    let (t, s) := s.token 4
    s.park 4 (.token t) kind ctx ea who acc source
  else s.parkAt kind ctx ea who acc source

/-- The launch number of a launch-queue entry (R421). -/
def Accept.number (x : Accept) : Nat := dAt x.words 2 * 2 ^ 64 + dAt x.words 0

/-- A launch that never stands reports its refusal or its cancelling (R423, R424). -/
def State.refuseEntry (s : State) (x : Accept) (c o : Nat) (p : Packet) : State :=
  let (l, s) := s.fresh
  s.endLaunch { id := l, ctx := x.ctx, number := x.number, pkt := p, status := c, offset := o }

/-- Carry an entry the dispatcher has popped as far as it goes. [DEDUCED, log 42] -/
def State.dispatchEntry (s : State) (x : Accept) : State :=
  let gone (s : State) : State := { s with accepts := s.accepts.filter (fun y => y.id != x.id) }
  match s.judge x.ctx x.lost (dAt x.words 4) with
  | (.refuse c o p, s) => (gone s).refuseEntry x c o p
  | (.accept p img, s) => (gone s).acceptLaunch x.ctx x.number p img
  | (.park ea, s) =>
    let (i, s) := s.parkDispatch (.dispatch x.id) x.ctx ea 0 5 64
    { s with accepts := s.accepts.map (fun y => if y.id = x.id then { y with park := some i } else y) }

/-- The launch queue of a context that is served next: in rotation by entry number, one that holds an entry (R422, R457). -/
def State.nextQueue (s : State) (ctx : Nat) : Option (Nat × BQueue) :=
  let ns := s.launchQsOf ctx
  let last := cget 0 s.lastEntry ctx
  ((ns.filter (fun n => last ≤ n)) ++ (ns.filter (fun n => n < last))).findSome? (fun n =>
    match s.queue? (s.launchQ n).2.2 with
    | some q => if q.count = 0 then none else some (n, q)
    | none => none)

/-- LAUNCH_ACCEPT: the dispatcher goes on with the entry it holds for the context, or pops one (R422); none once the device has stopped
every context (R483). [DESIGN CHOICE, log 38] -/
def execLaunchAccept (ctx : Nat) (s : State) : Out :=
  if s.plat.stopped then .next s
  else match s.accepts.find? (fun x => x.ctx == ctx) with
  | some x => .next (if x.park.isSome then s else s.dispatchEntry x)
  | none => match s.nextQueue ctx with
    | none => .next s
    | some (n, q) => match q.next? with
      | none => .next s
      | some e =>
        let s := { (s.qTake q.id 1) with lastEntry := cset 0 s.lastEntry ctx (n + 1) }
        if e.bad then .next s
        else
          let (i, s) := s.fresh
          let x : Accept := { id := i, ctx := ctx, words := e.words }
          .next (State.dispatchEntry { s with accepts := s.accepts ++ [x] } x)

/-! ### Room (R20, R22, R425, R435, R481) -/

/-- The tenant of a context's function (R454, R465). -/
def State.tenantOf (s : State) (ctx : Nat) : Nat := bits (s.policy ctx).toNat 11 4

/-- A core takes crews of a context (R456, R481). -/
def State.coreOpen (s : State) (ctx core : Nat) : Bool :=
  let t := s.mg (coreBlock core + 8)
  decide (ctx < (s.mg 0x008).toNat) && (t.getLsbD 8 || t.toNat % 256 == s.tenantOf ctx)

/-- The crews that use a core's scratchpad, draining ones among them, and those on it. -/
def State.crewsAt (s : State) (core : Nat) : List Crew := s.crews.filter (fun c => c.at'.core? == some core)
def State.crewsOn (s : State) (core : Nat) : List Crew := s.crews.filter (fun c => decide (c.at' = .on core))

/-- The squads on a core that have not retired. -/
def State.squadsAt (s : State) (core : Nat) : List Squad :=
  s.squads.filter (fun q => !q.retired && (s.crewsOn core).any (fun c => c.id == q.crew))

/-- Register words in use on a core (R20). -/
def State.regsUsed (s : State) (core : Nat) : Nat :=
  (s.squadsAt core).foldl (fun n q => n + (match s.crew? q.crew with
    | some c => 32 * (s.crewPkt c).regs
    | none => 0)) 0

/-- Scratch bytes in use on a core (R20, R283). -/
def State.scratchUsed (s : State) (core : Nat) : Nat := (s.crewsAt core).foldl (fun n c => n + c.scratchSize) 0

/-- Scratch bytes that crews may use on a core: 128 KiB where its traversal unit is enabled or being enabled (R425, R427). -/
def State.scratchRoom (s : State) (core : Nat) : Nat :=
  if (s.mg (coreBlock core)).toNat % 4 = 0 ∧ core ∉ s.plat.enabling then 393216 else 131072

/-- All squads of a crew, shadows included. -/
def Crew.allSquads (c : Crew) : Nat := c.squads * (if c.shadows then 2 else 1)

/-- The first free window of `n` bytes in a context's pool, as an offset (R435). [DESIGN CHOICE, log 43] -/
def State.windowFor (s : State) (ctx n : Nat) : Option Nat :=
  let ws := (s.ctxOf ctx).windows
  let pool := s.ctxField ctx 56 4 * 65536
  let ok (o : Nat) : Bool := decide (o + n ≤ pool) && ws.all (fun w => decide (o + n ≤ w.1 ∨ w.1 + w.2 ≤ o))
  ((0 :: ws.map (fun w => w.1 + w.2)).filter ok).foldl (fun m o => match m with
    | some x => some (min x o)
    | none => some o) none

/-- A crew's window bytes: one window a thread position (R435). -/
def State.windowBytes (s : State) (c : Crew) : Nat := 32 * c.allSquads * (s.crewPkt c).privSize

/-- Its windows fit, or it has them already (R435). -/
def State.windowsFit (s : State) (c : Crew) : Bool :=
  c.begun || s.windowBytes c == 0 || (s.windowFor c.ctx (s.windowBytes c)).isSome

/-- The saved engine state a crew belongs to (R314). -/
def State.savedWith (s : State) (c : Crew) : Option SavedEngine := s.savedEngines.find? (fun e => e.crews.contains c.id)

/-- The engine rule (R22): with an Easel entry, the cluster's engine is free, or the crew's context's and the crew has no saved
engine state. -/
def State.engineFits (s : State) (c : Crew) (core : Nat) : Bool :=
  if (s.crewPkt c).eentry = 0 then true
  else match (s.engine (clusterOfCore core)).owner with
    | none => true
    | some o => o == c.ctx && (s.savedWith c).isNone

/-- A crew fits on a core (R425). -/
def State.fits (s : State) (c : Crew) (core : Nat) : Bool :=
  decide (core < 320) && !s.plat.stopped && s.coreOpen c.ctx core && s.engineFits c core && s.windowsFit c &&
  decide ((s.crewsOn core).length < 16) && decide ((s.squadsAt core).length + c.allSquads ≤ 64) &&
  decide (s.regsUsed core + 32 * (s.crewPkt c).regs * c.allSquads ≤ 131072) &&
  decide (s.scratchUsed core + c.scratchSize ≤ s.scratchRoom core)

/-! ### Order among ready crews (R425, R426) -/

/-- The die a crew is placed toward, while it is ready. -/
def Residence.die? : Residence → Option Nat
  | .ready d => some d
  | .saved d => some d
  | _ => none

/-- The place of a crew in the order: class, acceptance, pre-empted before unplaced, number (R426). -/
def State.orderOf (s : State) (c : Crew) : Nat × Nat × Nat × Nat :=
  ((s.crewPkt c).prio, c.launch, (match c.at' with
    | .saved _ => 0
    | _ => 1), c.num)

/-- One place is before another. -/
def orderBefore (a b : Nat × Nat × Nat × Nat) : Bool :=
  decide (a.1 < b.1 ∨ (a.1 = b.1 ∧ (a.2.1 < b.2.1 ∨ (a.2.1 = b.2.1 ∧ (a.2.2.1 < b.2.2.1 ∨
    (a.2.2.1 = b.2.2.1 ∧ a.2.2.2 < b.2.2.2))))))

/-- The lowest queued task of a launch (R382). -/
def State.lowestQueued (s : State) (l : Nat) : Option Task :=
  s.tasks.foldl (fun (m : Option Task) t =>
    if t.launch = l ∧ t.st = .queued then (match m with
      | some u => if t.key < u.key then some t else m
      | none => some t) else m) none

/-- The crew a queued task would run as (R363, R372); not yet in the state. -/
def taskCrew (l : Launch) (t : Task) : Crew :=
  { id := 0, ctx := l.ctx, launch := l.id, num := (match t.root with
      | some r => r / l.pkt.extent 1
      | none => 0), squads := 1, shadows := l.pkt.shadows, at' := .ready l.die, scratchSize := l.pkt.scratch, task := some t.key }

/-- The crews that wait for room: ready and pre-empted ones, and each domain's lowest queued task. -/
def State.readyCrews (s : State) : List Crew :=
  s.crews.filter (fun c => c.at'.die?.isSome) ++ s.launches.filterMap (fun l => (s.lowestQueued l.id).map (taskCrew l))

/-- The crews saved with an engine fit together onto the cores of a cluster, in some arrangement (R22, R431). -/
def State.groupFits (s : State) (k : Nat) : List Nat → Bool
  | [] => true
  | n :: r => match s.crew? n with
    | none => s.groupFits k r
    | some c => (List.range 4).any (fun i =>
        s.fits c (4 * k + i) && (s.updCrew n (fun d => { d with at' := .on (4 * k + i) })).groupFits k r)

/-- The crew fits on a core, and those that its saved engine state brings with it fit on the cluster (R22, R425, R431). -/
def State.fitsWith (s : State) (c : Crew) (core : Nat) : Bool :=
  s.fits c core && (match s.savedWith c with
    | none => true
    | some g => (s.updCrew c.id (fun d => { d with at' := .on core })).groupFits (clusterOfCore core) (g.crews.filter (· != c.id)))

/-- Some core of a die takes the crew. -/
def State.fitsDie (s : State) (c : Crew) (d : Nat) : Bool := (List.range 80).any (fun i => s.fitsWith c (80 * d + i))

/-- The crew may be placed on a core: it fits, and the core is of its die, or no core of its die takes it (R425). -/
def State.mayTake (s : State) (c : Crew) (core : Nat) : Bool :=
  s.fitsWith c core && (c.at'.die? == some (dieOfCore core) || !(s.fitsDie c (c.at'.die?.getD 0)))

/-- The crew is the first in the order that may take the core (R426). -/
def State.mayPlace (s : State) (c : Crew) (core : Nat) : Bool :=
  s.mayTake c core && !(s.readyCrews.any (fun d => orderBefore (s.orderOf d) (s.orderOf c) && s.mayTake d core))

/-! ### Creation (R15, R21, R26, R42, R288, R329, R435) -/

/-- Give a crew its windows (R435). -/
def State.giveWindows (s : State) (c : Crew) : Crew × State :=
  let n := s.windowBytes c
  match (if c.begun || n == 0 then none else s.windowFor c.ctx n) with
  | some o =>
    ({ c with privBase := dword (s.ctxField c.ctx 48 8 + o) }, s.updCtx c.ctx (fun x => { x with windows := x.windows ++ [(o, n)] }))
  | none => (c, s)

/-- The lowest free squad slots of a core: the squads of a crew that comes onto it take them in order, and a thread's slot is 32 times
its squad's plus its lane (R27 says only that each thread holds one). [DESIGN CHOICE, log 43] -/
def State.freeSlots64 (s : State) (core : Nat) : List Nat :=
  (List.range 64).filter (fun i => !((s.squadsAt core).any (fun q => q.slot == i)))

/-- Start the Easel stream of an owner that has none yet, once its window fits (R288, R435). -/
def State.startEasel (s : State) (k : Nat) : State :=
  let e := s.engine k
  match e.owner, e.launch with
  | some ctx, some l =>
    if e.started then s
    else
      let n := e.pkt.privSize
      let go (s : State) (base : Dword) : State :=
        (s.updEngine k (fun e => { e with started := true })).setThread (.easel k)
          { pc := e.pkt.eentry, regs := cset 0 [] 1 (word n), nregs := 64, ctx := ctx, launch := some l, privBase := base,
            privSize := n, elig := s.cycle (.easel k) }
      if n = 0 then go s 0
      else match s.windowFor ctx n with
        | some o => go (s.updCtx ctx (fun x => { x with windows := x.windows ++ [(o, n)] })) (dword (s.ctxField ctx 48 8 + o))
        | none => s
  | _, _ => s

/-- A crew with an Easel entry takes a free engine for its context (R22, R288). -/
def State.takeEngine (s : State) (c : Crew) (core : Nat) : State :=
  let k := clusterOfCore core
  if (s.crewPkt c).eentry = 0 ∨ (s.engine k).owner.isSome then s
  else (s.setEngine k { owner := some c.ctx, launch := some c.launch, pkt := s.crewPkt c }).startEasel k

/-- What a squad of a new crew is: its number, whether it is a shadow, its place among the crew's squads, and its threads' WIDs by
lane, none for a lane born exited. -/
structure Seat where
  num : Nat
  shadow : Bool
  idx : Nat
  wid : Nat → Option Nat

/-- A thread at creation (R21), its WID given once for all (R16): v1 is the top of its private window. -/
def newThread (c : Crew) (p : Packet) (wid idx slot now : Nat) (shadow : Bool) (args : Cells Word) : Thread :=
  let set (r : Cells Word) (i : Nat) (v : Word) : Cells Word := if i < p.regs then cset 0 r i v else r
  { wid := dword wid, pc := if shadow then p.sentry else p.kentry, nregs := p.regs,
    regs := args.foldl (fun r x => set r x.1 x.2) (set [] 1 (word p.privSize)), ctx := c.ctx, launch := some c.launch,
    privBase := c.privBase + dword (idx * p.privSize), privSize := p.privSize, elig := now, slot := slot }

/-- Create one squad and its threads; the bindings in effect at the launch's acceptance are so for them, whatever UNBIND has removed since
(R247, R249). [DEDUCED, log 62] -/
def State.createSquad (s : State) (c : Crew) (p : Packet) (core slot : Nat) (x : Seat) (args : Cells Word) : State :=
  let now := s.cycle (.core core)
  let role : BitVec 3 := if x.shadow then 3 else if (if p.ordered then 0 else x.num) = p.producer then 5 else 0
  let q : Squad := { crew := c.id, num := x.num, shadow := x.shadow, role := role, slot := slot, since := now,
                     retired := (List.range 32).all (fun lane => (x.wid lane).isNone) }
  let kept := (((s.launch? c.launch).map (·.bound)).getD []).filter (fun b => !((s.ctxOf c.ctx).bindings.contains b))
  { s with
    squads := s.squads ++ [q]
    threads := s.threads ++ (List.range 32).filterMap (fun lane => (x.wid lane).map (fun w =>
      (Actor.thread ⟨c.id, x.num, x.shadow, lane⟩,
        { newThread c p w (32 * x.idx + lane) (32 * slot + lane) now x.shadow args with kept := kept }))) }

/-- Zero the header and tail words of the blocks of a new crew's compute threads in a RECORD launch (R329). [DESIGN CHOICE, log 44] -/
def State.clearBlocks (s : State) (c : Crew) (p : Packet) : State :=
  if !p.record || c.relaunch.isSome then s
  else s.threads.foldl (fun (u : State) x => match x.1 with
    | .thread t =>
      if t.crew = c.id ∧ t.shadow = false then
        let b := p.blockAt (p.threadIndex x.2.wid.toNat)
        (u.ctxStore c.ctx b (List.replicate 8 0)).ctxStore c.ctx (b + 4 * (8 + 8 * p.choiceC)) (List.replicate 8 0)
      else u
    | _ => u) s

/-- The context is on the device, or off it (R405). [DESIGN CHOICE, log 49] -/
def State.setAway (s : State) (ctx : Nat) (b : Bool) : State :=
  if (s.ctxOf ctx).away = b then s else s.updCtx ctx (fun c => { c with away := b })

/-- A crew that is in the state comes onto a core with its squads and threads (R15, R21, R425): the start is an acquire (R249).
[DESIGN CHOICE, log 43] -/
def State.createCrew (s : State) (n core : Nat) (seats : List Seat) (args : Cells Word) : State :=
  match s.crew? n with
  | none => s
  | some c =>
    let p := s.crewPkt c
    let (c, s) := s.giveWindows c
    let (stamp, s) := s.fresh
    let c := { c with at' := .on core, placed := stamp, begun := true }
    let slots := s.freeSlots64 core
    let s := s.updCrew n (fun _ => c)
    let s := s.takeEngine c core
    let s := seats.zipIdx.foldl (fun (u : State) x => u.createSquad c p core (slots.getD x.2 0) x.1 args) s
    ((s.clearBlocks c p).dropWhere (fun l => l.core == core && l.ctx == c.ctx)).setAway c.ctx false

/-- Digits of a number in mixed radix over extents `i` .. `i + n - 1`, the least significant first (R326). -/
def Packet.digits (p : Packet) (v i : Nat) : Nat → List Nat
  | 0 => []
  | n + 1 => v % p.extent i :: p.digits (v / p.extent i) (i + 1) n

/-- The WID with lane `l`, squad `q` and fields `fs` from field 2 up (R13). -/
def Packet.widOf (p : Packet) (l q : Nat) (fs : List Nat) : Nat :=
  l + q * 2 ^ p.fieldAt 1 + (fs.zipIdx.map (fun x => x.1 * 2 ^ p.fieldAt (2 + x.2))).foldl (· + ·) 0

/-- Compute squads `nums` and, with a shadow entry, their shadows; `wid` of squad and lane. -/
def seatsOf (nums : List Nat) (shadows : Bool) (wid : Nat → Nat → Option Nat) : List Seat :=
  let n := nums.length
  nums.zipIdx.map (fun x => { num := x.1, shadow := false, idx := x.2, wid := wid x.1 }) ++
  (if shadows then nums.zipIdx.map (fun x => { num := x.1, shadow := true, idx := n + x.2, wid := wid x.1 }) else [])

/-- The seats of a launch's crew: lanes below e0 live (R15); in a relaunch only the target's lane (R341). -/
def State.crewSeats (s : State) (c : Crew) : List Seat :=
  let p := s.crewPkt c
  let fs := p.digits c.num 2 4
  let only := (s.relaunchOf c.id).map (fun r => dAt r.desc 2)
  seatsOf (List.range c.squads) c.shadows (fun q l =>
    let w := p.widOf l q fs
    if p.extent 0 ≤ l ∨ (match only with
      | some x => decide (x ≠ w)
      | none => false) = true then none else some w)

/-! ### Work stealing (R428) -/

/-- The oldest crew of a die's list that has not begun to run: crews are named in the order in which they become ready (R428). -/
def State.oldestReady (s : State) (d : Nat) : Option Crew :=
  (s.crews.filter (fun c => decide (c.at' = .ready d))).foldl (fun (m : Option Crew) c => match m with
    | some x => if c.id < x.id then some c else m
    | none => some c) none

/-- The number of a crew by launch number and crew number (R428). -/
def State.crewNumber (s : State) (c : Crew) : Nat := (((s.launch? c.launch).map (·.number)).getD 0) * 2 ^ 128 + c.num

/-- Every crew dealt to a die has retired (R428); one that only drains has (R45, R283). -/
def State.allRetired (s : State) (d : Nat) : Bool :=
  !(s.crews.any (fun c => c.at'.die? == some d || (match c.at' with
    | .on k => dieOfCore k == d
    | _ => false)))

/-- A die's list holds a crew that no other die has retired past (R428). -/
def State.stealable (s : State) (v : Nat) : Bool :=
  s.crews.any (fun c => decide (c.at' = .ready v) &&
    (List.range 4).all (fun e => e == v || decide (cget 0 s.retiredTo e ≤ s.crewNumber c)))

/-- The victim under DETERMINISTIC (R428). -/
def State.victimOf (s : State) (d : Nat) : Option Nat := ([1, 2, 3].map (fun i => (d + i) % 4)).find? s.stealable

/-- CREW_STEAL: a die with room and an empty list takes the oldest ready crew of another die's list (R428). -/
def execCrewSteal (die victim : Nat) (s : State) : Out :=
  match s.oldestReady victim with
  | some c =>
    let det := (s.crewPkt c).deterministic
    let empty := !(s.crews.any (fun x => x.at'.die? == some die))
    .next (if die < 4 ∧ victim ≠ die ∧ empty ∧ s.fitsDie c die ∧ (!det || (s.allRetired die && s.victimOf die == some victim)) then
      s.updCrew c.id (fun x => { x with at' := .ready die }) else s)
  | none => .next s

end Sys2Proof.Machine
end

