-- ==== Sys2Proof/Machine/Relaunch.lean ====
section
/-! DEFINITION. MUTL and the relaunches it queues (R335-R344). -/

namespace Sys2Proof.Machine

/-! ### The descriptor (R336, R337) -/

/-- NOPS and MODE. -/
def descNops (w : List Word) : Nat := wAt w 0 % 16
def descMode (w : List Word) : Nat := bits (wAt w 0) 5 4

/-- The edits read: two words each (R337). -/
def descEdits (w : List Word) : List (Word × Word) :=
  (List.range (descNops w)).map (fun p => (w.getD (16 + 2 * p) 0, w.getD (17 + 2 * p) 0))

def editKind (e : Word × Word) : Nat := e.1.toNat % 16
def editStream (e : Word × Word) : Nat := bits e.1.toNat 6 4
def editPos (e : Word × Word) : Nat := e.1.toNat / 65536

/-- A number is the WID of a thread of the launch that is not born exited (R15, R338). -/
def Packet.isWid (p : Packet) (wid : Nat) : Bool :=
  decide (wid < 2 ^ p.fieldAt 6) && (List.range 6).all (fun i => decide (p.field wid i < p.extent i))

/-- MUTATION_INVALID (R338). -/
def descInvalid (p : Packet) (w : List Word) : Bool :=
  let es := descEdits w
  !(p.record || p.replay) || p.ordered || decide (8 < descNops w) || descMode w == 3 ||
  wAt w 0 / 64 != 0 || wAt w 1 != 0 || (List.range 5).any (fun i => wAt w (11 + i) != 0) ||
  es.any (fun e => decide (3 < editKind e) || bits e.1.toNat 15 7 != 0 ||
    ((editKind e == 1 || editKind e == 3) && e.2 != 0) ||
    (editKind e == 2 && decide (p.extents 0 ≤ e.2.toNat))) ||
  decide (3 < (es.filter (fun e => editKind e == 3)).length) || !(p.isWid (dAt w 2))

/-! ### MUTL (R335, R338) -/

/-- MISALIGNED of an address that a descriptor names. -/
def alignCause (a n : Nat) : Option Cause :=
  if a % n ≠ 0 then some { code := 0x43, detail := dword a, faddr := dword a } else none

/-- The relaunch of a checked descriptor, or the cause of the first check it fails (R338). Until the relaunch count is read, COUNT would
report a free word (R343). -/
def State.queueMutation (s : State) (t : Thread) (w : List Word) : Body :=
  match ((alignCause (dAt w 4) 64).or (alignCause (dAt w 6) 16)).or (alignCause (dAt w 8) 4) with
  | some c => .raise c s
  | none =>
    if descInvalid (s.pktOf t) w then .raise { code := 0x83 } s
    else
      let (i, s) := s.fresh
      .done [] { s with relaunches := s.relaunches ++ [({ id := i, launch := t.launch.getD 0, ctx := t.ctx, desc := w, rc := s.fw 60000 } : Relaunch)] }

/-- A 64-byte line of the descriptor at its home, as words. -/
def State.descLine (s : State) (a : Actor) (t : Thread) (ea : Dword) : Except Reach (List Word) × State :=
  match s.reachGlobal a t.ctx .load .g ea 64 with
  | (.go ea pa, s) =>
    let r := s.gReadHome (s.portOf a t.ctx .g) ea pa 64
    if r.2.1 then (.error (.bad (dataCause ea .load .g 64)), r.2.2)
    else (.ok ((List.range 16).map (fun i => word (r.1 / 2 ^ (32 * i)))), r.2.2)
  | (r, s) => (.error r, s)

/-- MUTL's body (R338): the earlier writes at DEVICE scope, then the descriptor. -/
def mutlBody : Actor → Thread → Vals → State → Body := fun a t v s =>
  let ea := dw (v.a.headD 0) (v.a.getD 1 0)
  let acc := accessWord .load 0 64
  if !s.drained a then .stay .none
  else
    let s := s.wbWhere (fun l => l.core == s.coreOf a && l.ctx == t.ctx)
    if ea.toNat % 64 ≠ 0 then .raise (memCause 0x43 ea .load .g 64) s
    else match s.descLine a t ea with
      | (.error r, s) => missBody r s acc none
      | (.ok w0, s) => match s.descLine a t (ea + 64) with
        | (.error r, s) => missBody r s acc none
        | (.ok w1, s) => s.queueMutation t (w0 ++ w1)

/-- MUTL (R335, R338). [DEDUCED, log 45] -/
def execMutl (x : Args) (s : State) : Out :=
  issue s { issOf (.mutl x) with logs := true } mutlBody

/-! ### Blocks at their homes -/

/-- The homes of the lines at some addresses, or what stops the first that cannot be reached. -/
inductive Homes where
  | ok (pas : List Nat) (s : State)
  | bad (code ea : Nat) (s : State)
  | absent (ea : Nat) (s : State)

/-- Translate addresses in order, one kind of access. -/
def State.homesOf (s : State) (ctx : Nat) (k : Acc) : List Nat → Homes
  | [] => .ok [] s
  | ea :: r => match s.translate ctx k (dword ea) with
    | (.bad c, s) => .bad c ea s
    | (.absent, s) => .absent ea s
    | (.ok pa, s) => match s.homesOf ctx k r with
      | .ok l s => .ok (pa :: l) s
      | x => x

/-- The 64-byte lines of a block of `n` words. -/
def blockLines (base n : Nat) : List Nat := (List.range (n / 16)).map (fun i => (base + 64 * i) % 2 ^ 64)

/-- Store the words of a block line by line. -/
def State.storeLines (s : State) (ws : List Word) : List Nat → State
  | [] => s
  | pa :: r => (s.storeWords pa (ws.take 16)).storeLines (ws.drop 16) r

/-! ### Faults and parks of a relaunch (R339) -/

def State.updRelaunch (s : State) (n : Nat) (f : Relaunch → Relaunch) : State :=
  { s with relaunches := updFirst (fun r => r.id == n) f s.relaunches }

def Relaunch.twid (r : Relaunch) : Nat := dAt r.desc 2
def Relaunch.acc (r : Relaunch) : Nat := dAt r.desc 6
def Relaunch.wait (r : Relaunch) : Nat := dAt r.desc 8

/-- A memory cause met at an address ends the relaunch with FAULT; one in the accept record or the wait word is reported in a fault
record (R339, R450). -/
def State.relaunchFault (s : State) (r : Relaunch) (code ea : Nat) (access : Word) : State :=
  let inAcc := decide (r.acc ≤ ea ∧ ea < r.acc + 16) && !r.noRecord
  let inWait := decide (r.wait ≤ ea ∧ ea < r.wait + 4)
  let s := s.updRelaunch r.id (fun x => { x with
    fault := x.fault.or (some code), noRecord := x.noRecord || inAcc, noWait := x.noWait || (inWait && !inAcc) })
  if inAcc || inWait then s.record r.ctx (recWords 8 code 0 (dword ea) (dword r.twid) access 6 r.ctx) else s

/-- An absent page parks the relaunch (R339, R448). -/
def State.relaunchPark (s : State) (r : Relaunch) (ea : Nat) (access : Word) : State :=
  let (i, s) := s.parkAt (.relaunch r.id) r.ctx (dword ea) (dword r.twid) access 6
  s.updRelaunch r.id (fun x => { x with park := some i })

/-! ### Edits (R340) -/

/-- A stream's usable length in a block's words. -/
def usable (c : Nat) (ws : List Word) (st : Nat) : Nat := min (wAt ws st % 65536) c

/-- A header with a new LEN. -/
def withLen (h : Word) (n : Nat) : Word := word (h.toNat / 65536 * 65536 + n)

/-- Entry `k` of a stream in a block's words. -/
def entryAt (c st k : Nat) : Nat := 8 + st * c + k

/-- Replace entries `i` of a stream, `lo` ≤ i < hi, by a function of i. -/
def fillEntries (c st lo hi : Nat) (f : Nat → Word) (ws : List Word) : List Word :=
  ws.zipIdx.map (fun x => if entryAt c st lo ≤ x.2 ∧ x.2 < entryAt c st hi then f (x.2 - entryAt c st 0) else x.1)

/-- PERTURB's entry. -/
def perturb (w : Word) (d : Word) : Word := (((w >>> 8) + d) <<< 8) ||| (w &&& 0xFF)

/-- Word `m` of a block of the generator. -/
def genWord (g : Word × Word × Word × Word) (m : Nat) : Word :=
  match m with
  | 0 => g.1
  | 1 => g.2.1
  | 2 => g.2.2.1
  | _ => g.2.2.2

/-- The relaunch's domain-3 block at relaunch count `rc` (R340, R342). -/
def relaunchGen (p : Packet) (rc : Word) (twid : Nat) : Word × Word × Word × Word := gen p rc 3 0 (dword twid)

/-- PERTURB, SHIFT and RESAMPLE on a block's words; none where the condition fails. `m` RESAMPLE edits came before. -/
def editLocal (p : Packet) (rc : Word) (twid m : Nat) (e : Word × Word) (ws : List Word) : Option (List Word) :=
  let c := p.choiceC
  let st := editStream e
  let k := editPos e
  let len := usable c ws st
  let i := entryAt c st k
  match editKind e with
  | 0 => if k < len then some (ws.set i (perturb (ws.getD i 0) e.2)) else none
  | 1 =>
    if k ≤ len then
      some ((fillEntries c st 0 (len - k) (fun j => ws.getD (entryAt c st (j + k)) 0) ws).set st (withLen (ws.getD st 0) (len - k)))
    else none
  | _ => if k < len then some (ws.set i (genWord (relaunchGen p rc twid) (1 + m))) else none

/-- SPLICE from the words of another block; none where the condition fails. -/
def editSplice (c : Nat) (e : Word × Word) (src ws : List Word) : Option (List Word) :=
  let st := editStream e
  let k := editPos e
  let lj := usable c src st
  if k ≤ usable c ws st ∧ k ≤ lj then
    let h : Word := word ((wAt ws st % 2 ^ 31 + 2 ^ 31 * (wAt src st / 2 ^ 31)) / 65536 * 65536 + lj)
    some ((fillEntries c st k lj (fun i => src.getD (entryAt c st i) 0) ws).set st h)
  else none

/-- What the edits give: the block, the position of the edit that failed its condition with the block as it then stands, or what
stops a SPLICE. -/
inductive EditAns where
  | ok (ws : List Word) (s : State)
  | invalid (pos : Nat) (ws : List Word) (s : State)
  | bad (code ea : Nat) (s : State)
  | absent (ea : Nat) (s : State)

/-- Apply edits in order from position `pos` to the proposal, whose lines lie at `pas` (R340). [DEDUCED, log 45] -/
def State.applyEdits (s : State) (r : Relaunch) (p : Packet) (rc : Word) (pas : List Nat) (pos m : Nat) (ws : List Word) :
    List (Word × Word) → EditAns
  | [] => .ok ws s
  | e :: rest =>
    let next (s : State) (x : Option (List Word)) : EditAns := match x with
      | some ws => s.applyEdits r p rc pas (pos + 1) (m + b2n (editKind e == 3)) ws rest
      | none => .invalid pos ws s
    if editKind e = 2 then
      let base := p.blockAt e.2.toNat
      match (s.storeLines ws pas).homeLines r.ctx .load base (blockBytes p.choiceC / 64) with
      | .ok src s => next s (editSplice p.choiceC e src ws)
      | .bad c s => .bad c base s
      | .absent ea s => .absent ea.toNat s
    else next s (editLocal p rc r.twid m e ws)

/-! ### RELAUNCH (R339, R341); nothing checks that its areas are disjoint (R345) -/

/-- Every earlier relaunch of the same target has finished (R339). -/
def State.firstRelaunch (s : State) (r : Relaunch) : Bool :=
  !((s.relaunches.takeWhile (fun x => x.id != r.id)).any (fun x => x.launch == r.launch && x.twid == r.twid))

/-- The target thread has run and exited (R339). -/
def State.targetGone (s : State) (r : Relaunch) (p : Packet) : Bool :=
  s.crews.all (fun c => c.launch != r.launch || c.relaunch.isSome || c.num != p.radix r.twid 2 4 ||
    (c.begun && s.threads.all (fun x => match x.1 with
      | .thread t => t.crew != c.id || t.shadow || x.2.exited || x.2.wid != dword r.twid
      | _ => true)))

/-- The crew of a relaunch (R341): the launch's shape, ready to be placed. [DESIGN CHOICE, log 43] -/
def State.relaunchCrew (s : State) (r : Relaunch) (l : Launch) : State :=
  let (i, s) := s.fresh
  let c : Crew := { id := i, ctx := r.ctx, launch := r.launch, num := l.pkt.radix r.twid 2 4, squads := l.pkt.squads,
                    shadows := l.pkt.shadows, at' := .ready l.die, scratchSize := l.pkt.scratch, relaunch := some r.id }
  State.updRelaunch { s with crews := s.crews ++ [c] } r.id (fun x => { x with crew := some i })

/-- The original is copied to the proposal block, the edits are applied to it, and the target thread is made to run on it, or the
relaunch is to end (R339, R340). -/
def State.startRelaunch (s : State) (r : Relaunch) (l : Launch) : State :=
  let p := l.pkt
  let orig := p.blockAt (p.threadIndex r.twid)
  let n := blockBytes p.choiceC / 64
  let acc := accessWord .load 0 64
  match s.homeLines r.ctx .load orig n with
  | .bad c s => s.relaunchFault r c orig acc
  | .absent ea s => s.relaunchPark r ea.toNat acc
  | .ok ws s =>
    let t := 8 + 8 * p.choiceC
    let rc := ws.getD (t + 5) 0
    let s := s.updRelaunch r.id (fun x => { x with rc := rc })
    let start := (List.range 5).foldl (fun (w : List Word) i => w.set (t + i) 0) ws
    match s.homesOf r.ctx .store (blockLines r.prop (16 * n)) with
    | .bad c ea s => s.relaunchFault r c ea (accessWord .store 0 64)
    | .absent ea s => s.relaunchPark r ea (accessWord .store 0 64)
    | .ok pas s => match (s.storeLines start pas).applyEdits r p rc pas 0 0 start (descEdits r.desc) with
      | .bad c ea s => s.relaunchFault r c ea acc
      | .absent ea s => s.relaunchPark r ea acc
      | .invalid pos ws s => (s.storeLines ws pas).updRelaunch r.id (fun x => { x with invalid := some pos })
      | .ok ws s => (s.storeLines ws pas).relaunchCrew r l

/-- RELAUNCH: a queued relaunch starts once its target has exited and it is the first of its target (R339). -/
def execRelaunch (id : Nat) (s : State) : Out :=
  match s.relaunches.find? (fun r => r.id == id) with
  | none => .next s
  | some r => match s.launch? r.launch with
    | none => .next s
    | some l =>
      .next (if r.crew.isSome || r.park.isSome || r.invalid.isSome || r.fault.isSome || !(s.firstRelaunch r) ||
        !(s.targetGone r l.pkt) then s else s.startRelaunch r l)

/-! ### The comparison and the end (R342-R344) -/

/-- A result word: +0 where its mask bit is 0 (R342). -/
def resWord (c : Nat) (ws : List Word) (i : Nat) : Word :=
  if (wAt ws (8 + 8 * c + 4)).testBit i then ws.getD (8 + 8 * c + i) 0 else 0
def resMask (c : Nat) (ws : List Word) : Nat := wAt ws (8 + 8 * c + 4) % 16

/-- FP32 bits where the value is above 0, else +0. -/
def positive (w : Word) : Nat := if 0 < (fp32.decode w.toNat).cmp (.fin false 0 1) ∧ !(fp32.decode w.toNat).isNan then w.toNat else 0

/-- RATIO's a (R342). -/
def ratioOf (f f' : Word) : Word :=
  let g := positive f
  let g' := positive f'
  if g' = 0 then 0
  else if g = 0 ∨ g' = fp32.infPat then 0x3F800000
  else
    let q := fDiv fp32 .rne g' g
    if (fp32.decode q).cmp (.fin false 1 1) < 0 then word q else 0x3F800000

/-- u as FP32 bits (R342). -/
def drawnOf (x0 : Word) : Word := word (fp32.round .rne (.fin false (x0.toNat / 256) (2 ^ 24)))

/-- What the comparison gives: outcome, VALUE, DRAWN and the proposal's words after it (R342, R343). -/
structure Compared where
  outcome : Nat
  value : Word
  drawn : Word := 0
  prop : List Word
  deriving DecidableEq, Repr, Inhabited

/-- The comparison by MODE of `orig` and `prop` (R342). -/
def compareBlocks (p : Packet) (mode : Nat) (rc : Word) (twid : Nat) (orig prop : List Word) : Compared :=
  let c := p.choiceC
  let mo := resMask c orig
  let mp := resMask c prop
  match mode with
  | 0 =>
    let a := ratioOf (resWord c orig 0) (resWord c prop 0)
    let u := drawnOf (relaunchGen p rc twid).1
    let yes := (fp32.decode u.toNat).cmp (fp32.decode a.toNat) < 0
    { outcome := if yes then 1 else 2, value := a, drawn := u, prop := prop }
  | 1 =>
    let d (i : Nat) : Word :=
      if mo.testBit i && mp.testBit i then word (fSub fp32 .rne (resWord c prop i).toNat (resWord c orig i).toNat) else 0x7FC00000
    { outcome := 3, value := d 0, prop := (List.range 4).foldl (fun (w : List Word) i => w.set (8 + 8 * c + i) (d i)) prop }
  | _ =>
    let m := (List.range 4).foldl (fun n i =>
      if (mo.testBit i != mp.testBit i) || (mo.testBit i && mp.testBit i && resWord c orig i != resWord c prop i) then n + 2 ^ i
      else n) 0
    { outcome := if m = 0 then 4 else 5, value := word m, prop := prop }


/-- The relaunch ends: blocks, accept record, then the wait word as a release at DEVICE scope (R343, R344). [DEDUCED, log 45] -/
def State.endRelaunch (s : State) (r : Relaunch) (stores : List (Nat × Word)) (acc wait : Option Nat) (rec : List Word) : State :=
  let s := s.wbWhere (fun l => l.ctx == r.ctx)
  let s := stores.foldl (fun (u : State) x => u.homeWrite x.1 4 x.2.toNat) s
  let s := match acc with
    | some pa => s.storeWords pa rec
    | none => s
  let s := match wait with
    | some pa => (s.homeWrite pa 4 (wAt r.desc 10)).stampCopies
    | none => s
  { s with relaunches := s.relaunches.filter (fun x => x.id != r.id) }

/-- The accept record's words (R343). [DEDUCED, log 45] -/
def recordOf (mode om pm outcome : Nat) (value drawn rc : Word) : List Word :=
  [word (om * 4096 + pm * 256 + mode * 16 + outcome), value, drawn, rc]

/-- Check the accept record and the wait word, then end; either that cannot be written turns the outcome into FAULT (R339).
[DEDUCED, log 45, log 58] -/
def State.finishRelaunch (s : State) (r : Relaunch) (stores : List (Nat × Word)) (rec : List Word) : State :=
  let again (s : State) : State := { s with agenda := s.agenda ++ [.relaunchCompare r.id] }
  let acc := accessWord .store 0 16
  match s.homesOf r.ctx .store (if r.noRecord then [] else [r.acc]) with
  | .bad c ea s => again (s.relaunchFault r c ea acc)
  | .absent ea s => s.relaunchPark r ea acc
  | .ok a s => match s.homesOf r.ctx .store (if r.noWait then [] else [r.wait]) with
    | .bad c ea s => again (s.relaunchFault r c ea (accessWord .store 0 4))
    | .absent ea s => s.relaunchPark r ea (accessWord .store 0 4)
    | .ok w s => s.endRelaunch r stores a.head? w.head? rec

/-- The words of a block at the homes of its lines. -/
def lineWords (pas : List Nat) (ws : List Word) : List (Nat × Word) :=
  ws.zipIdx.map (fun x => (pas.getD (x.2 / 16) 0 + 4 * (x.2 % 16), x.1))

/-- The end of a relaunch whose thread has exited, or whose edit failed (R339, R342). -/
def State.compareRelaunch (s : State) (r : Relaunch) (p : Packet) : State :=
  let again (s : State) : State := { s with agenda := s.agenda ++ [.relaunchCompare r.id] }
  let c := p.choiceC
  let n := blockBytes c / 64
  let t := 8 + 8 * c
  let orig := p.blockAt (p.threadIndex r.twid)
  let ld := accessWord .load 0 64
  let st := accessWord .store 0 64
  let mode := descMode r.desc
  match r.fault, r.invalid with
  | some f, _ => s.finishRelaunch r [] (recordOf mode 0 0 7 (word f) 0 r.rc)
  | none, some pos => match s.homesOf r.ctx .store (blockLines orig (16 * n)) with
    | .bad f ea s => again (s.relaunchFault r f ea st)
    | .absent ea s => s.relaunchPark r ea st
    | .ok pas s =>
      s.finishRelaunch r (((lineWords pas (List.replicate (16 * n) (r.rc + 1))).drop (t + 5)).take 1) (recordOf mode 0 0 6 (word pos) 0 r.rc)
  | none, none => match s.homeLines r.ctx .load orig n with
    | .bad f s => again (s.relaunchFault r f orig ld)
    | .absent ea s => s.relaunchPark r ea.toNat ld
    | .ok ow s => match s.homeLines r.ctx .load r.prop n with
      | .bad f s => again (s.relaunchFault r f r.prop ld)
      | .absent ea s => s.relaunchPark r ea.toNat ld
      | .ok pw s =>
        let x := compareBlocks p mode r.rc r.twid ow pw
        match s.homesOf r.ctx .store (blockLines orig (16 * n)) with
        | .bad f ea s => again (s.relaunchFault r f ea st)
        | .absent ea s => s.relaunchPark r ea st
        | .ok opas s => match s.homesOf r.ctx .store (if x.outcome = 3 then blockLines r.prop (16 * n) else []) with
          | .bad f ea s => again (s.relaunchFault r f ea st)
          | .absent ea s => s.relaunchPark r ea st
          | .ok ppas s =>
            let o := lineWords opas (x.prop.set (t + 5) (r.rc + 1))
            let stores := (if x.outcome = 1 then o else (o.drop (t + 5)).take 1) ++
              (if x.outcome = 3 then ((lineWords ppas x.prop).drop t).take 4 else [])
            s.finishRelaunch r stores (recordOf mode (resMask c ow) (resMask c pw) x.outcome x.value x.drawn r.rc)

/-- The relaunched thread has exited and all it sent to memory is performed, its copies' payloads among it (R254, R339, R344). -/
def State.relaunchRan (s : State) (r : Relaunch) : Bool :=
  match r.crew with
  | none => r.fault.isSome || r.invalid.isSome
  | some n =>
    (match s.crew? n with
      | some c => c.begun
      | none => true) &&
    s.threads.all (fun x => match x.1 with
      | .thread t => t.crew != n || t.shadow || x.2.exited
      | _ => true) &&
    !(s.flights.any (fun f => match f.owner with
      | .thread t => t.crew == n && !t.shadow
      | _ => false)) &&
    !(s.jobs.any (fun j => !j.finished && (match j.owner with
      | some t => t.crew == n && !t.shadow
      | none => false)))

/-- RELAUNCH_COMPARE: the comparison, the record and the wait word of a relaunch that has run (R342-R344). -/
def execRelaunchCompare (id : Nat) (s : State) : Out :=
  match s.relaunches.find? (fun r => r.id == id) with
  | none => .next s
  | some r => match s.launch? r.launch with
    | none => .next s
    | some l => .next (if r.park.isSome || !(s.relaunchRan r) then s else s.compareRelaunch r l.pkt)

end Sys2Proof.Machine
end

