-- ==== Sys2Proof/Machine/Tasks.lean ====
section
/-! DEFINITION. SPAWN (R369-R371, R381), the dispatch of tasks (R372, R382), commits (R377, R378) and the re-issue of deferred
faults (R386). -/

namespace Sys2Proof.Machine

/-! ### SPAWN -/

/-- SPAWN_LIMIT with its reason (R370, R381). -/
def spawnLimit (reason : Nat) : Cause := { code := 0x25, detail := dword reason }

/-- Uncommitted spawned tasks of a domain (R381). -/
def State.spawnedOf (s : State) (l : Nat) : List Task := s.tasks.filter (fun t => t.launch == l && t.root.isNone)

/-- Spawned tasks a domain admits: 32 + 2^SPILLLOG of its spawn queue (R381). -/
def State.domainRoom (s : State) (l : Nat) : Nat :=
  32 + (match (s.launch? l).bind (fun x => s.queue? x.pkt.spawnq) with
    | some q => q.cap
    | none => 0)

/-- The domain is full (R381). -/
def State.domainFull (s : State) (l : Nat) : Bool := decide (s.domainRoom l ≤ (s.spawnedOf l).length)

/-- A task's parent among the uncommitted tasks (R365). -/
def State.parentOf (s : State) (t : Task) : Option Task := s.tasks.find? (fun u => u.depth + 1 == t.depth && u.descends t)

/-- The parent whose abort makes room: that of the highest-keyed spawned task whose parent is uncommitted and not the frontier
(R381). -/
def State.roomVictim (s : State) (l : Nat) : Option Task :=
  let ok := (s.spawnedOf l).filterMap (fun t => match s.parentOf t with
    | some p => if s.frontier l = some p.key then none else some (t.key, p)
    | none => none)
  (ok.foldl (fun (m : Option (Nat × Task)) x => match m with
    | some y => if y.1 < x.1 then some x else m
    | none => some x) none).map (·.2)

/-- Make room for a SPAWN of the frontier task, one abort after another (R381). -/
def State.makeRoom (s : State) (l : Nat) : Nat → State
  | 0 => s
  | n + 1 =>
    if s.domainFull l then match s.roomVictim l with
      | some p => (s.abortTask l p.key).makeRoom l n
      | none => s
    else s

/-- The lineage of the next child of a task (R370). -/
def childKey (t : Task) (ts : Nat) : Nat := ts * 2 ^ 64 + keyLin t.key + (t.calls + 1) * 2 ^ (56 - 8 * (t.depth + 1))

/-- The child joins the domain and its record the spawn queue (R370, R371). -/
def State.addChild (s : State) (t : Task) (ts : Nat) (b0 b1 : Word) (n : Nat) : State :=
  let q := ((s.launch? t.launch).map (·.pkt.spawnq)).getD 0
  let c : Task := { launch := t.launch, key := childKey t ts, depth := t.depth + 1, st := .queued, root := none, arg0 := b0,
                    arg1 := b1, lanes := n }
  let s := s.updTask t.launch t.key (fun u => { u with calls := u.calls + 1 })
  State.qInsert { s with tasks := s.tasks ++ [c] } q (spawnRecord c)

/-- SPAWN's body (R370, R381). [DEDUCED, log 46] -/
def spawnBody (n : Nat) : Actor → Thread → Vals → State → Body := fun a _ v s =>
  match s.taskOf a with
  | none => .raise (spawnLimit 4) s
  | some t =>
    let ts := (dw (v.a.headD 0) (v.a.getD 1 0)).toNat
    let add (s : State) : Body := .done [] (s.addChild t ts (v.b.headD 0) (v.b.getD 1 0) n)
    if t.calls = 255 then .raise (spawnLimit 1) s
    else if t.depth = 7 then .raise (spawnLimit 2) s
    else if ts < keyTs t.key then .raise (spawnLimit 3) s
    else if !s.domainFull t.launch then add s
    else if s.frontier t.launch ≠ some t.key then .held (s.updTask t.launch t.key (fun u => { u with held := true }))
    else
      let s' := s.makeRoom t.launch s.tasks.length
      if s'.domainFull t.launch then .raise (spawnLimit 5) s else add s'

/-- SPAWN (R369, R370). -/
def execSpawn (x : Args) (s : State) : Out :=
  issue s (issOf (.spawn x)) (spawnBody (match x.c with
    | .imm i => i.toNat
    | _ => 0))

/-! ### Dispatch (R372, R382) -/

/-- The seats of a task's crew: its squad's threads by lane (R363, R368, R372). -/
def taskSeats (p : Packet) (t : Task) : List Seat :=
  match t.root with
  | some r =>
    let q := r % p.extent 1
    let fs := p.digits (r / p.extent 1) 2 4
    seatsOf [q] p.shadows (fun q l => if l < t.lanes then some (p.widOf l q fs) else none)
  | none => seatsOf [0] p.shadows (fun _ l => if l < t.lanes then some l else none)

/-- Place a queued task on a core: its crew starts with ARG0 and ARG1 in v2 and v3 (R372). -/
def State.placeTask (s : State) (l : Launch) (t : Task) (core : Nat) : State :=
  let (i, s) := s.fresh
  let s := s.updTask l.id t.key (fun u => { u with st := .running, crew := some i, calls := 0 })
  let s := if t.root.isNone then s.unspawn l.pkt.spawnq t.key else s
  let s := { s with crews := s.crews ++ [{ taskCrew l t with id := i }] }
  let s := s.createCrew i core (taskSeats l.pkt t) (if t.root.isNone then [(2, t.arg0), (3, t.arg1)] else [])
  let f := s.frontier l.id
  { s with threads := s.threads.map (fun x =>
      if isVector x.1 ∧ crewOf x.1 = i then (x.1, { x.2 with frontierSeen := f }) else x) }

/-- The highest-keyed running task of a domain that is not its frontier. -/
def State.highestRunning (s : State) (l : Nat) : Option Task :=
  s.tasks.foldl (fun (m : Option Task) t =>
    if t.launch = l ∧ t.st = .running ∧ s.frontier l ≠ some t.key then (match m with
      | some u => if u.key < t.key then some t else m
      | none => some t) else m) none

/-- TASK_DISPATCH: the lowest queued task of a domain comes onto a core; where that is the frontier and no core takes it, the
highest running task is aborted (R372, R382). [DEDUCED, log 46] -/
def execTaskDispatch (launch core : Nat) (s : State) : Out :=
  match s.launch? launch, s.lowestQueued launch with
  | some l, some t =>
    let c := taskCrew l t
    if s.mayPlace c core then .next (s.placeTask l t core)
    else if s.frontier launch = some t.key ∧ !((List.range 320).any (fun k => s.fits c k)) then
      match s.highestRunning launch with
      | some u => .next (s.abortTask launch u.key)
      | none => .next s
    else .next s
  | _, _ => .next s

/-! ### Commits (R378) -/

/-- The frontier that threads of the domain have seen may be brought up to date (R367). [DEDUCED, log 46] -/
def State.showFrontier (s : State) (l : Nat) : State :=
  let (n, s) := s.freeNat
  { s with threads := s.threads.zipIdx.map (fun x =>
      if x.1.2.launch = some l ∧ n.testBit x.2 then (x.1.1, { x.1.2 with frontierSeen := s.frontier l }) else x.1) }

/-- A commit is a release at DEVICE scope, and the tasks after it acquire (R258, R259): what the task wrote outside the version store goes
home, and no core keeps an older copy of it. [DESIGN CHOICE, log 9, DEDUCED, log 46] -/
def State.commitRelease (s : State) (ctx : Nat) : State :=
  let outer (l : L1Line) : Bool := l.ctx == ctx && decide (4 ≤ 8 * l.gran / 2 ^ 56)
  ((s.wbWhere outer).dropWhere outer).stampCopies

/-- TASK_COMMIT: the frontier task has finished, and all it sent to memory is performed: its versions go home and it leaves the
domain (R259, R377, R378). [DEDUCED, log 46] -/
def execTaskCommit (launch : Nat) (s : State) : Out :=
  match s.tasks.find? (fun t => t.launch == launch && s.frontier launch == some t.key) with
  | some t =>
    if t.st ≠ .finished ∨ s.flights.any (fun f => f.orphan && f.launch == some launch) ∨
        s.jobs.any (fun j => j.task == some (launch, t.key) && !j.finished) then .next s
    else
      let s := (s.performVersions t).commitRelease (((s.launch? launch).map (·.ctx)).getD 0)
      .next (State.showFrontier { s with tasks := s.tasks.filter (fun u => !(u.launch == launch && u.key == t.key)) } launch)
  | none => .next s

/-- DEFERRED_FAULT_REISSUE: a thread of a task that has become the frontier issues its deferred instruction again (R386). -/
def execDeferredFaultReissue (t : TRef) (s : State) : Out :=
  let a := Actor.thread t
  match s.thread? a with
  | some th => match th.wait with
    | .deferred =>
      .next (if s.resident a && (s.taskOf a).isSome && !(s.speculative a) then
        (s.wake a).updThread a (fun u => { u with reissuing := true }) else s)
    | _ => .next s
  | none => .next s

end Sys2Proof.Machine
end

