-- ==== Sys2Proof/Machine/Preempt.lean ====
section
/-! DEFINITION. Pre-emption and restore of crews and of the engine's state (R22, R314, R360, R387, R429-R431), a context that leaves
the device (R387, R423, R432), and the traversal unit's switch (R427). -/

namespace Sys2Proof.Machine

/-! ### What stands still before a save (R429) -/

/-- The crew is the last of its context with an Easel entry on its cluster: the engine is saved with it (R314). -/
def State.lastEasel (s : State) (c : Crew) (core : Nat) : Bool :=
  let k := clusterOfCore core
  (s.crewPkt c).eentry != 0 && (s.engine k).owner == some c.ctx && (s.easelCrews c.ctx k).all (fun d => d.id == c.id)

/-- The step has begun. -/
def Step.inProgress (st : Step) : Bool := st.phase != 0 || st.sub != 0 || !st.units.isEmpty

/-- The engine may stop (R313, R314): the step in progress has finished, is parked, or is an MXTILE before its drain. -/
def Engine.mayStop (e : Engine) : Bool :=
  match e.queue.head? with
  | some st => !st.inProgress || st.park.isSome || (st.op == .mxtile && (st.micro e.tilePass).op != .cvst)
  | none => true

/-- A job need not be waited for: it has finished, is parked, or waits behind one that is (R280, R429); an Easel job is saved with the
engine. [DESIGN CHOICE, log 48] -/
def State.jobStill (s : State) (engine : Bool) (j : Job) : Bool :=
  j.finished || j.park.isSome || (if j.owner.isNone then engine else j.st == .queued && !s.jobClear j)

/-- The crew's jobs let it be saved, and so does the engine that goes with it (R314, R429). [DESIGN CHOICE, log 48] -/
def State.mayPreempt (s : State) (c : Crew) (core : Nat) : Bool :=
  let last := s.lastEasel c core
  (s.jobs.filter (fun j => j.crew == c.id)).all (s.jobStill last) && (!last || (s.engine (clusterOfCore core)).mayStop)

/-- Results of an actor that are ready are written, in order of issue (R171, R325, R429). -/
def State.retireAll (s : State) (a : Actor) : State :=
  (s.flightsOf a).foldl (fun (u : State) f => match u.flight? f.id with
    | some g => u.retire g
    | none => u) s

/-- A thread of a crew at its instruction boundary (R429): rolled back, or with its results written. It is yielded no longer, of which R34
and R430 say nothing. [DESIGN CHOICE, log 48] -/
def State.stopThread (s : State) (a : Actor) : State :=
  match s.thread? a with
  | some t =>
    if t.exited then s
    else
      let s := if t.region.isSome then
          (s.dropItems (fun k => decide (k = .fetch a) || decide (k = .self a))).rollback a
        else s.retireAll a
      (s.unform a).updThread a (fun t => { t with yielded := none })
  | none => s

/-- The actors of a crew. -/
def State.actorsOf (s : State) (crew : Nat) : List Actor :=
  (s.threads.map (·.1)).filter (fun a => isVector a && crewOf a == crew)

/-- Basin waiters of some actors are withdrawn, to be reissued at restore (R360). -/
def State.withdrawWaiters (s : State) (mine : Actor → Bool) : State :=
  let hit (k : QCmd) : Bool := match k.sender with
    | .actor a => mine a
    | .window _ _ => false
  let back := (s.queues.flatMap (fun q => q.waiters.filter hit)).map (fun k => { k with withdrawn := true })
  ({ s with qcmds := back ++ s.qcmds }).dropWaiters hit

/-! ### The engine (R22, R314) -/

/-- Rename the owner of an Easel thread's flights, its Basin commands and its steps' jobs. -/
def State.renameEasel (s : State) (k n : Nat) : State :=
  { s with flights := s.flights.map (fun f => if f.owner = .easel k then { f with owner := .easel n } else f),
           qcmds := s.qcmds.map (fun c => if c.sender = .actor (.easel k) then { c with sender := .actor (.easel n) } else c),
           jobs := s.jobs.map (fun j => match j.step with
             | some (c, i) => if c = k then { j with step := some (n, i) } else j
             | none => j) }

/-- The queue's steps are saved un-started, a parked one to meet its page again at the same unit; an MXTILE stands at its pass's boundary
(R313, R314). -/
def Engine.stilled (e : Engine) : Engine :=
  { e with queue := e.queue.map (fun st =>
      if st.op = .mxtile ∧ (st.micro e.tilePass).op ≠ .cvst then { st.fresh with sub := 0, park := none } else { st with park := none }) }

/-- Save the engine, the Easel thread and the crews that go with them; the engine is zeroed and free (R22, R314).
[DESIGN CHOICE, log 48] -/
def State.saveEngine (s : State) (c : Crew) (k : Nat) : State :=
  let a := Actor.easel k
  let s := (s.retireAll a).withdrawWaiters (· == a)
  let s := s.dropItems (fun i => decide (i = .fetch a) || decide (i = .self a) || decide (i = .step k))
  let th := (s.thread? a).map (fun t => { t with wait := (match t.wait with
    | .park _ => .none
    | w => w) })
  let (i, s) := s.fresh
  let others := s.crews.filter (fun d => d.id != c.id && d.ctx == c.ctx && d.cluster == some k && (match d.at' with
    | .saved _ => true
    | _ => false) && (s.savedWith d).isNone)
  let g : SavedEngine := { ctx := c.ctx, engine := (s.engine k).stilled, easel := th, crews := c.id :: others.map (·.id), num := 80 + i }
  let s := s.renameEasel k g.num
  State.setEngine { s with savedEngines := s.savedEngines ++ [g], threads := adel s.threads a } k {}

/-- Load saved engine state into a free engine; the stream resumes where it was (R22, R288, R431). -/
def State.loadEngine (s : State) (g : SavedEngine) (k : Nat) : State :=
  let now := s.cycle (.easel k)
  let s := (s.setEngine k g.engine).renameEasel g.num k
  let s := { s with savedEngines := s.savedEngines.filter (fun x => x.num != g.num) }
  match g.easel with
  | some t => s.setThread (.easel k) { t with elig := now }
  | none => s

/-! ### PREEMPT_CREW -/

/-- Saved engine state that no crew of the state carries any more goes. -/
def State.dropSaved (s : State) : State :=
  { s with savedEngines := s.savedEngines.filter (fun g => g.crews.any (fun n => (s.crew? n).isSome)) }

/-- A crew leaves its core in the order of R429: its threads stop, waiters are withdrawn, the engine is saved with the last crew that
needs it, the task of a speculative crew is aborted (R387); else the core writes its dirty bytes back, and the crew is saved toward its
own die. Unchanged while a job must still finish. [DESIGN CHOICE, log 48] -/
def State.preempt (s : State) (c : Crew) (core : Nat) : State :=
  if !(s.mayPreempt c core) then s
  else
    let last := s.lastEasel c core
    let s := (s.actorsOf c.id).foldl (fun (u : State) a => u.stopThread a) s
    let s := s.withdrawWaiters (fun a => isVector a && crewOf a == c.id)
    let s := if last then s.saveEngine c (clusterOfCore core) else s
    let away (s : State) : State :=
      let s := s.wbWhere (fun l => l.core == core && l.ctx == c.ctx)
      let t := s.traceUnit core
      let s := if t.known.any (fun k => k.1 == c.id) then s.setTrace { t with known := t.known.filter (fun k => k.1 != c.id) } else s
      s.updCrew c.id (fun d => { d with at' := .saved (dieOfCore core), deadlock := 0,
                                        cluster := if (s.crewPkt c).eentry = 0 then none else some (clusterOfCore core) })
    match c.task with
    | some k => if s.frontier c.launch = some k then away s else (s.abortTask c.launch k).dropSaved
    | none => away s

/-- PREEMPT_CREW: a crew is pre-empted (R426, R429). -/
def execPreemptCrew (crew : Nat) (s : State) : Out :=
  match s.crew? crew with
  | some c => match c.at' with
    | .on core => .next (s.preempt c core)
    | _ => .next s
  | none => .next s

/-! ### Room for a waiting crew (R426) -/

/-- The placed crew that a waiting crew pre-empts first: of the numerically highest class above its own, the most recently placed
(R426); one of another tenant only on a core that is SHARED (R481). -/
def State.roomFrom (s : State) (c : Crew) : Option (Crew × Nat) :=
  let prio (d : Crew) : Nat := (s.crewPkt d).prio
  let l := s.crews.filterMap (fun d => match d.at' with
    | .on core =>
      let own := (s.mg (coreBlock core + 8)).getLsbD 8 || s.tenantOf c.ctx == s.tenantOf d.ctx
      if prio c < prio d && own then some (d, core) else none
    | _ => none)
  (sortBy (fun (a b : Crew × Nat) => decide (prio b.1 < prio a.1 ∨ (prio a.1 = prio b.1 ∧ b.1.placed ≤ a.1.placed))) l).head?

/-- A waiting crew that fits nowhere may pre-empt one placed crew of a numerically higher class (R426): whether it does is free.
[DESIGN CHOICE, log 48] -/
def State.claimRoom (s : State) (c : Crew) : State :=
  if (List.range 4).any (s.fitsDie c) then s
  else match s.roomFrom c with
    | some (d, core) =>
      let (b, s) := s.freeBit
      if b then s.preempt d core else s
    | none => s

/-- CREW_PLACE: a ready crew comes onto a core that it may take, or, where it fits nowhere, claims room (R425, R426). -/
def execCrewPlace (crew core : Nat) (s : State) : Out :=
  match s.crew? crew with
  | some c => match c.at' with
    | .ready _ => .next (if s.mayPlace c core then s.createCrew crew core (s.crewSeats c) [] else s.claimRoom c)
    | _ => .next s
  | none => .next s

/-! ### RESTORE_CREW -/

/-- A saved crew comes onto a core (R431): new slots, its threads eligible from now, its meetings checked afresh (R41), and the core's
clean copies of the context dropped. [DESIGN CHOICE, log 43] -/
def State.restoreOn (s : State) (n core : Nat) : State :=
  match s.crew? n with
  | none => s
  | some c =>
    let (stamp, s) := s.fresh
    let now := s.cycle (.core core)
    let free := s.freeSlots64 core
    let mine := s.squads.filter (fun q => q.crew == n && !q.retired)
    let slotOf (k : Nat × Bool) : Nat := free.getD (mine.findIdx (fun q => q.num == k.1 && q.shadow == k.2)) 0
    let s := s.updCrew n (fun d => { d with at' := .on core, placed := stamp, cluster := none })
    let squad (q : Squad) : Squad :=
      if q.crew = n ∧ q.retired = false then { q with slot := slotOf (q.num, q.shadow), since := now } else q
    let back (t : TRef) (x : Thread) : Thread :=
      { x with slot := 32 * slotOf (t.squad, t.shadow) + t.lane, elig := now }
    let thread (x : Actor × Thread) : Actor × Thread := match x.1 with
      | .thread t => if t.crew = n ∧ x.2.exited = false then (x.1, back t x.2) else x
      | _ => x
    let flight (f : Flight) : Flight := if isVector f.owner ∧ crewOf f.owner = n then { f with core := core } else f
    let job (j : Job) : Job := if j.crew = n then { j with core := core } else j
    let s := { s with
      squads := s.squads.map squad
      threads := s.threads.map thread
      flights := s.flights.map flight
      jobs := s.jobs.map job }
    let s := mine.foldl (fun (u : State) q => u.checkMeetings (q.crew, q.num, q.shadow)) s
    (s.dropWhere (fun l => l.core == core && l.ctx == c.ctx)).setAway c.ctx false

/-- Place the crews of a saved engine onto the cores of a cluster, in the first arrangement that takes them all (R431). -/
def State.restoreGroup (s : State) (k : Nat) : List Nat → Option State
  | [] => some s
  | n :: r => match s.crew? n with
    | none => s.restoreGroup k r
    | some c => (List.range 4).findSome? (fun i =>
        if s.fits c (4 * k + i) then (s.restoreOn n (4 * k + i)).restoreGroup k r else none)

/-- RESTORE_CREW: a saved crew is placed again; with saved engine state all its crews come onto one cluster whose engine is free, and
the state is loaded (R22, R431). -/
def execRestoreCrew (crew core : Nat) (s : State) : Out :=
  match s.crew? crew with
  | some c => match c.at' with
    | .saved _ =>
      if !(s.mayPlace c core) then .next (s.claimRoom c)
      else match s.savedWith c with
        | none =>
          let k := clusterOfCore core
          .next ((s.restoreOn crew core).takeEngine c (4 * k))
        | some g =>
          let k := clusterOfCore core
          match (s.restoreOn crew core).restoreGroup k (g.crews.filter (fun n => n != crew)) with
          | some s => .next (s.loadEngine g k)
          | none => .next s
    | _ => .next s
  | none => .next s

/-! ### CONTEXT_DEPART (R387, R423, R432) -/

/-- The crews of a context on cores, most recently placed first. -/
def State.residentOf (s : State) (ctx : Nat) : List (Crew × Nat) :=
  sortBy (fun a b => decide (b.1.placed ≤ a.1.placed)) (s.crews.filterMap (fun c => match c.at' with
    | .on core => if c.ctx = ctx then some (c, core) else none
    | _ => none))

/-- The uncommitted tasks of a launch but the frontier and queued ones. -/
def State.started (s : State) (l : Nat) : List Task :=
  s.tasks.filter (fun t => t.launch == l && t.st != .queued && s.frontier l != some t.key)

/-- Abort every started task of a launch but the frontier (R387). -/
def State.abortStarted (s : State) (l : Nat) : Nat → State
  | 0 => s
  | n + 1 => match s.started l with
    | t :: _ => (s.abortTask l t.key).abortStarted l n
    | [] => s

/-- A parked item belongs to a context. -/
def State.itemOf (s : State) (ctx : Nat) (i : Item) : Bool :=
  match i.kind with
  | .flight f => ((s.flight? f).map (·.ctx)) == some ctx
  | .fetch a | .self a => ((s.thread? a).map (·.ctx)) == some ctx
  | .job j => ((s.job? j).map (·.ctx)) == some ctx
  | .step k => (s.engine k).owner == some ctx
  | .vale l _ => ((s.launch? l).map (·.ctx)) == some ctx
  | .dispatch e => s.accepts.any (fun x => x.id == e && x.ctx == ctx)
  | .relaunch r => s.relaunches.any (fun x => x.id == r && x.ctx == ctx)

/-- The version store entries of a launch go (R387, R432): those of the frontier, which cannot be undone, are performed first.
[DESIGN CHOICE, log 49] -/
def State.flushVersions (s : State) (l : Nat) : State :=
  (s.tasks.filter (fun t => t.launch == l)).foldl (fun (u : State) t =>
    (u.performVersions t).updTask l t.key (fun t => { t with vers := [], writes := [] })) s

/-- The context is off the device (R387, R432): tasks but the frontier are aborted, version store entries go, its lines leave every L1,
and its operand-log and wait-table entries go: an access whose squad has retired with them; what a saved thread, job or unit was parked at
is tried again when it is back; its rays are not served (R405). [DESIGN CHOICE, log 49] -/
def State.leave (s : State) (ctx : Nat) : State :=
  let ls := s.launches.filter (fun l => l.ctx == ctx)
  let s := ls.foldl (fun (u : State) l => (u.abortStarted l.id u.tasks.length).flushVersions l.id) s
  let s := s.wbWhere (fun l => l.ctx == ctx)
  let lost (f : Flight) : Bool := f.ctx == ctx && f.orphan && f.park.isSome
  let dead := s.flights.filter lost
  let s := dead.foldl (fun (u : State) f => u.dropPush f.owner f.dest) s
  let s := s.dropItems (fun k => match k with
    | .flight f => dead.any (fun g => g.id == f)
    | _ => false)
  State.setAway { s with
    l1 := s.l1.filter (fun l => l.ctx != ctx)
    flights := s.flights.filter (fun f => !lost f)
    items := s.items.map (fun i => if s.itemOf ctx i then { i with st := .proceed } else i) } ctx true

/-- Firmware removes the context: its unfinished launches end CANCELLED and nothing of it stays (R423, R432). [DESIGN CHOICE, log 49] -/
def State.removeCtx (s : State) (ctx : Nat) : State :=
  let ls := s.launches.filter (fun l => l.ctx == ctx)
  let s := ls.foldl (fun (u : State) l => if l.done then u else u.endLaunch { l with status := 0x0C }) s
  let s := (s.accepts.filter (fun x => x.ctx == ctx)).foldl (fun (u : State) x => match u.judgeLost ctx x.lost (dAt x.words 4) with
    | (.refuse _ _ p, u) => u.refuseEntry x 0x0C 0 p
    | (_, u) => u) s
  let gone (l : Nat) : Bool := ls.any (fun x => x.id == l)
  let crew (n : Nat) : Bool := s.crews.any (fun c => c.id == n && c.ctx == ctx)
  let mine (a : Actor) : Bool := match a with
    | .thread t => crew t.crew
    | .easel n => s.savedEngines.any (fun g => g.num == n && g.ctx == ctx)
    | .mp => false
  let cmd (k : QCmd) : Bool := match k.sender with
    | .actor a => mine a
    | _ => false
  { s with
    items := s.items.filter (fun i => !(s.itemOf ctx i))
    tasks := s.tasks.filter (fun t => !(gone t.launch))
    relaunches := s.relaunches.filter (fun r => r.ctx != ctx)
    rays := s.rays.filter (fun r => !(gone r.launch))
    vales := s.vales.filter (fun r => !(gone r.launch))
    accepts := s.accepts.filter (fun x => x.ctx != ctx)
    queues := s.queues.map (fun q => { q with waiters := q.waiters.filter (fun k => !(cmd k)) })
    qcmds := s.qcmds.filter (fun k => !(cmd k))
    threads := s.threads.filter (fun x => !(mine x.1))
    squads := s.squads.filter (fun q => !(crew q.crew))
    flights := s.flights.filter (fun f => f.ctx != ctx || f.owner == .mp)
    jobs := s.jobs.filter (fun j => j.ctx != ctx)
    crews := s.crews.filter (fun c => c.ctx != ctx)
    savedEngines := s.savedEngines.filter (fun g => g.ctx != ctx)
    ctxs := s.ctxs.filter (fun c => c.id != ctx) }

/-- A job of the context is at work. -/
def State.jobsBusy (s : State) (ctx : Nat) : Bool :=
  s.jobs.any (fun j => j.ctx == ctx && !(s.jobStill true j))

/-- CONTEXT_DEPART: the crews of a context are pre-empted one after another, then the context leaves; firmware may remove it, or bring
back one that has left: a crew of it that comes onto a core does that too. [DESIGN CHOICE, log 49] -/
def execContextDepart (ctx : Nat) (s : State) : Out :=
  match s.residentOf ctx with
  | (c, core) :: _ => .next (s.preempt c core)
  | [] =>
    if s.jobsBusy ctx then .next s
    else
      let (n, s) := s.freeNat
      .next (if n % 3 = 0 then (s.leave ctx).removeCtx ctx
        else if n % 3 = 1 ∧ (s.ctxOf ctx).away then s.setAway ctx false
        else s.leave ctx)

/-! ### TRAVERSAL_ENABLE and TRAVERSAL_DISABLE (R427) -/

/-- CORECTL's TRAVEN is set, or firmware sets it now. [DESIGN CHOICE, log 49] -/
def State.setTraven (s : State) (core : Nat) (on : Bool) : State :=
  if core < 320 ∧ s.plat.verified then
    s.setMg (coreBlock core) ((s.mg (coreBlock core) &&& 2) ||| word (b2n on))
  else s

/-- A core's enabling goes on, or has ended: it is never broken off (R427). -/
def State.setEnabling (s : State) (core : Nat) (on : Bool) : State :=
  let rest := s.plat.enabling.filter (· != core)
  { s with plat := { s.plat with enabling := if on then core :: rest else rest } }

/-- Enabling is complete: TRAVON is set, and a write of TRAVEN made in the meantime takes effect (R427). [DESIGN CHOICE, log 2, log 49] -/
def State.endEnabling (s : State) (core : Nat) : State :=
  let ctl := s.mg (coreBlock core)
  let s := (s.setMg (coreBlock core) (ctl ||| 2)).setEnabling core false
  if ctl.getLsbD 0 then s else { s with agenda := s.agenda ++ [.traversalDisable core] }

/-- TRAVERSAL_ENABLE: the most recently placed crew leaves until the rest fit in 128 KiB; then TRAVON. -/
def execTraversalEnable (core : Nat) (s : State) : Out :=
  let s := if s.plat.enabling.contains core then s else s.setTraven core true
  let ctl := s.mg (coreBlock core)
  if ctl.getLsbD 1 || !(ctl.getLsbD 0 || s.plat.enabling.contains core) then .next s
  else
    let s := s.setEnabling core true
    if s.scratchUsed core ≤ 131072 then .next (s.endEnabling core)
    else match sortBy (fun a b => decide (b.placed ≤ a.placed)) (s.crewsOn core) with
      | c :: _ => .next (s.preempt c core)
      | [] => .next s

/-- TRAVERSAL_DISABLE: TRAVEN is cleared; an enabling under way completes first, and no service is in progress between steps, so TRAVON
clears at once. -/
def execTraversalDisable (core : Nat) (s : State) : Out :=
  let s := s.setTraven core false
  .next (if core < 320 ∧ (s.mg (coreBlock core)).getLsbD 0 = false ∧ core ∉ s.plat.enabling then s.setMg (coreBlock core) 0 else s)

end Sys2Proof.Machine
end

