-- ==== Sys2Proof/Machine/Rays.lean ====
section
/-! DEFINITION. Rays (R388-R404): TRACE, vale images and what a ray meets in one, the vale scheduler, the service of a vale and the
push of a kept handle. -/

namespace Sys2Proof.Machine

/-! ### Records and tables (R388-R391) -/

/-- Addresses of record `h`, of its pending area, and of vale table entry `n` (R388, R390). -/
def Packet.rayAt (p : Packet) (h : Nat) : Nat := (p.raypool.toNat + 64 * h) % 2 ^ 64
def Packet.pendAt (p : Packet) (h : Nat) : Nat := (p.raypool.toNat + 64 * p.raycount + 256 * h) % 2 ^ 64
def Packet.valeAt (p : Packet) (n : Nat) : Nat := (p.valetab.toNat + 64 * n) % 2 ^ 64

/-- A status word (R389). -/
def rayStatus (state vale : Nat) : Word := word (state * 2 ^ 28 + vale % 2 ^ 28)

/-- The QUEUE of a vale table entry meets R390: a FIFO of 4-byte entries of the context, on the die that owns the image. -/
def State.valeQueueOk (s : State) (ctx : Nat) (e : List Word) : Bool :=
  let q := wAt e 4
  decide (q < 65536) && s.queueOk ctx q && q / 8192 == dAt e 0 / 2 ^ 56 && (match s.queue? q with
    | some x => x.kind == 1 && x.esize == 0
    | none => false)

/-! ### TRACE (R396, R397) -/

/-- RAY_RECORD_INVALID (R397). -/
def rayCause (reason : Nat) : Cause := { code := 0x84, detail := dword reason }

/-- An FP32 word is finite. -/
def f32Finite (w : Word) : Bool := w.toNat / 2 ^ 23 % 256 != 255

/-- The reason for which TRACE refuses a record (R397). -/
def recordReason (r : List Word) : Option Nat :=
  let st := wAt r 8 / 2 ^ 28
  let f (i : Nat) : Word := r.getD i 0
  let tmax := fp32.decode (wAt r 7)
  if st = 1 ∨ st = 2 ∨ 6 ≤ st then some 3
  else if !([0, 1, 2, 4, 5, 6, 3].all (fun i => f32Finite (f i))) || tmax.isNan || decide (tmax.cmp (fp32.decode (wAt r 3)) < 0) then some 4
  else if wAt r 13 / 4096 ≠ 0 ∨ 1 < wAt r 13 / 256 % 16 then some 5
  else none

/-- A 64-byte line at its home for a thread, not versioned. -/
def State.lineHome (s : State) (a : Actor) (ctx : Nat) (k : Acc) (ea : Dword) : Except Reach (Nat × List Word) × State :=
  match s.reachGlobal a ctx k .g ea 64 with
  | (.go ea pa, s) =>
    let r := s.gReadHome { s.portOf a ctx .g with task := none } ea pa 64
    if r.2.1 then (.error (.bad (dataCause ea k .g 64)), r.2.2)
    else (.ok (pa, (List.range 16).map (fun i => word (r.1 / 2 ^ (32 * i)))), r.2.2)
  | (r, s) => (.error r, s)

/-- The record as TRACE leaves it: no hit, QUEUED at the vale (R397). -/
def State.queueRay (s : State) (pa n : Nat) : State :=
  (s.storeWords (pa + 36) [0xFFFFFFFF, 0xFFFFFFFF, 0x7F800000, 0]).homeWrite (pa + 32) 4 (rayStatus 1 n).toNat

/-- TRACE's body (R397): every earlier write is performed first, a frontier task's versions among them; the push is one command of the vale
queue. [DEDUCED, log 47] -/
def traceBody : Actor → Thread → Vals → State → Body := fun a t v s =>
  let p := s.pktOf t
  let h := v.a.headD 0
  let n := (v.b.headD 0).toNat
  if p.raycount = 0 ∨ p.raycount ≤ h.toNat then .raise (rayCause 1) s
  else if p.valecount ≤ n then .raise (rayCause 2) s
  else if !s.drained a then .stay .none
  else
    let s := s.wbWhere (fun l => l.core == s.coreOf a && l.ctx == t.ctx)
    let s := match s.taskOf a with
      | some u => s.flushTask u.launch u.key
      | none => s
    match s.lineHome a t.ctx .load (dword (p.rayAt h.toNat)) with
    | (.error r, s) => missBody r s (accessWord .load 0 64) none
    | (.ok (pa, rcd), s) => match s.lineHome a t.ctx .load (dword (p.valeAt n)) with
      | (.error r, s) => missBody r s (accessWord .load 0 64) none
      | (.ok (_, e), s) =>
        if !s.valeQueueOk t.ctx e then .raise (queueCause (wAt e 4 % 65536)) s
        else match s.translate t.ctx .store (dword (p.rayAt h.toNat)) with
          | (.bad c, s) => .raise (memCause c (dword (p.rayAt h.toNat)) .store .g 64) s
          | (.absent, s) => missBody (.absent (dword (p.rayAt h.toNat))) s (accessWord .store 0 64) none
          | (.ok _, s) => match recordReason rcd with
            | some x => .raise (rayCause x) s
            | none =>
              let l := t.launch.getD 0
              let s := s.queueRay pa n
              let ray : Ray := { launch := l, handle := h, vale := n, q := wAt e 4 }
              sendCmd a t.ctx (wAt e 4) (.push [h]) false none
                { s with rays := s.rays.filter (fun r => !(r.launch == l && r.handle == h)) ++ [ray] }

/-- TRACE (R396, R397). -/
def execTrace (x : Args) (s : State) : Out :=
  issue s { issOf (.trace x) with logs := true } traceBody

/-! ### What a ray meets (R391-R394) -/

/-- A finite FP32 value in units of 2^-149. -/
def f32Int (w : Word) : Option Int :=
  match fp32.decode w.toNat with
  | .fin s n d => some ((if s then -1 else 1) * ((n * 2 ^ 149 / d : Nat) : Int))
  | _ => none

/-- A rational number, its denominator positive. -/
abbrev Ratio := Int × Int

def Ratio.le (a b : Ratio) : Bool := decide (a.1 * b.2 ≤ b.1 * a.2)

/-- n / d for d not 0. -/
def ratioDiv (n d : Int) : Ratio := if d < 0 then (-n, -d) else (n, d)

/-- The ray of a record: origin, direction, tmin and tmax; tmax none where it is +Inf. -/
structure RayGeo where
  o : List Int
  d : List Int
  tmin : Ratio
  tmax : Option Ratio
  deriving DecidableEq, Repr, Inhabited

def rayGeo (r : List Word) : RayGeo where
  o := (r.take 3).map (fun w => (f32Int w).getD 0)
  d := ((r.drop 4).take 3).map (fun w => (f32Int w).getD 0)
  tmin := ((f32Int (r.getD 3 0)).getD 0, 2 ^ 149)
  tmax := (f32Int (r.getD 7 0)).map (fun t => (t, (2 ^ 149 : Int)))

/-- A bound lo ≤ o + t d of one axis: none where it never holds; else the lower and upper bounds it puts on t. -/
def axisLow (lo : Word) (o d : Int) : Option (List Ratio × List Ratio) :=
  match fp32.decode lo.toNat with
  | .nan => none
  | .inf neg => if neg then some ([], []) else none
  | .fin _ _ _ =>
    let m := (f32Int lo).getD 0
    if d = 0 then (if m ≤ o then some ([], []) else none)
    else if 0 < d then some ([ratioDiv (m - o) d], []) else some ([], [ratioDiv (m - o) d])

/-- A bound o + t d ≤ hi of one axis. -/
def axisHigh (hi : Word) (o d : Int) : Option (List Ratio × List Ratio) :=
  match fp32.decode hi.toNat with
  | .nan => none
  | .inf neg => if neg then none else some ([], [])
  | .fin _ _ _ =>
    let m := (f32Int hi).getD 0
    if d = 0 then (if o ≤ m then some ([], []) else none)
    else if 0 < d then some ([], [ratioDiv (m - o) d]) else some ([ratioDiv (m - o) d], [])

/-- The ray meets a node's box (R393). -/
def meetsBox (g : RayGeo) (node : List Word) : Bool :=
  let bs := (List.range 3).flatMap (fun i =>
    [axisLow (node.getD i 0) (g.o.getD i 0) (g.d.getD i 0), axisHigh (node.getD (3 + i) 0) (g.o.getD i 0) (g.d.getD i 0)])
  if bs.any (·.isNone) then false
  else
    let los := g.tmin :: bs.flatMap (fun b => (b.getD ([], [])).1)
    let his := g.tmax.toList ++ bs.flatMap (fun b => (b.getD ([], [])).2)
    los.all (fun l => his.all (fun h => Ratio.le l h))

/-- The determinant of three columns. -/
def det3 (a b c : List Int) : Int :=
  let x (l : List Int) (i : Nat) : Int := l.getD i 0
  x a 0 * (x b 1 * x c 2 - x b 2 * x c 1) - x a 1 * (x b 0 * x c 2 - x b 2 * x c 0) + x a 2 * (x b 0 * x c 1 - x b 1 * x c 0)

/-- A hit: its t, u and v, and the primitive (R394). -/
structure Hit where
  t : Ratio
  u : Ratio
  v : Ratio
  prim : Word
  deriving DecidableEq, Repr, Inhabited

/-- The test of a triangle (R394). -/
def testTriangle (g : RayGeo) (cull : Nat) (tri : List Word) : Option Hit :=
  let vs := (tri.take 9).map f32Int
  if wAt tri 10 % 256 &&& cull = 0 ∨ vs.any (·.isNone) then none
  else
    let w (i : Nat) : Int := (vs.getD i none).getD 0
    let v0 := [w 0, w 1, w 2]
    let e1 := [w 3 - w 0, w 4 - w 1, w 5 - w 2]
    let e2 := [w 6 - w 0, w 7 - w 1, w 8 - w 2]
    let a := g.d.map (fun x => -x)
    let b := (List.range 3).map (fun i => g.o.getD i 0 - v0.getD i 0)
    let dt := det3 a e1 e2
    if dt = 0 then none
    else
      let t := ratioDiv (det3 b e1 e2) dt
      let u := ratioDiv (det3 a b e2) dt
      let v := ratioDiv (det3 a e1 b) dt
      if 0 ≤ u.1 ∧ 0 ≤ v.1 ∧ u.1 + v.1 ≤ u.2 ∧ Ratio.le g.tmin t ∧ (g.tmax.all (fun m => Ratio.le t m)) then
        some { t := t, u := u, v := v, prim := tri.getD 9 0 }
      else none

/-- A ratio as an exact value. -/
def ratioExact (r : Ratio) : Exact := .fin (decide (r.1 < 0)) r.1.natAbs r.2.natAbs

/-- The hit fields of a hit: primitive, instance, t, u and v (R389, R395). -/
def hitFields (h : Hit) (inst : Word) : List Word :=
  [h.prim, inst, word (fp32.round .rne (ratioExact h.t)),
   word (fp16.round .rne (ratioExact h.u) + 65536 * fp16.round .rne (ratioExact h.v))]

/-- One list of hit fields has a lower key than another (R394). -/
def hitBefore (x y : List Word) : Bool :=
  let c := (fp32.decode (wAt x 2)).cmp (fp32.decode (wAt y 2))
  decide (c < 0 ∨ (c = 0 ∧ (wAt x 0 < wAt y 0 ∨ (wAt x 0 = wAt y 0 ∧ wAt x 1 < wAt y 1))))

/-- A vale's image: its table entry, nodes and triangles. -/
structure Image where
  entry : List Word
  nodes : List (List Word)
  tris : List (List Word)
  deriving DecidableEq, Repr, Inhabited

def nodeKind (n : List Word) : Nat := wAt n 6 / 2 ^ 30
def nodeIndex (n : List Word) : Nat := wAt n 6 % 2 ^ 30

/-- What a ray meets in an image (R393): leaves' triangles that it hits and portals' vales. -/
def Image.visit (m : Image) (g : RayGeo) (cull : Nat) : List Hit × List Nat :=
  let r := m.nodes.zipIdx.foldl (fun (r : List Nat × List Hit × List Nat) x =>
    let (cand, hits, kids) := r
    if !(cand.contains x.2) || !(meetsBox g x.1) then r
    else match nodeKind x.1 with
      | 0 => (nodeIndex x.1 :: (nodeIndex x.1 + 1) :: cand, hits, kids)
      | 1 => (cand, hits ++ ((m.tris.drop (nodeIndex x.1)).take (wAt x.1 7)).filterMap (testTriangle g cull), kids)
      | _ => (cand, hits, kids ++ [nodeIndex x.1])) ([0], [], [])
  r.2

/-! ### Validity (R390, R392) -/

/-- The entry's own fields are as R390 asks, the queue apart. -/
def entryOk (e : List Word) : Bool :=
  let n := wAt e 2
  decide (1 ≤ n ∧ n ≤ 8192) && decide (32 * n + 48 * wAt e 3 ≤ 262144) && decide (wAt e 4 < 65536) &&
  decide (1 ≤ wAt e 6 ∧ wAt e 6 ≤ 8) && (List.range 8).all (fun i => wAt e (8 + i) == 0)

/-- A node is as R391 asks. -/
def nodeOk (nodes prims vales : Nat) (i : Nat) (n : List Word) : Bool :=
  match nodeKind n with
  | 0 => decide (i < nodeIndex n ∧ nodeIndex n + 1 < nodes) && wAt n 7 == 0
  | 1 => decide (1 ≤ wAt n 7 ∧ wAt n 7 ≤ 255 ∧ nodeIndex n + wAt n 7 ≤ prims)
  | 2 => decide (nodeIndex n < vales) && wAt n 7 == 0
  | _ => false

/-- The vales an image's portals name. -/
def Image.portals (m : Image) : List Nat := (m.nodes.filter (fun n => nodeKind n == 2)).map nodeIndex

/-- The image is valid, the depths of its portals' vales apart (R392). -/
def Image.ok (m : Image) (vales : Nat) : Bool :=
  entryOk m.entry && m.nodes.zipIdx.all (fun x => nodeOk m.nodes.length m.tris.length vales x.2 x.1) &&
  decide (m.portals.length ≤ 7) && m.tris.all (fun t => wAt t 10 / 256 == 0 && wAt t 11 == 0)

/-! ### Streaming (R401, R403) -/

/-- What step 1 of a service gives: an image; a reason for which the batch's rays end ABORTED; or an absent page. -/
inductive Streamed where
  | image (m : Image)
  | abort (reason : Nat)
  | absent (ea : Dword) (n : Nat)

/-- A reason for a cause met while streaming (R395). -/
def streamReason (c : Nat) : Nat := if c = 0x44 then 2 else 1

/-- `n` 16-byte lines of an image. -/
def State.streamLines (s : State) (ctx ea : Nat) : Nat → HomeAns
  | 0 => .ok [] s
  | n + 1 => match s.homeWords ctx .load ea 4 with
    | .ok ws s => match s.streamLines ctx ((ea + 16) % 2 ^ 64) n with
      | .ok rest s => .ok (ws ++ rest) s
      | r => r
    | r => r

/-- Cut words into groups of `n`. -/
def groupsOf (n : Nat) : Nat → List Word → List (List Word)
  | 0, _ => []
  | k + 1, ws => ws.take n :: groupsOf n k (ws.drop n)

/-- The depths of portals' vales are one more than a vale's (R392). -/
def State.depthsOk (s : State) (ctx : Nat) (p : Packet) (depth : Nat) (m : Image) : List Nat → Streamed × State
  | [] => (.image m, s)
  | v :: r => match s.homeWords ctx .load (p.valeAt v) 16 with
    | .ok e s => if wAt e 6 % 16 = depth + 1 then s.depthsOk ctx p depth m r else (.abort 1, s)
    | .bad c s => (.abort (streamReason c), s)
    | .absent ea s => (.absent ea 64, s)

/-- The unit reads a vale's entry and image and checks them (R401). -/
def State.stream (s : State) (ctx : Nat) (p : Packet) (n : Nat) : Streamed × State :=
  match s.homeWords ctx .load (p.valeAt n) 16 with
  | .bad c s => (.abort (streamReason c), s)
  | .absent ea s => (.absent ea 64, s)
  | .ok e s =>
    if !entryOk e || !s.valeQueueOk ctx e || dAt e 0 % 256 != 0 then (.abort 1, s)
    else match s.streamLines ctx (dAt e 0) (2 * wAt e 2 + 3 * wAt e 3) with
      | .bad c s => (.abort (streamReason c), s)
      | .absent ea s => (.absent ea 16, s)
      | .ok ws s =>
        let m : Image := ⟨e, groupsOf 8 (wAt e 2) ws, groupsOf 12 (wAt e 3) (ws.drop (8 * wAt e 2))⟩
        if m.ok p.valecount then s.depthsOk ctx p (wAt e 6) m m.portals else (.abort 1, s)

/-! ### One ray of a batch (R401, R404) -/

def State.updRay (s : State) (l : Nat) (h : Word) (f : Ray → Ray) : State :=
  { s with rays := updFirst (fun r => r.launch == l && r.handle == h) f s.rays }

/-- A ray has ended: it is no longer in flight. -/
def State.endRay (s : State) (l : Nat) (h : Word) : State :=
  { s with rays := s.rays.filter (fun r => !(r.launch == l && r.handle == h)) }

/-- Push a handle to a vale queue, or keep it in its pending area until there is room (R401). -/
def State.sendRay (s : State) (l : Nat) (h : Word) (vale q : Nat) : State :=
  let s := s.updRay l h (fun r => { r with vale := vale, q := q, kept := none })
  let room : Bool := match s.queue? q with
    | some x => x.room && !(x.waiters.any (fun w => !w.op.isPop)) && !(s.rays.any (fun r => r.q == q && r.kept.isSome))
    | none => false
  if room then s.qInsert q [h]
  else { (s.updRay l h (fun r => { r with kept := some s.raySeq })) with raySeq := s.raySeq + 1 }

/-- The fault record of a ray (R404, R450): the access that met the fault. -/
def State.rayRecord (s : State) (ctx : Nat) (code : Nat) (k : Acc) (ea : Dword) (h : Word) : State :=
  s.record ctx (recWords 7 code 0 ea (h.setWidth 64) (accessWord k 0 64) 4 ctx)

/-- A ray whose record, pending area or next table entry lies in an absent page keeps its record, and its handle goes back to its vale's
queue (R404). [DESIGN CHOICE, log 50] -/
def State.rayBack (s : State) (ctx l : Nat) (h : Word) (vale q : Nat) (k : Acc) (ea : Dword) : State :=
  (s.rayRecord ctx 0x40 k ea h).sendRay l h vale q

/-- A ray ends: hit fields first, then the status word, a release at DEVICE scope (R401, R402). -/
def State.finishRay (s : State) (l : Nat) (h : Word) (pa state vale : Nat) (fields : List Word) : State :=
  (((s.storeWords (pa + 36) fields).homeWrite (pa + 32) 4 (rayStatus state vale).toNat).endRay l h).stampCopies

/-- A ray ends ABORTED (R395). [DESIGN CHOICE, log 50] -/
def State.abortRay (s : State) (l : Nat) (h : Word) (pa vale reason inst : Nat) : State :=
  s.finishRay l h pa 5 vale [word reason, word inst, 0x7F800000, 0]

/-- STATE of a vale: none READY, paging or failed (R403). -/
def State.valeState (s : State) (l v : Nat) : Option Bool := (s.vales.find? (fun x => x.launch == l && x.vale == v)).map (·.failed)

/-- Set a vale's STATE, its table's word with it (R390, R403). -/
def State.setValeState (s : State) (ctx : Nat) (p : Packet) (l v : Nat) (st : Option Bool) : State :=
  let rest := s.vales.filter (fun x => !(x.launch == l && x.vale == v))
  let s := { s with vales := match st with
    | some f => ⟨l, v, f⟩ :: rest
    | none => rest }
  s.ctxStore ctx (p.valeAt v + 28) [match st with
    | some true => 2
    | some false => 1
    | none => 0]

/-- The table entry of a vale lies in an absent page: the vale is paging, and parks under the page, unless it is or does already (R403). -/
def State.pageVale (s : State) (ctx : Nat) (p : Packet) (l v : Nat) (ea : Dword) (n : Nat) : State :=
  if (s.valeState l v).isSome then s
  else ((s.setValeState ctx p l v (some false)).parkAt (.vale l v) ctx ea 0 (accessWord .load 0 n) 4).2

/-- The unit carries a ray through a valid image: fold its hits, then go on to an unvisited vale or end (R401). Where the page of that
vale's table entry is absent the vale pages and the ray is served again; a vale that has failed ends it (R403).
[DESIGN CHOICE, log 50] -/
def State.carryRay (s : State) (ctx : Nat) (p : Packet) (r : Ray) (pa : Nat) (rcd : List Word) (m : Image) : State :=
  let g := rayGeo rcd
  let (hits, kids) := m.visit g (wAt rcd 13 % 256)
  let occlusion := wAt rcd 13 / 256 % 16 == 1
  let v := r.vale
  let visited := v :: r.visited
  let todo := ((r.todo ++ kids).eraseDups).filter (fun w => !(visited.contains w))
  let hit := r.hit || !hits.isEmpty
  if occlusion && hit then s.finishRay r.launch r.handle pa 3 v []
  else
    let old := (rcd.drop 9).take 4
    let best := hits.foldl (fun (b : Bool × List Word) h =>
      let f := hitFields h (m.entry.getD 5 0)
      if !b.1 || hitBefore f b.2 then (true, f) else b) (r.hit, old)
    let fields := if occlusion then old else best.2
    if todo.isEmpty then s.finishRay r.launch r.handle pa (if hit then 3 else 4) v fields
    else
      let (i, s) := s.freeNat
      let w := todo.getD (i % todo.length) 0
      match s.homeWords ctx .load (p.valeAt w) 16 with
      | .ok e s =>
        if s.valeQueueOk ctx e then
          let s := (s.storeWords (pa + 36) fields).homeWrite (pa + 32) 4 (rayStatus 1 w).toNat
          let s := s.updRay r.launch r.handle (fun x => { x with todo := todo.filter (fun n => n != w), visited := visited, hit := hit })
          s.sendRay r.launch r.handle w (wAt e 4)
        else s.abortRay r.launch r.handle pa v 1 w
      | .bad c s => s.abortRay r.launch r.handle pa v (streamReason c) w
      | .absent ea s =>
        if s.valeState r.launch w = some true then s.abortRay r.launch r.handle pa v 3 w
        else ((s.homeWrite (pa + 32) 4 (rayStatus 1 v).toNat).pageVale ctx p r.launch w ea 64).sendRay r.launch r.handle v r.q

/-- The pending area, its lines' homes given, takes unarchitected contents (R388). [DESIGN CHOICE, log 50] -/
def State.usePending (s : State) (pas : List Nat) : State := s.storeLines ((List.range 64).map (fun i => s.fw (2048 + i))) pas

/-- One handle of a batch served with what step 1 gave (R401, R403, R404): a record that is not QUEUED at the vale is left as it is.
[DESIGN CHOICE, log 50] -/
def State.serveRay (s : State) (ctx : Nat) (p : Packet) (l vale q : Nat) (got : Streamed) (h : Word) : State :=
  let known := s.rays.find? (fun r => r.launch == l && r.handle == h)
  let r : Ray := { known.getD { launch := l, handle := h, vale := vale, q := q } with vale := vale, q := q }
  let ea := dword (p.rayAt h.toNat)
  let lose (s : State) : State := s.updRay l h (fun x => { x with lost := true })
  if p.raycount ≤ h.toNat ∨ r.lost then s
  else match s.translate ctx .load ea with
    | (.absent, s) => s.rayBack ctx l h vale q .load ea
    | (.bad c, s) => lose (s.rayRecord ctx c .load ea h)
    | (.ok pa, s) =>
      if s.badData pa 64 then lose (s.rayRecord ctx 0x44 .load ea h)
      else
        let rcd := (List.range 16).map (fun i => word (s.homeRead (pa + 4 * i) 4))
        if rcd.getD 8 0 ≠ rayStatus 1 vale then s
        else match s.homesOf ctx .store (blockLines (p.pendAt h.toNat) 64) with
          | .absent at' s => s.rayBack ctx l h vale q .store (dword at')
          | .bad c at' s => lose (s.rayRecord ctx c .store (dword at') h)
          | .ok pend s =>
            let s := if known.isSome then s else { s with rays := s.rays ++ [r] }
            let s := (s.homeWrite (pa + 32) 4 (rayStatus 2 vale).toNat).usePending pend
            match got with
            | .image m => s.carryRay ctx p r pa rcd m
            | .abort reason => s.abortRay l h pa vale reason vale
            | .absent _ _ => s

/-! ### The scheduler and the service (R398-R401, R403) -/

/-- A vale with waiting rays: its launch, number, queue, waiting rays, the oldest's sequence number, and whether its age is above the
limit. -/
structure Eligible where
  launch : Nat
  vale : Nat
  q : Nat
  count : Nat
  seq : Nat
  aged : Bool
  deriving DecidableEq, Repr, Inhabited

/-- The vales of a launch whose table entries name a queue (R390); while an entry's page is absent, those whose rays stand in it (R403).
[DESIGN CHOICE, log 50] -/
def State.valesOf (s : State) (l : Launch) (q : Nat) : List Nat :=
  (List.range l.pkt.valecount).filter (fun n => match s.homeOf l.ctx (l.pkt.valeAt n) with
    | some pa => s.homeRead (pa + 16) 4 == q
    | none => s.rays.any (fun r => r.launch == l.id && r.vale == n && r.q == q && r.kept.isNone))

/-- A ray's record is QUEUED at a vale, as far as it can be read (R389). -/
def State.queuedAt (s : State) (ctx : Nat) (p : Packet) (h : Word) (vale : Nat) : Bool :=
  match s.homeOf ctx (p.rayAt h.toNat) with
  | some pa => s.homeRead (pa + 32) 4 == (rayStatus 1 vale).toNat
  | none => true

/-- The entry of a FIFO queue that was pushed first. -/
def BQueue.oldest? (q : BQueue) : Option QEntry := (q.ondie ++ q.spill).head?

/-- The eligible vales of a die (R398): those whose queue holds handles, whoever pushed them, while their context is on the device
(R405). An age counts the service that is being started, which the bound of R400 needs. [DESIGN CHOICE, log 50] -/
def State.eligible (s : State) (die : Nat) : List Eligible :=
  s.queues.flatMap (fun q => match (if q.id / 8192 = die ∧ q.kind = 1 ∧ q.esize = 0 then q.oldest? else none) with
    | none => []
    | some e => (s.launches.filter (fun l => l.pkt.raycount != 0 && !l.done && l.ctx == q.ctx && !(s.ctxOf l.ctx).away)).flatMap (fun l =>
      (s.valesOf l q.id).filterMap (fun v =>
        if s.valeState l.id v = some false then none
        else some ⟨l.id, v, q.id, q.count, e.seq, decide (l.pkt.ageLimit < cget 0 s.services die + 1 - e.at')⟩)))

/-- The vale a scheduler chooses (R399). -/
def chooseVale (l : List Eligible) : Option Eligible :=
  if l.any (·.aged) then leastBy (fun e : Eligible => e.seq) l
  else
    let most := l.foldl (fun n e => max n e.count) 0
    leastBy (fun e : Eligible => e.seq) (l.filter (fun e => e.count == most))

/-- Take `n` handles of a queue as one command, refills and all (R401). [DESIGN CHOICE, log 50] -/
def State.popBatch (s : State) (q : Nat) : Nat → Nat → List QEntry → List QEntry × State
  | 0, _, acc => (acc, s)
  | _, 0, acc => (acc, s)
  | n + 1, fuel + 1, acc => match s.queue? q with
    | none => (acc, s)
    | some x => match x.next? with
      | some e => (s.qTake q 1).popBatch q n fuel (acc ++ [e])
      | none => if x.count = 0 then (acc, s) else (s.qRefill q).popBatch q (n + 1) fuel acc

/-- A service of a vale (R401, R403). [DESIGN CHOICE, log 50] -/
def State.serve (s : State) (die : Nat) (e : Eligible) (l : Launch) : State :=
  let s := { s with services := cset 0 s.services die (cget 0 s.services die + 1) }
  let failed := s.valeState e.launch e.vale == some true
  let got : Streamed × State := if failed then (.abort 3, s) else s.stream l.ctx l.pkt e.vale
  match got with
  | (.absent ea n, s) => s.pageVale l.ctx l.pkt e.launch e.vale ea n
  | (g, s) =>
    let count := min 4096 (((s.queue? e.q).map (·.count)).getD 0)
    let (batch, s) := s.popBatch e.q count 16384 []
    batch.foldl (fun (u : State) x =>
      let h := x.words.headD 0
      if x.bad then (if u.queuedAt l.ctx l.pkt h e.vale then u.updRay e.launch h (fun r => { r with lost := true }) else u)
      else u.serveRay l.ctx l.pkt e.launch e.vale e.q g h) s

/-- VALE_SERVICE: an enabled traversal unit takes the vale that its die's scheduler chooses; one service is one step, which
nothing divides (R398-R401, R405). [DESIGN CHOICE, log 50] -/
def execValeService (core : Nat) (s : State) : Out :=
  let die := dieOfCore core
  if 320 ≤ core ∨ (s.mg (coreBlock core)).getLsbD 1 = false then .next s
  else match chooseVale (s.eligible die) with
    | none => .next s
    | some e => match s.launch? e.launch with
      | some l => .next (s.serve die e l)
      | none => .next s

/-- PENDING_HANDLE_PUSH: the handle kept first for a queue is pushed once there is room (R401). -/
def execPendingHandlePush (n : Nat) (s : State) : Out :=
  match s.rays[n]? with
  | none => .next s
  | some r => match r.kept, s.queue? r.q with
    | some k, some x =>
      let first := s.rays.all (fun y => y.q != r.q || (match y.kept with
        | some j => decide (k ≤ j)
        | none => true))
      .next (if first && x.room && !(x.waiters.any (fun w => !w.op.isPop)) then
        (s.updRay r.launch r.handle (fun y => { y with kept := none })).qInsert r.q [r.handle] else s)
    | _, _ => .next s

/-- A parked vale's page has been replayed or given up (R403). -/
def State.valeReplayed (s : State) (l v : Nat) (fail : Bool) : State :=
  match s.launch? l with
  | some x => s.setValeState x.ctx x.pkt l v (if fail then some true else none)
  | none => s

end Sys2Proof.Machine
end

