-- ==== Sys2Proof/Machine/Traps.lean ====
section
/-! DEFINITION. The handler's instructions (R438-R440), REPLAY and the items it lets go on (R448, R449), fault records (R450), TLBINV
(R446), the entry that waits for results (R436), the watchdog (R437), single step (R440), soft errors (R451) and page migration
(R447). -/

namespace Sys2Proof.Machine

/-! ### HINSP and HPOKE (R438-R440) -/

/-- The numbers the trap record lists (R438). -/
def trapListed (n : Nat) : Bool := decide (n ≤ 14 ∨ (16 ≤ n ∧ n ≤ 23) ∨ (32 ≤ n ∧ n ≤ 47))
/-- Those whose access is RW (R438). -/
def trapWritable (n : Nat) : Bool := [3, 4, 12, 13, 14].contains n || decide ((16 ≤ n ∧ n ≤ 23) ∨ (32 ≤ n ∧ n ≤ 47))

/-- A word of the trap record (R438). -/
def TrapRec.wordAt (r : TrapRec) (n : Nat) : Word :=
  if n = 0 then word r.cause
  else if n = 1 then lo32 r.detail
  else if n = 2 then hi32 r.detail
  else if n = 3 then lo32 r.epc
  else if n = 4 then hi32 r.epc
  else if n = 5 then lo32 r.ewid
  else if n = 6 then hi32 r.ewid
  else if n = 7 then lo32 r.fpc
  else if n = 8 then hi32 r.fpc
  else if n = 9 then lo32 r.faddr
  else if n = 10 then hi32 r.faddr
  else if n = 11 then r.access
  else if n = 12 then r.res0
  else if n = 13 then r.res1
  else if n = 14 then r.savep
  else if n < 32 then cget 0 r.savev (n - 16)
  else cget 0 r.opnd (n - 32)

/-- Write a word of the trap record; EPC's low bits and SAVEP's high ones stay zero (R438). -/
def TrapRec.poke (r : TrapRec) (n : Nat) (w : Word) : TrapRec :=
  if n = 3 then { r with epc := dw (w &&& ~~~3) (hi32 r.epc) }
  else if n = 4 then { r with epc := dw (lo32 r.epc) w }
  else if n = 12 then { r with res0 := w }
  else if n = 13 then { r with res1 := w }
  else if n = 14 then { r with savep := w &&& 0xFF }
  else if n < 32 then { r with savev := cset 0 r.savev (n - 16) w }
  else { r with opnd := cset 0 r.opnd (n - 32) w }

/-- HINSP (R440). -/
def execHinsp (x : Args) (s : State) : Out :=
  let n := immOf x.c
  issueChk s (issOf (.hinsp x)) (fun _ _ => if trapListed n then none else some { code := 0x03 })
    (fun _ t _ s => .done [t.trap.wordAt n] s)

/-- HPOKE (R440). -/
def execHpoke (x : Args) (s : State) : Out :=
  let n := immOf x.c
  issueChk s (issOf (.hpoke x)) (fun _ _ => if trapWritable n then none else some { code := 0x03 })
    (fun a _ v s => .done [] (s.updThread a (fun t => { t with trap := t.trap.poke n (v.a.headD 0) })))

/-! ### HRESUME and HRET (R440) -/

/-- v0-v7 below the register count and p0-p7 as they were saved. -/
def Thread.restoreSaved (t : Thread) : Thread :=
  let t := (List.range 8).foldl (fun (u : Thread) i => if i < u.nregs then u.setReg i (cget 0 t.trap.savev i) else u) t
  { t with preds := (t.preds &&& ~~~0xFF) ||| (t.trap.savep &&& 0xFF).setWidth 24, inHandler := false, handlerCycles := 0 }

/-- The captured sources as the handler left them. -/
def TrapRec.sources (r : TrapRec) : List Word := ((List.range 16).map (fun i => cget 0 r.opnd i) ++ r.rest).take r.nsrc

/-- HRESUME leaves the handler: from the captured sources where EPC still names the faulting instruction (R440). A breakpoint does not
match again there (R479). [DEDUCED, log 28] -/
def Thread.resume (t : Thread) (step : Bool) : Thread :=
  let r := t.trap
  let again := decide (r.epc = r.fpc)
  { t.restoreSaved with
    pc := r.epc, bpSkip := again, stepping := b2n step,
    replay := if again && r.captured && !r.fetch then some (r.sources, r.dests) else none,
    parcels := if again && r.captured && !r.fetch then r.parcels else [] }

/-- HRESUME (R440). [DEDUCED, log 28] -/
def execHresume (x : Args) (s : State) : Out :=
  let p := issOf (.hresume x)
  issue s p (fun a t _ s => .gone ((s.issued a p.count (t.pc + dword p.len)).updThread a (fun u => u.resume (immOf x.c == 1))))

/-- The registers a destination names exist in the thread. -/
def Dest.inside (d : Dest) (nregs : Nat) : Bool :=
  d.codes.all (fun c => if c < 224 then decide (c < nregs) else if c < 256 then true else decide (c < 280))

/-- HRET writes one destination from a result word and the word above it; a run's further words are free (R440). [DEDUCED, log 28] -/
def State.hretDest (s : State) (a : Actor) (nregs : Nat) (d : Dest) (lo hi res0 : Word) : State :=
  if d.inside nregs then match d with
    | .run _ n => s.writeDest a d ([lo, hi] ++ (List.range (n - 2)).map (fun i => s.fw (2 + i)))
    | .regPred _ _ => s.writeDest a d [lo, lo]
    | .pred _ => s.writeDest a d [res0]
    | d => s.writeDest a d [lo, hi]
  else s

/-- HRET's writes (R440): a compact pair's second destination takes RES1; a fetch has none. [DEDUCED, log 28] -/
def State.hretWrites (s : State) (a : Actor) (nregs : Nat) (r : TrapRec) : State :=
  if r.fetch then s
  else match r.dests with
    | [] => s
    | [d] => s.hretDest a nregs d r.res0 r.res1 r.res0
    | d :: e :: _ => (s.hretDest a nregs d r.res0 r.res1 r.res0).hretDest a nregs e r.res1 0 r.res0

/-- HRET (R440): the faulting instruction is taken as completed. [DEDUCED, log 28] -/
def execHret (x : Args) (s : State) : Out :=
  let p := issOf (.hret x)
  issue s p (fun a t _ s =>
    let r := t.trap
    let s := (s.issued a p.count (r.fpc + dword r.len)).updThread a (fun u => { u.restoreSaved with
      got := u.got.filter (fun g => g.1 != r.fpc) })
    .gone (s.hretWrites a t.nregs r))

/-! ### REPLAY (R449) -/

/-- REPLAY removes the entry of a key: its items are to proceed or to fail. -/
def State.replayKey (s : State) (tb : Nat) (key : Key) (fail : Bool) : State :=
  let mark (i : Item) : Item :=
    if i.table = tb ∧ i.key = key ∧ i.st = .parked then { i with st := if fail then .failed else .proceed } else i
  { s with items := s.items.map mark }

/-- REPLAY (R449). [DESIGN CHOICE, log 12] -/
def execReplay (x : Args) (s : State) : Out :=
  let k := immOf x.c
  issue s (issOf (.replay x)) (fun _ _ v s =>
    let a := (dw (v.a.headD 0) (v.a.getD 1 0)).toNat
    if k % 2 = 0 then .done [] (s.replayKey (a / 2 ^ 56 % 8) (.page ((v.b.headD 0).toNat % 65536) (a / 65536 * 65536)) (2 ≤ k))
    else .done [] (s.replayKey ((v.a.headD 0).toNat / 2 ^ 29) (.token (v.a.headD 0)) (2 ≤ k)))

/-! ### TLBINV (R446) -/

/-- A kept translation covers an address of a context. -/
def Tlb.maps (t : Tlb) (ctx ea : Nat) : Bool :=
  if ea / 2 ^ 56 = 5 then t.names ctx (ea / 2 ^ 51 % 32)
  else t.covers (ea / 2 ^ 56) ctx ea

/-- TLBINV on translations and lines (R446): affected lines are written back and dropped, then the translations go. The lines of a
dropped translation are affected with the page itself. [DEDUCED, log 29] -/
def State.invalidate (s : State) (drop : Tlb → Bool) (line : L1Line → Bool) : State :=
  let dead := s.mtlb.filter drop
  let hit (l : L1Line) : Bool := line l || dead.any (fun t => t.maps l.ctx (8 * l.gran))
  let s := (s.wbWhere hit).dropWhere hit
  { s with mtlb := s.mtlb.filter (fun t => !(drop t)) }

/-- Accesses already translated and not yet performed, by context and address: the posted FUTWs, and the MBXDONEs that wait for
earlier steps (R220, R293). [DEDUCED, log 29] -/
def State.translated (s : State) : List (Nat × Dword) :=
  s.flights.filterMap (fun f => match f.work, f.park with
    | .futw ea _ _ _, none => some (f.ctx, ea)
    | _, _ => none) ++
  s.engines.flatMap (fun e => e.2.mbxdones.filterMap (fun m => e.2.owner.map (fun c => (c, m.ea))))

/-- An access that a dropped translation has translated is still to be performed (R446). [DEDUCED, log 29] -/
def State.staleAccess (s : State) (drop : Tlb → Bool) : Bool :=
  s.translated.any (fun x => s.mtlb.any (fun t => drop t && t.maps x.1 x.2.toNat))

/-- The translations that TLBINV `k` drops (R446). [DEDUCED, log 29] -/
def invDrops (k ctx ea : Nat) (t : Tlb) : Bool :=
  if k = 0 then t.maps ctx ea else if k = 1 then t.ctx == ctx else true

/-- The L1 lines that TLBINV `k` affects by their own address (R446). [DEDUCED, log 29] -/
def invLines (k ctx ea : Nat) (l : L1Line) : Bool :=
  if k = 0 then l.ctx == ctx && 8 * l.gran / 65536 == ea / 65536 else if k = 1 then l.ctx == ctx else true

/-- TLBINV (R446): it acts once every access translated by what it drops has been performed. [DEDUCED, log 29] -/
def execTlbinv (x : Args) (s : State) : Out :=
  let k := immOf x.c
  issue s (issOf (.tlbinv x)) (fun _ _ v s =>
    let ea := (dw (v.a.headD 0) (v.a.getD 1 0)).toNat
    let ctx := (v.b.headD 0).toNat % 65536
    if s.staleAccess (invDrops k ctx ea) then .stay .none else .done [] (s.invalidate (invDrops k ctx ea) (invLines k ctx ea)))

/-! ### Items -/

/-- The cause of an item that ends: PAGE_NOT_PRESENT where REPLAY gave it up (R449). -/
def goneCause (code : Nat) (i : Item) : Cause := { code := code, detail := i.addr, faddr := i.addr, access := i.access }

/-! ### REPLAY_ITEM_PROCEED -/

/-- The actor whose crew must be on a core for an item to go on. -/
def State.itemActor (s : State) (k : ItemKind) : Option Actor :=
  match k with
  | .flight f => (s.flight? f).bind (fun x => if x.orphan then none else some x.owner)
  | .fetch a | .self a => some a
  | .job j => ((s.job? j).bind (·.owner)).map .thread
  | _ => none

/-- An item may go on now: its crew is resident, or has retired (R44, R449). [DESIGN CHOICE, log 30, log 48] -/
def State.itemFree (s : State) (i : Item) : Bool :=
  match s.itemActor i.kind with
  | some a => match a with
    | .thread t => match s.crew? t.crew with
      | some c => match c.at' with
        | .draining _ => true
        | _ => s.resident a
      | none => true
    | .easel n => decide (n < 80)
    | .mp => true
  | none => true

/-- WHO and SOURCE of an item's record (R450). -/
def State.itemWho (s : State) (k : ItemKind) : Dword × Nat :=
  let actor (a : Actor) : Dword × Nat := match s.thread? a with
    | some t => whoOf a t
    | none => (0, 0)
  match k with
  | .flight f => match s.flight? f with
    | some x => match x.owner with
      | .thread _ => ((actor x.owner).1, 0)
      | _ => (x.pc, 2)
    | none => (0, 0)
  | .fetch a | .self a => actor a
  | .job j => (((s.job? j).map (·.ownerWid)).getD 0, 1)
  | .step k => (((s.thread? (.easel k)).map (·.pc)).getD 0, 3)
  | .vale _ _ => (0, 4)
  | .dispatch _ => (0, 5)
  | .relaunch r => (dword (((s.relaunches.find? (fun x => x.id == r)).map (fun x => x.twid)).getD 0), 6)

/-- The context of an item's key, or of what it stands for. -/
def State.itemCtx (s : State) (i : Item) : Nat :=
  match i.key with
  | .page c _ => c
  | .token _ => match i.kind with
    | .flight f => ((s.flight? f).map (·.ctx)).getD 0
    | .fetch a | .self a => ((s.thread? a).map (·.ctx)).getD 0
    | .job j => ((s.job? j).map (·.ctx)).getD 0
    | .step k => (s.engine k).owner.getD 0
    | .vale l _ => ((s.launch? l).map (·.ctx)).getD 0
    | .dispatch e => ((s.accepts.find? (fun x => x.id == e)).map (·.ctx)).getD 0
    | .relaunch r => ((s.relaunches.find? (fun x => x.id == r)).map (·.ctx)).getD 0

/-- Change an item. -/
def State.updItem (s : State) (n : Nat) (f : Item → Item) : State := { s with items := updFirst (fun i => i.id == n) f s.items }

/-- An item that waited for an entry joins one, or creates it and writes its record (R448). [DESIGN CHOICE, log 30] -/
def State.joinTable (s : State) (i : Item) : State :=
  let (st, new) := s.tableAns i.table i.key
  let (who, src) := s.itemWho i.kind
  let u := s.updItem i.id (fun x => { x with st := st })
  if new then u.recordPark i.key (s.itemCtx i) i.addr who i.access src else u

/-- A thread that waits parked at its instruction goes on from its captured sources, or takes PAGE_NOT_PRESENT (R449). -/
def State.selfProceed (s : State) (a : Actor) (i : Item) (fail : Option Nat) (fetch : Bool) : State :=
  match s.thread? a with
  | some t =>
    if t.wait ≠ .park i.id then s
    else
      let s := s.wake a
      match fail with
      | none => s
      | some code =>
        let site := s.siteAt t
        let c := goneCause code i
        if fetch then s.raise a { site with dests := [], fetch := true } c
        else match t.replay with
          | some (srcs, ds) =>
            let named := ds.filter (fun d => d != .none)
            s.raise a { site with srcs := srcs, dests := if named = [] then site.dests else named, captured := true, parcels := t.parcels } c
          | none => s.raise a site c
  | none => s

/-- The head step of a cluster goes on, or its cause becomes pending (R310). -/
def State.stepProceed (s : State) (k : Nat) (i : Item) (fail : Option Nat) : State :=
  match (s.engine k).queue with
  | st :: r =>
    if st.park ≠ some i.id then s
    else match fail with
      | some code => s.stepFault k st (goneCause code i)
      | none =>
        let s := s.updEngine k (fun g => { g with queue := { st with park := none } :: r })
        match st.job with
        | some j => s.updJob j (fun x => { x with park := none })
        | none => s
  | [] => s

/-- A removed item goes on, or ends with a cause (R449). -/
def State.itemProceed (s0 : State) (i : Item) (fail : Option Nat) : State :=
  let s := { s0 with items := s0.items.filter (fun x => x.id != i.id) }
  match i.kind with
  | .flight f => match s.flight? f with
    | some x => match fail with
      | some code => s.raiseLate x (goneCause code i)
      | none => if s.behindParked x i.addr then s0 else s.settleFlight x (s.performFlight x)
    | none => s
  | .fetch a => s.selfProceed a i fail true
  | .self a => s.selfProceed a i fail false
  | .job j => match s.job? j, fail with
    | some x, some code => s.failJob x (goneCause code i)
    | some _, none => s.updJob j (fun y => { y with park := none })
    | none, _ => s
  | .step k => s.stepProceed k i fail
  | .vale l v => s.valeReplayed l v fail.isSome
  | .dispatch e =>
    { s with accepts := s.accepts.map (fun x => if x.id = e then { x with park := none, lost := if fail.isSome then (i.addr.toNat / 65536) :: x.lost else x.lost } else x) }
  | .relaunch r =>
    let s := s.updRelaunch r (fun x => { x with park := none })
    match fail, s.relaunches.find? (fun x => x.id == r) with
    | some code, some x => s.relaunchFault x code i.addr.toNat i.access
    | _, _ => s

/-- REPLAY_ITEM_PROCEED: the next removed item of an entry goes on, in the order they parked; an item that waits for an entry takes a
free one; a peer's REPLAY of a token reaches its item at any time, or never (R448, R449, R467). [DESIGN CHOICE, log 12, log 30] -/
def execReplayItemProceed (n : Nat) (s : State) : Out :=
  match s.item? n with
  | none => .next s
  | some i => match i.st with
    | .parked =>
      let (c, u) := s.freeNat
      .next (if i.addr.toNat / 2 ^ 56 = 5 ∧ c % 3 ≠ 0 then u.updItem n (fun x => { x with st := if c % 3 = 1 then .proceed else .failed })
        else s)
    | .waiting => .next (s.joinTable i)
    | st =>
      let before := s.items.any (fun j => decide (j.id < n ∧ j.key = i.key ∧ j.table = i.table ∧ j.st = st) && s.itemFree j)
      .next (if before || !s.itemFree i then s else s.itemProceed i (if st = .failed then some 0x40 else none))

/-! ### FAULT_RECORD_PUSH (R450) -/

/-- FAULT_RECORD_PUSH: a record reaches its context's FAULTQ, waits while that is full, or is discarded where FAULTQ names no FIFO of
32-byte entries of the context. -/
def execFaultRecordPush (n : Nat) (s : State) : Out :=
  match s.records[n]? with
  | none => .next s
  | some r =>
    let gone : State := { s with records := s.records.eraseIdx n }
    let q := s.ctxField r.ctx 40 2
    match s.queue? q with
    | some x =>
      if x.kind = 1 ∧ x.esize = 3 ∧ x.ctx = r.ctx ∧ x.releasing = false then
        .next (if x.room then gone.qInsert q r.words else s)
      else .next gone
    | none => .next gone

/-! ### Entry, watchdog, single step -/

/-- TRAP_ENTRY: once its results are written or parked the thread enters its handler (R436). -/
def execTrapEntry (t : TRef) (s : State) : Out :=
  let a := Actor.thread t
  match s.thread? a with
  | some th => match th.pending with
    | some (_, r) =>
      if s.resident a ∧ s.settled a ∧ th.exited = false then
        let saved := numbered 0 ((List.range 8).map (fun i => if i < th.nregs then cget 0 th.regs i else 0))
        .next (s.enterHandler a { r with savep := word (th.preds.toNat % 256), savev := saved })
      else .next s
    | none => .next s
  | none => .next s

/-- HANDLER_WATCHDOG: a thread has been in its handler for more than HLIMIT core cycles (R437). -/
def execHandlerWatchdog (t : TRef) (s : State) : Out :=
  let a := Actor.thread t
  match s.thread? a with
  | some th =>
    let limit := s.ctxField th.ctx 44 4
    if th.inHandler && s.resident a && !th.exited && limit != 0 && decide (limit < th.handlerCycles) then
      .next ((s.record th.ctx (recWords 6 0xA4 0 0 th.wid 0xFF 0 th.ctx)).exitThread a)
    else .next s
  | none => .next s

/-- The stepped instruction has issued, its results are written and its waits have ended (R440). [DEDUCED, log 31] -/
def State.stepWhole (s : State) (a : Actor) (t : Thread) : Bool :=
  t.stepping == 2 && !t.exited && t.wait == .none && t.met.isNone && t.pending.isNone && s.resident a &&
  (s.flightsOf a).all (fun f => decide (f.id < t.stepMark) || (!f.long && f.dest == .none))

/-- SINGLE_STEP: EPC names the instruction the thread stands at (R436, R440). [DEDUCED, log 31] -/
def execSingleStep (t : TRef) (s : State) : Out :=
  let a := Actor.thread t
  match s.thread? a with
  | some th =>
    if s.stepWhole a th then .next (s.raise a (s.siteAt { th with pc := th.stepPc }) { code := 0xA1, epc := some th.pc })
    else .next s
  | none => .next s

/-! ### SOFT_ERROR (R451) -/

/-- The error strikes where a region can undo it: the thread rolls back; else SOFT_ERROR will be raised with a DETAIL, and `spoil` gives
the named state its unspecified value. [DEDUCED, log 32] -/
def State.softStrike (s : State) (a : Actor) (t : Thread) (undo : Bool) (detail : Nat) (spoil : State → State) : State :=
  let s := if isVector a then s.countMg (coreCounter (s.coreOf a) 3) else s
  if undo && t.region.isSome then
    (((s.countMg (coreBlock (s.coreOf a) + 0x300)).dropItems (fun k => decide (k = .fetch a) || decide (k = .self a))).rollback a)
  else (spoil s).updThread a (fun u => { u with softErr := some (u.softErr.getD (dword detail)) })

/-- A granule with a dirty byte that fails its check is written back failing, and not kept (R452). [DEDUCED, log 32] -/
def State.wbFailing (s : State) (core ctx granule : Nat) : State :=
  let at' (l : L1Line) : Bool := l.isAt core ctx granule
  let u := (s.wbWhere at').dropWhere at'
  match (s.wbHome ctx (8 * granule)).1 with
  | some pa => u.failSector (pa / 32)
  | none => u

/-- An error of a structure that no thread holds: a corrected one is counted; an uncorrectable one is counted, and its data fail for
their consumer (R451, R452, R484). [DEDUCED, log 32] -/
def State.structureError (s : State) (what : SoftErr) : State :=
  match what with
  | .corrected core k =>
    if k < 3 then (if core < 320 then s.countMg (coreCounter core k) else s)
    else if k < 7 then s.countMg (devCounter (k - 3)) else s
  | .canvas k row =>
    if (s.engine k).owner.isSome ∧ row < 128 then
      (s.countMg (devCounter 4)).updEngine k (fun g => { g with badRows := row :: g.badRows.filter (fun i => i != row) })
    else s
  | .ground k =>
    if (s.engine k).owner.isSome then (s.countMg (devCounter 5)).updEngine k (fun g => { g with badGround := true }) else s
  | .entry q n => match s.queue? q with
    | some x =>
      if n < x.ondie.length then
        (s.countMg (devCounter 6)).updQueue q (fun x => { x with
          ondie := x.ondie.zipIdx.map (fun e => if e.2 = n then { e.1 with bad := true } else e.1) })
      else s
    | none => s
  | .sector n => if n < 2 ^ 34 then (s.countMg (devCounter 7)).failSector n else s
  | _ => s

/-- SOFT_ERROR: an uncorrectable error in a thread's state, in its core's L1 or in its crew's scratchpad, or an error of a structure
that no thread holds (R451, R452, R484). [DEDUCED, log 32] -/
def execSoftError (a : Actor) (what : SoftErr) (s : State) : Out :=
  match s.thread? a with
  | none => .next (s.structureError what)
  | some th =>
    if th.exited ∨ s.resident a = false then .next (s.structureError what)
    else match what with
      | .result op => match s.flight? op with
        | some f =>
          let words : Option (List Word) := match f.work with
            | .value ws | .sr ws _ _ _ => some (ws.zipIdx.map (fun p => s.fw (1 + p.2)))
            | _ => none
          match words with
          | some ws =>
            if f.owner = a ∧ f.long ∧ f.orphan = false ∧ f.dest.codes ≠ [] then
              let put (w : Work) : Work := match w with
                | .sr _ n p x => .sr ws n p x
                | _ => .value ws
              .next (s.softStrike a th true (f.dest.codes.headD 0) (fun s => s.updFlight op (fun x => { x with work := put x.work })))
            else .next s
          | none => .next s
        | none => .next s
      | .reg code =>
        if code < th.nregs ∧ code < 224 then
          .next (s.softStrike a th (th.written.contains code) code (fun s => s.updThread a (fun u =>
            { u with regs := cset 0 u.regs code (s.fw 1) })))
        else if isVector a ∧ 224 ≤ code ∧ code < 256 then
          .next (s.softStrike a th false code (fun s => s.updSquad (squadKey a) (fun q =>
            { q with sregs := cset 0 q.sregs (code - 224) (s.fw 1) })))
        else .next s
      | .dirty g =>
        let c := s.coreOf a
        .next (if isVector a && s.l1.any (fun l => l.isAt c th.ctx g && l.mask != 0) then
          (s.wbFailing c th.ctx g).countMg (coreCounter c 5) else s)
      | .clean g i =>
        let c := s.coreOf a
        .next (if isVector a && decide (i < 8) && s.l1.any (fun l => l.isAt c th.ctx g && l.clean.isSome) then
          State.countMg { s with l1 := s.l1.map (fun l => if l.isAt c th.ctx g then { l with bad := l.bad ||| (1 : BitVec 8) <<< i } else l) }
            (coreCounter c 5) else s)
      | .scratch off => .next (match s.crew? (crewOf a) with
        | some c =>
          if isVector a ∧ off < c.scratchSize then
            (s.updCrew c.id (fun c => { c with scratchBad := off :: c.scratchBad.filter (fun b => b != off) })).countMg (coreCounter (s.coreOf a) 4)
          else s
        | none => s)
      | .pred n =>
        if n < 24 then .next (s.softStrike a th false (256 + n) (fun s => s.updThread a (fun u => u.setPred n (s.fw 1).msb)))
        else .next s
      | what => .next (s.structureError what)

/-! ### PAGE_MIGRATE (R447) -/

/-- The address of the level-0 entry of `ea` under the table at `tbl`, where every table above is there. [DESIGN CHOICE, log 33] -/
def leafAt (m : List Host.Cell) : Nat → Nat → Nat → Option Nat
  | 0, tbl, ea => some (devAddr (tbl + 8 * (ea / 2 ^ 16 % 1024)))
  | lvl + 1, tbl, ea =>
    let p := pteAt m tbl (lvl + 1) ea
    if p.testBit 0 && !pteReserved p && !p.testBit 1 then leafAt m lvl (pteAddr p) ea else none

/-- Move the cells of the 64 KiB at `a` to `b`, and leave both as a frame moved and a frame zeroed. -/
def moveFrame {α : Type} [DecidableEq α] (d : α) (unit a b : Nat) (m : Cells α) : Cells α :=
  let size := 65536 / unit
  let inside (x n : Nat) : Bool := decide (x / unit ≤ n ∧ n < x / unit + size)
  let moved := (m.filter (fun c => inside a c.1)).map (fun c => (c.1 - a / unit + b / unit, c.2))
  moved.foldl (fun r c => cset d r c.1 c.2) (m.filter (fun c => !(inside a c.1) && !(inside b c.1)))

/-- An address of the frame at `a`, in the frame at `b`. -/
def inFrame (a b x : Nat) : Nat := if a ≤ x ∧ x < a + 65536 then x - a + b else x

/-- Everything the model keeps by home address follows a frame from `a` to `b`. [DESIGN CHOICE, log 33] -/
def State.moveHome (s : State) (a b : Nat) : State :=
  let sec (n : Nat) : Nat := inFrame a b (32 * n) / 32
  let watch (t : Thread) : Thread := match t.wait with
    | .addr w => if w.scratch then t else { t with wait := .addr { w with pa := inFrame a b w.pa } }
    | _ => t
  let task (t : Task) : Task :=
    { t with reads := t.reads.map (fun r => (sec r.1, r.2)), vers := t.vers.map (fun v => (inFrame a b v.1, v.2)),
             writes := t.writes.map sec }
  { s with
    mem := moveFrame 0 1 a b s.mem
    failing := moveFrame 0 32 a b s.failing
    threads := s.threads.map (fun x => (x.1, watch x.2))
    tasks := s.tasks.map task }

/-- The frame at the head of a stack's frame queue (R447): 64 KiB-aligned in the stack. [DESIGN CHOICE, log 33] -/
def State.freeFrame (s : State) (stack : Nat) : Option (Nat × Nat) :=
  let r := s.mg (0x020 + 8 * stack)
  let q := r.toNat % 65536
  match s.queue? q with
  | some x =>
    if r.getLsbD 16 ∧ x.kind = 1 ∧ x.esize = 1 then match x.next? with
      | some e =>
        let f := dAt e.words 0
        if e.bad = false ∧ f % 65536 = 0 ∧ f / 2 ^ 36 = stack then some (q, f) else none
      | none => none
    else none
  | none => none

/-- Some word of memory but the one at `e` reads as a leaf over the frame at `a`: the page may have another name (R240, R445).
[DESIGN CHOICE, log 33] -/
def State.aliased (s : State) (a e : Nat) : Bool :=
  let leaf (p : Nat) : Bool := p.testBit 0 && p.testBit 1 && (pteAddr p == a ||
    (pteAddr p % 2 ^ 26 == 0 && pteAddr p == a / 2 ^ 26 * 2 ^ 26) || (pteAddr p % 2 ^ 36 == 0 && pteAddr p == a / 2 ^ 36 * 2 ^ 36))
  s.mem.any (fun c => c.1 / 8 * 8 != e && leaf (memRead s.mem (c.1 / 8 * 8) 8))

/-- PAGE_MIGRATE: the owner moves the backing of a 64 KiB leaf page with NOMIG = 0 to another stack (R447); a page that may have another
name stays, since which pages move is unspecified and no value may change (R240). [DESIGN CHOICE, log 33] -/
def execPageMigrate (ctx va stack : Nat) (s : State) : Out :=
  let die := va / 2 ^ 56
  match s.walkCtx ctx va with
  | .leaf 0 p =>
    let a := pteAddr p
    if 4 ≤ die ∨ 8 ≤ stack ∨ p.testBit 7 ∨ 2 ^ 39 ≤ a ∨ a / 2 ^ 36 = stack then .next s
    else match s.freeFrame stack, leafAt s.mem 3 (s.root ctx die) (va % 2 ^ 56) with
      | some (q, b), some e =>
        if s.aliased a e then .next s else
        let s := (s.qTake q 1).moveHome a b
        let s := s.homeWrite e 8 (p - a + b)
        let s := { s with mtlb := s.mtlb.filter (fun t => !(t.covers die ctx va)) }
        let old := (s.mg (0x020 + 8 * (a / 2 ^ 36))).toNat % 65536
        .next (match s.queue? old with
          | some x => if x.room && x.esize == 1 then s.qInsert old [word a, word (a / 2 ^ 32)] else s
          | none => s)
      | _, _ => .next s
  | _ => .next s

end Sys2Proof.Machine
end

