-- ==== Sys2Proof/Machine/HostLink.lean ====
section
/-! DEFINITION. The host's side and the device's surroundings: the functions' windows (R454, R461, R462), firmware's service
requests (R464, R470, R472), firmware's writes of management registers (R455-R460, R475-R484), boot and recovery (R468), the
links (R453, R466, R467), thermal limits (R483) and scrubbing (R484). -/

namespace Sys2Proof.Machine

/-! ### Windows (R454, R461, R462) -/

/-- The function is there: the PF, or an enabled VF (R453). -/
def State.fnOn (s : State) (fn : Nat) : Bool := decide (fn ≤ s.plat.vfs)

/-- A word of a function's window as the host reads it (R454, R461, R469). [DESIGN CHOICE, log 34, log 41] -/
def State.windowRead (s : State) (fn off : Nat) : Word :=
  let key (i : Nat) : Nat := (Config.identityKey.getD (off - 0x100 + i) 0).toNat
  if off = 0 then word (b2n (s.plat.ready.getLsbD fn) + 2 * b2n (fn == 0 && s.plat.recovery))
  else if off = 8 then s.mg (fnBlock fn)
  else if off = 0xC then s.mg (fnBlock fn + 4)
  else if fn = 0 ∧ 0x100 ≤ off ∧ off < 0x140 then word (key 0 + 2 ^ 8 * key 1 + 2 ^ 16 * key 2 + 2 ^ 24 * key 3)
  else if 0x1000 ≤ off ∧ off < 0x1400 then
    let n := (off - 0x1000) / 0x40
    let o := off % 0x40
    let x := s.slot fn n
    if o = 0 then match (s.slotQueue fn n).bind s.queue? with
      | some q => word (2 ^ 31 + 2 ^ 17 * b2n q.hostPop + 2 ^ 16 * b2n q.hostPush + q.id)
      | none => word ((s.mg (slotQAt fn n)).toNat % 65536)
    else if o = 8 then word (4 * b2n x.denied + 2 * b2n x.ok + b2n x.done)
    else if 0x20 ≤ o ∧ o % 4 = 0 then (if x.done then x.entry.getD ((o - 0x20) / 4) 0 else s.fw (1 + o))
    else 0
  else 0

/-- A CMD write: refused at once, or a command on its way to the slot's queue (R462), performed in the one order of
memory after the host's earlier writes (R463). -/
def State.windowCmd (s : State) (fn n : Nat) (right : BQueue → Bool) (op : BQueue → QOp) : State :=
  if !s.fnOn fn || decide (16 ≤ n) || !(s.slot fn n).done then s
  else match (s.slotQueue fn n).bind s.queue? with
    | some q =>
      if right q then
        let (i, s) := s.fresh
        let c : QCmd := { id := i, q := q.id, sender := .window fn n, ctx := q.ctx, op := op q, try' := true }
        State.setSlot { s with qcmds := s.qcmds ++ [c] } { s.slot fn n with done := false, cmdQ := q.id }
      else s.windowDone fn n false true []
    | none => s.windowDone fn n false true []

/-- WINDOW_PUSH: PUSH.try of ENTRY (R462). -/
def execWindowPush (fn slot : Nat) (s : State) : Out :=
  .next (s.windowCmd fn slot (·.hostPush) (fun q => .push ((s.slot fn slot).entry.take (q.bytes / 4))))

/-- WINDOW_POP: POP.try into ENTRY (R462). -/
def execWindowPop (fn slot : Nat) (s : State) : Out := .next (s.windowCmd fn slot (·.hostPop) (fun _ => .pop 1))

/-- WINDOW_ENTRY_WRITE: ignored while a command is in progress (R462). -/
def execWindowEntryWrite (fn slot i : Nat) (v : Word) (s : State) : Out :=
  let x := s.slot fn slot
  .next (if s.fnOn fn ∧ slot < 16 ∧ i < 8 ∧ x.done then s.setSlot { x with entry := x.entry.set i v } else s)

/-! ### Service requests (R464) -/

/-- The service queue of a function: the FIFO of 32-byte entries with HOSTPUSH that its service slot is bound to (R464).
[DESIGN CHOICE, log 14] -/
def State.serviceQueue (s : State) (fn : Nat) : Option BQueue :=
  match (s.slotQueue fn (Config.serviceSlot fn).val).bind s.queue? with
  | some q => if q.kind = 1 ∧ q.esize = 3 ∧ q.hostPush then some q else none
  | none => none

/-- Firmware takes the next request of a function where it has operation `op`; a request whose operation is none of R464 and R472 is
taken and dropped. [DESIGN CHOICE, log 35] -/
def State.service (s : State) (fn op : Nat) (run : List Word → State → State) : State :=
  if !s.plat.verified then s
  else match s.serviceQueue fn with
    | none => s
    | some q => match q.next? with
      | none => s
      | some e =>
        let o := wAt e.words 0 % 256
        if e.bad || decide (o = 0 ∨ 5 < o) then s.qTake q.id 1
        else if o = op then run e.words (s.qTake q.id 1)
        else s

/-- Every item of a token belongs to contexts of the function. -/
def State.tokenOf (s : State) (fn : Nat) (t : Word) : Bool :=
  s.items.all (fun i => decide (i.key ≠ .token t) || Config.ctxFunction (s.itemCtx i) == fn)

/-- A request for REPLAY (R464): issued only where CTX and the key belong to the pushing function. -/
def State.serviceReplay (s : State) (fn : Nat) (w : List Word) (fail : Bool) : State :=
  let ctx := wAt w 4 % 65536
  let ea := dAt w 2
  let t := w.getD 1 0
  if Config.ctxFunction ctx ≠ fn then s
  else if (w.getD 0 0).getLsbD 8 then (if s.tokenOf fn t then s.replayKey (t.toNat / 2 ^ 29) (.token t) fail else s)
  else s.replayKey (ea / 2 ^ 56 % 8) (.page ctx (ea / 65536 * 65536)) fail

/-- SERVICE_REPLAY (R464). -/
def execServiceReplay (fn : Nat) (s : State) : Out := .next (s.service fn 1 (fun w s => s.serviceReplay fn w false))

/-- SERVICE_FAIL (R464). -/
def execServiceFail (fn : Nat) (s : State) : Out := .next (s.service fn 2 (fun w s => s.serviceReplay fn w true))

/-! ### SNAPSHOT and WRITE (R472) -/

/-- The offsets of the 64-bit counters of R473 and R474 in the order of a snapshot, core by core. [DESIGN CHOICE, log 35] -/
def snapshot64 : List Nat := (List.range 320).flatMap (fun c => (List.range 22).map (fun i => coreBlock c + 0x200 + 8 * i))
/-- The offsets of the 32-bit counters of R484, which follow in its table's order. [DESIGN CHOICE, log 35] -/
def snapshot32 : List Nat :=
  let cores (off : Nat) : List Nat := (List.range 320).map (fun c => coreBlock c + off)
  let structs (k : Nat) : List Nat :=
    (List.range 320).flatMap (fun c => (List.range 3).map (fun i => coreCounter c (3 * k + i))) ++
    (List.range 4).map (fun i => devCounter (4 * k + i))
  structs 0 ++ structs 1 ++ cores 0x300 ++ cores 0x304 ++ (List.range 41).map (fun i => devCounter (8 + i))

/-- The words of a snapshot, the final dword of value 1 included. -/
def State.snapshotWords (s : State) : List Word :=
  snapshot64.flatMap (fun o => [s.mg o, s.mg (o + 4)]) ++ snapshot32.flatMap (fun o => [s.mg o, 0]) ++ [1, 0]

/-- SNAPSHOT: on the PF's request, into the host window of the firmware context; dropped from a VF (R472). [DESIGN CHOICE, log 35] -/
def execSnapshot (fn : Nat) (s : State) : Out :=
  .next (s.service fn 3 (fun w s =>
    let ea := dAt w 2
    if fn ≠ 0 ∨ ea / 2 ^ 56 ≠ 4 ∨ ea.testBit 55 ∨ ea % 4096 ≠ 0 then s else s.ctxStore 0 ea s.snapshotWords))

/-- The control registers of the observability chapter, by offset, and their bytes (R472). [DESIGN CHOICE, log 35] -/
def ctlSize (off : Nat) : Option Nat :=
  if off = 0x018 then some 4
  else if 0x100 ≤ off ∧ off < 0x180 ∧ off % 8 = 0 then some (if off % 0x20 = 0 then 4 else 8)
  else if 0x800 ≤ off ∧ off < devCounter devCounters ∧ off % 8 = 0 then some 4
  else if 0x100000 ≤ off ∧ off < 0x100000 + 0x1000 * 320 then
    let o := off % 0x1000
    if o = 0x100 then some 8
    else if [0x008, 0x10C, 0x300, 0x304].contains o then some 4
    else if 0x400 ≤ o ∧ o < 0x400 + 8 * coreCounters ∧ o % 8 = 0 then some 4
    else none
  else none

/-- WRITE: firmware writes a control register on the PF's request; any other offset, and a VF's request, is dropped (R472).
[DESIGN CHOICE, log 35] -/
def execWrite (fn : Nat) (s : State) : Out :=
  .next (s.service fn 4 (fun w s =>
    if fn ≠ 0 then s
    else match ctlSize (wAt w 1) with
      | some n => s.mgWrite (wAt w 1) n (dAt w 2)
      | none => s))

/-! ### ATTEST (R470) -/

/-- A number as `n` bytes, the least significant first (R7). -/
def bytesOf : Nat → Nat → List Byte
  | 0, _ => []
  | n + 1, v => BitVec.ofNat 8 (v % 256) :: bytesOf n (v / 256)

/-- Bytes of a memory. -/
def memBytes (m : List Host.Cell) (a n : Nat) : List Byte := (List.range n).map (fun i => memByte m (a + i))

/-- What the configuration digest is taken over (R470). -/
def State.configBytes (s : State) : List Byte :=
  (List.range 17).flatMap (fun f => bytesOf 4 (s.mg (fnBlock f)).toNat ++ bytesOf 4 (b2n (s.fnOn f))) ++
  memBytes s.mem (devAddr (s.mg64 0x010)) (256 * (s.mg 0x008).toNat)

/-- A report without its signature (R470). -/
def State.reportBody (s : State) (nonce : List Byte) : List Byte :=
  bytesOf 4 1 ++ bytesOf 4 240 ++ bytesOf 8 (s.plat.reports + 1) ++ (Config.sm3 s.plat.image).take 32 ++
  (Config.sm3 s.configBytes).take 32 ++ nonce ++ Config.identityKey.take 64

/-- Bytes stored at a home. -/
def State.storeBytes (s : State) (pa : Nat) : List Byte → State
  | [] => s
  | b :: r => (s.homeWrite pa 1 b.toNat).storeBytes (pa + 1) r

/-- The entries of a FIFO, on the die and spilled. -/
def BQueue.fifo (q : BQueue) : List QEntry := q.ondie ++ q.spill

/-- No function's ATTEST was pushed before the one at the head of this function's service queue (R470). -/
def State.attestFirst (s : State) (fn : Nat) : Bool :=
  match (s.serviceQueue fn).bind BQueue.next? with
  | some e => (List.range 17).all (fun f => match s.serviceQueue f with
    | some q => q.fifo.all (fun x => x.bad || wAt x.words 0 % 256 != 5 || decide (e.seq ≤ x.seq))
    | none => true)
  | none => true

/-- ATTEST: the report, then DONE, in a host-window buffer of the request's context, in the order of the pushes; a request whose buffer
cannot be written is dropped (R470). [DESIGN CHOICE, log 35] -/
def execAttest (fn : Nat) (s : State) : Out :=
  .next (if !s.attestFirst fn then s else s.service fn 5 (fun w s =>
    let ctx := wAt w 4 % 65536
    let ea := dAt w 2
    if Config.ctxFunction ctx ≠ fn ∨ ea / 2 ^ 56 ≠ 4 ∨ ea.testBit 55 ∨ ea % 4096 ≠ 0 then s
    else match s.translate ctx .atomic (dword ea) with
      | (.ok pa, s) =>
        let body := s.reportBody (memBytes s.mem pa 32)
        let s := s.storeBytes (pa + 0x40) (body ++ (Config.sm2Sign body).take 64)
        let s := s.homeWrite (pa + 0x38) 8 1
        { s with plat := { s.plat with reports := s.plat.reports + 1 } }
      | (_, s) => s))

/-! ### Firmware's writes of management registers -/

/-- A write by firmware: none runs before the image is verified (R468). [DEDUCED, log 39] -/
def State.fwWrite (s : State) (off n v : Nat) : State := if s.plat.verified then s.mgWrite off n v else s

/-- LAUNCH_QUEUE_REGISTER (R457). -/
def execLaunchQueueRegister (entry ctx queue : Nat) (s : State) : Out :=
  .next (if entry < 256 then s.fwWrite (launchQAt entry) 8 (2 ^ 32 + ctx % 65536 * 2 ^ 16 + queue % 65536) else s)

/-- LAUNCH_QUEUE_UNREGISTER (R457): a pop of the dispatcher is one step, so none is in progress. -/
def execLaunchQueueUnregister (entry : Nat) (s : State) : Out :=
  .next (if entry < 256 then s.fwWrite (launchQAt entry) 8 (s.mg64 (launchQAt entry) % 2 ^ 32) else s)

/-- SLOT_BIND (R458). -/
def execSlotBind (fn slot queue : Nat) (s : State) : Out :=
  .next (if fn < 17 ∧ slot < 16 then s.fwWrite (slotQAt fn slot) 4 (2 ^ 31 + queue % 65536) else s)

/-- SLOT_UNBIND (R458): once the slot's command in progress has been performed. -/
def execSlotUnbind (fn slot : Nat) (s : State) : Out :=
  .next (if fn < 17 ∧ slot < 16 then s.fwWrite (slotQAt fn slot) 4 ((s.mg (slotQAt fn slot)).toNat % 65536) else s)

/-- PLIMIT_WRITE: clamped to 1,000-2,000 watts (R483). -/
def execPlimitWrite (v : Word) (s : State) : Out := .next (s.fwWrite 0x018 4 v.toNat)

/-- The counters a write of zero clears: those of R484, and DEMOTED (R454). -/
def isCounter (off : Nat) : Bool :=
  (decide (0x800 ≤ off ∧ off < devCounter devCounters) && off % 8 == 0) ||
  (decide (0x10000 ≤ off ∧ off < 0x21000) && off % 0x1000 == 4) ||
  (decide (0x100000 ≤ off ∧ off < 0x100000 + 0x1000 * 320) &&
    ([0x300, 0x304].contains (off % 0x1000) ||
      (decide (0x400 ≤ off % 0x1000 ∧ off % 0x1000 < 0x400 + 8 * coreCounters) && off % 8 == 0)))

/-- COUNTER_CLEAR (R484). -/
def execCounterClear (off : Nat) (s : State) : Out := .next (if isCounter off then s.fwWrite off 4 0 else s)

/-- MGMT_REGISTER_WRITE (R455): 4 or 8 naturally aligned bytes. -/
def execMgmtRegisterWrite (off n : Nat) (v : Dword) (s : State) : Out := .next (s.fwWrite off n v.toNat)

/-! ### Boot and recovery (R468, R433) -/

/-- The check of an image: the management processor starts where it passes, and firmware accepts the PF's launches; else recovery (R454,
R468). [DESIGN CHOICE, log 6, log 34] -/
def State.bootImage (s : State) (image : List Byte) : State :=
  let ok := Config.sm2Verify (Config.sm3 image) image
  let s := { s with plat := { s.plat with
    image := if ok then image else [], verified := ok, recovery := !ok, ready := if ok then 1 else 0, reports := 0,
    flash := if ok then some image else s.plat.flash } }
  if ok then s.setThread .mp { pc := Config.mpEntry image, nregs := 64 } else s

/-- BOOT: right after reset, the image in flash (R468). [DESIGN CHOICE, log 1] -/
def execBoot (s : State) : Out :=
  .next (if s.plat.verified || s.plat.recovery then s else s.bootImage (s.plat.flash.getD Config.flashImage))

/-- RECOVERY_IMAGE_WRITE: while no verified image runs, an image from the host takes the same check (R468). [DEDUCED, log 39] -/
def execRecoveryImageWrite (image : List Byte) (s : State) : Out := .next (if s.plat.recovery then s.bootImage image else s)

/-! ### Links (R453, R466, R467) -/

/-- The greatest of a falling list at most a bound; 0 where none is. -/
def firstUpTo (l : List Nat) (n : Nat) : Nat := (l.find? (fun x => decide (x ≤ n))).getD 0

/-- PCIE_LINK_TRAIN: the highest generation and width both ends support (R453); `gen` and `width` are the other end's. [DEDUCED, log 39] -/
def execPcieLinkTrain (gen width : Nat) (s : State) : Out :=
  let g := firstUpTo [7, 6, 5] gen
  let w := firstUpTo [16, 8, 4, 1] width
  .next { s with plat := { s.plat with pcieGen := if w = 0 then 0 else g, pcieWidth := if g = 0 then 0 else w } }

/-- VF_ENABLE: firmware enables VFs 1 to `n`, and accepts launches for them (R453, R454). [DESIGN CHOICE, log 34, DEDUCED, log 39] -/
def execVfEnable (n : Nat) (s : State) : Out :=
  .next (if n ≤ 16 ∧ s.plat.verified then { s with plat := { s.plat with vfs := n, ready := s.plat.ready &&& 1 ||| BitVec.ofNat 17 (2 ^ (n + 1) - 2) } } else s)

/-- LINK_FLIT_REPLAY: link 0 is PCI Express, link 1 + p is Jenah port p (R466, R484). -/
def execLinkFlitReplay (link : Nat) (s : State) : Out := .next (if link < 17 then s.countMg (linkReplayAt link) else s)

/-- An address of a peer module. [DESIGN CHOICE, log 12] -/
def peerAt (d : Nat) (ea : Dword) : Bool := ea.toNat / 2 ^ 56 == 5 && ea.toNat / 2 ^ 51 % 32 == d

/-- The peer address of an access not yet performed: a registered future, a posted write. -/
def Work.awaits : Work → Option Dword
  | .futr ea _ true | .futw ea _ _ _ => some ea
  | _ => none

/-- Accesses outstanding to a module end with UNCORRECTABLE_DATA (R466): parked ones, registered futures, watches. [DEDUCED, log 37] -/
def State.cutModule (s : State) (d : Nat) : State :=
  let s := (s.items.filter (fun i => i.table == 4 && peerAt d i.addr)).foldl (fun (u : State) i => u.itemProceed i (some 0x44)) s
  let s := s.flights.foldl (fun (u : State) f => match f.work.awaits with
    | some ea => if peerAt d ea then u.raiseLate f (dataCause ea (if f.long then .load else .store) .g 8) else u
    | none => u) s
  s.threads.foldl (fun (u : State) x => match x.2.wait with
    | .addr w =>
      if w.scratch = false ∧ peerAt d w.addr then
        (u.wake x.1).raise x.1 { u.siteAt x.2 with srcs := [], captured := false } (dataCause w.addr .load .g 4)
      else u
    | _ => u) s

/-- PORT_DOWN: a Jenah port drops out; with the last one no port reaches any module (R466, R484). [DEDUCED, log 37] -/
def execPortDown (port : Nat) (s : State) : Out :=
  .next (if port < 16 ∧ s.plat.portsDown.contains port = false then
    let s := State.countMg { s with plat := { s.plat with portsDown := port :: s.plat.portsDown } } (portDownAt port)
    if s.plat.portsDown.length < 16 then s else (List.range 32).foldl State.cutModule s
  else s)

/-- MODULE_UNREACHABLE: no port reaches a module (R466); later accesses to it raise PROTECTION. [DEDUCED, log 37] -/
def execModuleUnreachable (d : Nat) (s : State) : Out :=
  .next (if d < 32 ∧ s.plat.unreachable.contains d = false then
    State.cutModule { s with plat := { s.plat with unreachable := d :: s.plat.unreachable } } d
  else s)

/-- What a peer's access asks of a page, and its bytes. -/
def peerNeeds : PeerOp → Acc × Nat
  | .load n => (.load, n)
  | .store n _ => (.store, n)
  | .atom _ _ | .atomf _ _ => (.atomic, 4)
  | .cas n _ _ => (.atomic, n)
  | .replay _ _ => (.load, 1)

/-- Perform a peer's access at the home (R206, R467). The answer goes to the peer, whose state is not here. [DESIGN CHOICE, log 12] -/
def State.peerPerform (s : State) (pa : Nat) (op : PeerOp) : State :=
  let old (n : Nat) : Nat := s.homeRead pa n
  match op with
  | .load _ | .replay _ _ => s
  | .store n v => s.homeWrite pa n v
  | .atom f v => if s.badData pa 4 then s else s.homeWrite pa 4 (atomNew f (old 4) v.toNat)
  | .atomf f v => if s.badData pa 4 then s else s.homeWrite pa 4 (atomfNew f (old 4) v.toNat)
  | .cas n e v => if s.badData pa n ∨ old n ≠ e % 2 ^ (8 * n) then s else s.homeWrite pa n v

/-- JENAH_PEER_REQUEST: a peer's access, translated in the context its peer table names and performed here; an absent page writes a
record to this context's FAULTQ under a token of the peer's. Or a peer's firmware replays a token of this module (R467).
[DESIGN CHOICE, log 36] -/
def execJenahPeerRequest (ctx die va : Nat) (op : PeerOp) (s : State) : Out :=
  match op with
  | .replay t fail => .next (s.replayKey 4 (.token t) fail)
  | op =>
    let (k, n) := peerNeeds op
    let ea := die * 2 ^ 56 + va % 2 ^ 48
    if 4 ≤ die ∨ n = 0 ∨ 256 < n ∨ 256 % n ≠ 0 ∨ va % n ≠ 0 then .next s
    else match s.translate ctx k (dword ea) with
      | (.ok pa, s) => .next (s.peerPerform pa op)
      | (.bad _, s) => .next s
      | (.absent, s) =>
        let t := word (4 * 2 ^ 29 + (s.fw 1).toNat % 2 ^ 29)
        .next (s.record ctx (recWords 2 0x40 t (dword ea) (dw (s.fw 2) (s.fw 3)) (accessWord k 0 n) 0 ctx))

/-! ### The Easel stream, thermal limits and scrubbing -/

/-- EASEL_STREAM_RESUME: firmware resumes a stopped stream at an address, or ends it (R290). -/
def execEaselStreamResume (k : Nat) (at' : Option Dword) (s : State) : Out :=
  if !(s.engine k).stopped || !s.plat.verified then .next s
  else
    let s := s.updEngine k (fun e => { e with stopped := false })
    match at' with
    | some pc => .next ((s.wake (.easel k)).updThread (.easel k) (fun t => { t with pc := pc, replay := none }))
    | none => .next (s.exitThread (.easel k))

/-- THERMAL_THROTTLE: power above PLIMIT or a junction above 95 degrees lowers clocks, which changes no result (R483). -/
def execThermalThrottle (milliwatts celsius : Nat) (s : State) : Out :=
  .next { s with plat := { s.plat with
    throttled := decide (95 < celsius ∨ 1000 * ((s.mg 0x018).toNat % 4096) < milliwatts) } }

/-- The contexts with anything on the device. -/
def State.contexts (s : State) : List Nat :=
  (s.crews.map (·.ctx) ++ (s.launches.filter (fun l => !l.done)).map (·.ctx) ++ s.savedEngines.map (·.ctx) ++
    s.accepts.map (·.ctx)).eraseDups

/-- THERMAL_SHUTDOWN: above 110 degrees every context stops, its unfinished launches complete with CANCELLED, and READY is 0 (R483).
[DESIGN CHOICE, log 38] -/
def execThermalShutdown (celsius : Nat) (s : State) : Out :=
  if celsius ≤ 110 ∨ s.plat.stopped then .next s
  else
    let cs := s.contexts
    let s := s.wbWhere (fun _ => true)
    let s := s.crews.foldl (fun (u : State) c => u.stopCrew c.id) s
    let s := cs.foldl (fun (u : State) c => u.removeCtx c) s
    .next { s with plat := { s.plat with stopped := true, ready := 0 } }

/-- MEMORY_SCRUB: a sector of a stack is read and checked: a corrected one is counted; an uncorrectable one fails until every byte of
it has been written again (R452, R484). [DESIGN CHOICE, log 40] -/
def execMemoryScrub (stack sector : Nat) (find : ScrubFind) (s : State) : Out :=
  if 8 ≤ stack ∨ sector * 32 / 2 ^ 36 ≠ stack then .next s
  else match find with
    | .clean => .next s
    | .corrected => .next (s.countMg (scrubFixAt stack))
    | .uncorrectable => .next (s.failSector sector)

end Sys2Proof.Machine
end

