-- ==== Sys2Proof/Machine/Integer.lean ====
section
/-! DEFINITION. The meanings of opcode group 0 (R119-R139): integer arithmetic, logic, shifts, counts, fields, bytes, moves and
special registers. -/

namespace Sys2Proof.Machine

/-- The words of an arithmetic entry (R122): `f` of A and S as the type reads them, narrowed. -/
def arith (t : IntTy) (sat : Bool) (c : Opnd) (f : Int → Int → Int) (v : Vals) : List Word :=
  narrow t sat (f (intVal t (natOf v.a)) (srcS t c v.b))

/-- The words of a logic or shift entry (R123, R124): `f` of A and S as patterns. -/
def logic (t : IntTy) (c : Opnd) (f : Nat → Nat → Nat) (v : Vals) : List Word :=
  wordsOf t.wide (f (natOf v.a) (srcN c v.b))

/-- Position and length of BFX and BFI: raw fields, or the low 8 bits of registers B and C (R127). -/
def bfPos (x : Args) (v : Vals) : Nat :=
  match x.b with
  | .imm i => i.toNat
  | _ => natOf v.b % 256
def bfLen (x : Args) (v : Vals) : Nat :=
  match x.c with
  | .imm i => i.toNat
  | _ => natOf v.c % 256

/-- MOVI's words (R134). -/
def moviWords (t : IntTy) (l : Word) : List Word :=
  match t with
  | .s64 => [l, if l.msb then 0xFFFFFFFF else 0]
  | .u64 => [l, 0]
  | _ => [l]

/-- NOP: no effect beyond the pc (R135). -/
def execNop (x : Args) (s : State) : Out :=
  issue s (issOf (.nop x)) (pureBody (fun _ => []))

/-- IADD: A + S (R122). -/
def execIadd (x : Args) (t : IntTy) (sat : Bool) (s : State) : Out :=
  issue s (issOf (.iadd x t sat)) (pureBody (arith t sat x.c (· + ·)))

/-- ISUB: A - S (R122). -/
def execIsub (x : Args) (t : IntTy) (sat : Bool) (s : State) : Out :=
  issue s (issOf (.isub x t sat)) (pureBody (arith t sat x.c (· - ·)))

/-- IMUL: A * S (R122). -/
def execImul (x : Args) (t : IntTy) (sat : Bool) (s : State) : Out :=
  issue s (issOf (.imul x t sat)) (pureBody (arith t sat x.c (· * ·)))

/-- IMULHI: floor(A * S / 2^w) (R122). -/
def execImulhi (x : Args) (t : IntTy) (s : State) : Out :=
  issue s (issOf (.imulhi x t)) (pureBody (arith t false x.c (fun a b => a * b / 2 ^ IntTy.w t)))

/-- IMAD: A * B + C (R122). -/
def execImad (x : Args) (t : IntTy) (sat : Bool) (s : State) : Out :=
  issue s (issOf (.imad x t sat)) (pureBody (fun v => narrow t sat
    (intVal t (natOf v.a) * intVal t (natOf v.b) + srcC t x.c v.c)))

/-- IMIN: the lesser (R122). -/
def execImin (x : Args) (t : IntTy) (s : State) : Out :=
  issue s (issOf (.imin x t)) (pureBody (arith t false x.c min))

/-- IMAX: the greater (R122). -/
def execImax (x : Args) (t : IntTy) (s : State) : Out :=
  issue s (issOf (.imax x t)) (pureBody (arith t false x.c max))

/-- IABS: |A| (R122). -/
def execIabs (x : Args) (t : IntTy) (sat : Bool) (s : State) : Out :=
  issue s (issOf (.iabs x t sat)) (pureBody (fun v => narrow t sat (intVal t (natOf v.a)).natAbs))

/-- AND (R123). -/
def execAnd (x : Args) (t : IntTy) (s : State) : Out :=
  issue s (issOf (.and x t)) (pureBody (logic t x.c (· &&& ·)))

/-- OR (R123). -/
def execOr (x : Args) (t : IntTy) (s : State) : Out :=
  issue s (issOf (.or x t)) (pureBody (logic t x.c (· ||| ·)))

/-- XOR (R123). -/
def execXor (x : Args) (t : IntTy) (s : State) : Out :=
  issue s (issOf (.xor x t)) (pureBody (logic t x.c (· ^^^ ·)))

/-- ANDN: A and not S (R123). -/
def execAndn (x : Args) (t : IntTy) (s : State) : Out :=
  issue s (issOf (.andn x t)) (pureBody (logic t x.c (nandn (IntTy.w t))))

/-- LOP3: a bitwise function of A, B and the old D (R125). -/
def execLop3 (x : Args) (t : IntTy) (s : State) : Out :=
  issue s (issOf (.lop3 x t)) (pureBody (fun v =>
    wordsOf t.wide (lop3N (srcN x.c []) (natOf v.a) (natOf v.b) (natOf v.d) (IntTy.w t))))

/-- SHL (R124). -/
def execShl (x : Args) (t : IntTy) (s : State) : Out :=
  issue s (issOf (.shl x t)) (pureBody (logic t x.c (shlN (IntTy.w t))))

/-- SHR (R124). -/
def execShr (x : Args) (t : IntTy) (s : State) : Out :=
  issue s (issOf (.shr x t)) (pureBody (logic t x.c (shrN (IntTy.w t))))

/-- SAR (R124). -/
def execSar (x : Args) (t : IntTy) (s : State) : Out :=
  issue s (issOf (.sar x t)) (pureBody (logic t x.c (sarN (IntTy.w t))))

/-- ROTL (R124). -/
def execRotl (x : Args) (t : IntTy) (s : State) : Out :=
  issue s (issOf (.rotl x t)) (pureBody (logic t x.c (rotlN (IntTy.w t))))

/-- POPC (R126): D is 32 bits at either width. -/
def execPopc (x : Args) (t : IntTy) (s : State) : Out :=
  issue s (issOf (.popc x t)) (pureBody (fun v => [word (popcN (natOf v.a) (IntTy.w t))]))

/-- CLZ (R126): D is 32 bits at either width. -/
def execClz (x : Args) (t : IntTy) (s : State) : Out :=
  issue s (issOf (.clz x t)) (pureBody (fun v => [word (clzN (natOf v.a) (IntTy.w t))]))

/-- BREV (R126). -/
def execBrev (x : Args) (t : IntTy) (s : State) : Out :=
  issue s (issOf (.brev x t)) (pureBody (fun v => wordsOf t.wide (brevN (IntTy.w t) (natOf v.a) (IntTy.w t))))

/-- BFX (R127). -/
def execBfx (x : Args) (t : IntTy) (s : State) : Out :=
  issue s (issOf (.bfx x t)) (pureBody (fun v =>
    wordsOf t.wide (bfxN t.signed (IntTy.w t) (natOf v.a) (bfPos x v) (bfLen x v))))

/-- BFI (R127). -/
def execBfi (x : Args) (t : IntTy) (s : State) : Out :=
  issue s (issOf (.bfi x t)) (pureBody (fun v =>
    wordsOf t.wide (bfiN (IntTy.w t) (natOf v.a) (natOf v.d) (bfPos x v) (bfLen x v))))

/-- PRMT (R128). -/
def execPrmt (x : Args) (s : State) : Out :=
  issue s (issOf (.prmt x)) (pureBody (fun v => [word (prmtN (natOf v.a) (natOf v.b) (natOf v.c))]))

/-- IDP4 (R129). -/
def execIdp4 (x : Args) (t : IntTy) (sat : Bool) (bb : Idp4B) (s : State) : Out :=
  issue s (issOf (.idp4 x t sat bb)) (pureBody (fun v => narrow t sat
    (idp4X t.signed (match bb with
      | .same => t.signed
      | .u8 => false
      | .s8 => true) (natOf v.a) (natOf v.b) (srcC t x.c v.c))))

/-- LEA: B + (Ext(A) << C) modulo 2^64 (R130). -/
def execLea (x : Args) (t : IntTy) (s : State) : Out :=
  issue s (issOf (.lea x t)) (pureBody (fun v =>
    wordsOf true (wrapTo 64 ((natOf v.b : Int) + intVal t (natOf v.a) * 2 ^ srcN x.c []))))

/-- ICMP: a predicate, the relation of A and S in the type (R131). -/
def execIcmp (x : Args) (t : IntTy) (rel : Rel) (s : State) : Out :=
  issue s (issOf (.icmp x t rel)) (pureBody (fun v =>
    boolWord (relInt rel (intVal t (natOf v.a)) (srcS t x.c v.b))))

/-- SEL: A where predicate C holds, else B (R132). -/
def execSel (x : Args) (t : IntTy) (s : State) : Out :=
  issue s (issOf (.sel x t)) (pureBody (fun v => if (v.c.headD 0).getLsbD 0 then v.a else v.b))

/-- MOV (R133). -/
def execMov (x : Args) (t : IntTy) (s : State) : Out :=
  issue s (issOf (.mov x t)) (pureBody (fun v => v.a))

/-- MOVI (R134). -/
def execMovi (x : Args) (t : IntTy) (lit : Word) (s : State) : Out :=
  issue s (issOf (.movi x t lit)) (pureBody (fun _ => moviWords t lit))

/-! ### Special registers (R136-R139) -/

/-- The numbers of R137 and how many registers each takes. -/
def specialRegs (n : Nat) : Option Nat :=
  if [0x00, 0x03, 0x08, 0x09, 0x10, 0x1A, 0x21, 0x31, 0x32, 0x33].contains n then some 2
  else if n = 0x0A then some 4
  else if [0x01, 0x02, 0x04, 0x05, 0x06, 0x19, 0x20, 0x30].contains n ∨ (0x11 ≤ n ∧ n ≤ 0x18) ∨ (0x28 ≤ n ∧ n ≤ 0x2F) then some 1
  else none

/-- The numbers the Easel core can read (R137); the management processor reads the same (it is not a vector core). -/
def scalarReads (n : Nat) : Bool := n == 4 || n == 0x21 || (0x28 ≤ n && n ≤ 0x2F)

/-- MOVSW may write the number (R137). -/
def specialWritable (n : Nat) : Bool := (0x11 ≤ n && n ≤ 0x19) || n == 0x20 || n == 0x32

/-- Handler-only numbers (R137). -/
def handlerOnly (n : Nat) : Bool := 0x30 ≤ n && n ≤ 0x33

/-- The number in C. -/
def regNumber (x : Args) : Nat := srcN x.c []

/-- The checks of R137 in their place among those of R118. -/
def specialCheck (n : Nat) (write : Bool) (s : State) (a : Actor) (t : Thread) : Option Cause :=
  if !isVector a && !scalarReads n then some { code := 0x07 }
  else if (specialRegs n).isNone then some { code := 0x03 }
  else if handlerOnly n && !(t.inHandler || isFirmware a t) then some { code := 0x08 }
  else if write && !specialWritable n then some { code := 0x03 }
  else if write && 0x11 ≤ n && n ≤ 0x19 && ((s.pktOf t).record || (s.pktOf t).replay) then some { code := 0x08 }
  else none

/-- CORE: die, cluster within the die, core within the cluster (R23); the Easel core's CORE field reads zero (R137); it is telemetry
(R24). The management processor stands on no compute die: its value is free. -/
def State.coreReg (s : State) (a : Actor) : Word :=
  match a with
  | .mp => s.fw 0
  | _ =>
    let c := s.coreOf a
    word (dieOfCore c * 128 + (clusterOfCore c % 20) * 4 + c % 4)

/-- The bits of field 1 of a launch's WIDs (R13). -/
def Packet.w1 (p : Packet) : Nat := p.w.getD 1 0

/-- ROLE as stored (R26) and PART (R25) of the actor's squad. -/
def State.squadOf (s : State) (a : Actor) : Squad := (s.squad? (squadKey a)).getD { crew := 0, num := 0, shadow := false }

/-- The frontier's key as FRONTIER reads (R366, R367): all ones outside a domain and once it has ended. -/
def State.frontierKey (s : State) (a : Actor) (t : Thread) : Nat :=
  match s.taskOf a, t.launch with
  | some _, some l => (s.frontier l).getD (2 ^ 128 - 1)
  | _, _ => 2 ^ 128 - 1

/-- The words a special register reads, low first (R136-R139, R366), and the state after the read: FRONTIER may lag, never
decreasing for one thread (R367); CLOCK never decreases for one thread either (R138). [DEDUCED, log 8] -/
def State.readSpecial (s : State) (a : Actor) (t : Thread) (n : Nat) : List Word × State :=
  let pk := s.pktOf t
  let two (v : Nat) : List Word := wordsOf true v
  if n = 0x00 then (two t.wid.toNat, s)
  else if n = 0x01 then ([word (t.wid.toNat % 32)], s)
  else if n = 0x02 then ([word (t.wid.toNat / 32 % 2 ^ pk.w1)], s)
  else if n = 0x03 then (two (t.wid.toNat / 2 ^ (5 + pk.w1)), s)
  else if n = 0x04 then ([s.coreReg a], s)
  else if n = 0x05 then ([word (s.squadOf a).part], s)
  else if n = 0x06 then ([(s.squadOf a).role.setWidth 32], s)
  else if n = 0x08 then (two (((s.taskOf a).map (fun k => k.key / 2 ^ 64)).getD 0), s)
  else if n = 0x09 then (two (((s.taskOf a).map (fun k => k.key % 2 ^ 64)).getD 0), s)
  else if n = 0x0A then
    let (old, s) := s.freeBit
    let k := s.frontierKey a t
    let r := if old then min k (t.frontierSeen.getD k) else k
    (two r ++ two (r / 2 ^ 64), s.updThread a (fun u => { u with frontierSeen := some r }))
  else if n = 0x10 then (two pk.seed.toNat, s)
  else if 0x11 ≤ n ∧ n ≤ 0x18 then ([cget 0 t.dcount (n - 0x11)], s)
  else if n = 0x19 then ([t.rcount], s)
  else if n = 0x1A then (two pk.cvbase.toNat, s)
  else if n = 0x20 then ([((s.crew? (crewOf a)).map (·.bankconf)).getD 0], s)
  else if n = 0x21 then
    let k := max (s.cycle (s.issuerOf a)) t.clockSeen
    (two k, s.updThread a (fun u => { u with clockSeen := k }))
  else if 0x28 ≤ n ∧ n ≤ 0x2F then ([pk.shape.getD (n - 0x28) 0], s)
  else if n = 0x30 then ([word t.trap.cause], s)
  else if n = 0x31 then (two t.trap.detail.toNat, s)
  else if n = 0x32 then (two t.trap.epc.toNat, s)
  else if n = 0x33 then (two t.trap.ewid.toNat, s)
  else ([], s)

/-- The effect of MOVSW (R136, R137). -/
def State.writeSpecial (s : State) (a : Actor) (n : Nat) (ws : List Word) : State :=
  let w := ws.headD 0
  if 0x11 ≤ n ∧ n ≤ 0x18 then s.updThread a (fun t => { t with dcount := cset 0 t.dcount (n - 0x11) w })
  else if n = 0x19 then s.updThread a (fun t => { t with rcount := w })
  else if n = 0x20 then s.updCrew (crewOf a) (fun c => { c with bankconf := w })
  else if n = 0x32 then s.updThread a (fun t => { t with trap := { t.trap with epc := dword (natOf ws / 4 * 4) } })
  else s

/-- The draw counters count retired draws (R318): a read or a write of one waits for the thread's draws and `.sr` conversions
under way. -/
def State.drawsPending (s : State) (a : Actor) (n : Nat) : Bool :=
  0x11 ≤ n && n ≤ 0x19 && (s.flightsOf a).any (fun f => f.work.counts)

/-- D of MOVS by the register's width (R136). -/
def movsArgs (x : Args) : Args :=
  match x.d, specialRegs (regNumber x) with
  | .reg c, some 2 => { x with d := .pair c }
  | .reg c, some 4 => { x with d := .run c 4 }
  | _, _ => x

/-- MOVS (R136, R137). -/
def execMovs (x : Args) (s : State) : Out :=
  issueChk s (issOf (.movs (movsArgs x))) (specialCheck (regNumber x) false s) (fun a t _ s =>
    if s.drawsPending a (regNumber x) then .stay .none
    else
      let (ws, s) := s.readSpecial a t (regNumber x)
      .done ws s)

/-- MOVSW (R136, R137). -/
def execMovsw (x : Args) (s : State) : Out :=
  issueChk s (issOf (.movsw x)) (specialCheck (regNumber x) true s) (fun a _ v s =>
    if s.drawsPending a (regNumber x) then .stay .none
    else .done [] (s.writeSpecial a (regNumber x) v.a))

end Sys2Proof.Machine
end

