-- ==== Sys2Proof/Machine/Picker.lean ====
section
/-! DEFINITION. The picker (R27-R34): which threads are ready, the group of a core cycle, the counts of every cycle (R276, R284, R437,
R473, R474); samples and the events of marker trace (R477, R478); and what a thread of a group does before its instruction (R451,
R479). -/

namespace Sys2Proof.Machine

/-! ### Conditions looked at again (R33) -/

/-- A FUTR that is registered at an empty future (R219). -/
def Flight.unfilled (f : Flight) : Bool :=
  match f.work with
  | .futr _ _ true => true
  | _ => false

/-- A condition that no event of its own ends has ended: channels, mailbox, copy batches, the frontier, a parked instruction, an unfilled
FUTR, a command at a queue (R32, R219, R236, R292, R352, R384). -/
def State.waitOver (s : State) (a : Actor) (t : Thread) : Bool :=
  match t.wait with
  | .channel _ => match s.nextIss t with
    | some (_, p) => match s.chanGate a t p with
      | .wait _ => false
      | _ => true
    | none => true
  | .mailbox => match a with
    | .easel k => (popRequest (s.engine k).mailbox []).isSome || (s.engine k).pending.isSome
    | _ => match s.mailboxAns a t.ctx with
      | .wait _ => false
      | _ => true
  | .batch n => !t.copyFaults.isEmpty || decide ((s.openBatches t).length ≤ n.getD 7)
  | .frontier => !s.speculative a
  | .flight f => match s.flight? f with
    | some x => x.orphan || !(x.park.isSome || x.unfilled)
    | none => true
  | .command c => !(s.qcmds.any (fun k => k.lead == c)) && !(s.queues.any (fun q => q.waiters.any (fun k => k.lead == c)))
  | _ => false

/-- The actors an issuer serves: the resident threads of a core, or a scalar core's thread. -/
def State.servedBy (s : State) (i : Issuer) : List Actor :=
  match i with
  | .core c => s.actorsOn c
  | .easel k => [.easel k]
  | .mp => [.mp]

/-- Threads whose conditions have ended become eligible (R33). -/
def State.wakeEnded (s : State) (i : Issuer) : State :=
  (s.servedBy i).foldl (fun (u : State) a => match u.thread? a with
    | some t => if !t.exited && u.waitOver a t then u.wake a else u
    | none => u) s

/-- A yielded thread whose ready threads have all issued since, or stopped being eligible, is yielded no longer, nor is one whose 64 core
cycles have passed (R34). [DESIGN CHOICE, log 48] -/
def State.unyield (s : State) (i : Issuer) : State :=
  let done (c : Nat) (b : Actor) : Bool := match s.thread? b with
    | some t => t.exited || t.wait != .none || !s.resident b || decide (c < t.elig)
    | none => true
  (s.servedBy i).foldl (fun (u : State) a => u.updThread a (fun t => match t.yielded with
    | some (c, l) => if l.all (done c) || decide (c + 64 ≤ s.cycle i) then { t with yielded := none } else t
    | none => t)) s

/-! ### What holds an instruction that the scoreboard would let go (R27, R201) -/

/-- The word of an operand that names a register. -/
def State.peek (s : State) (a : Actor) (t : Thread) (o : Opnd) : Word :=
  match o with
  | .reg c => s.reg a t c.toNat
  | _ => 0

/-- The global addresses and sizes of the accesses that an instruction makes for its thread (R198, R200, R205). -/
def State.accessOf (s : State) (a : Actor) (t : Thread) (i : Instr) : List (Dword × Nat) :=
  let at' (x : Args) (sp : Space) (off : Int) (n : Nat) : List (Dword × Nat) :=
    let base := (s.readOpnd a t x.a).1
    match sp with
    | .x => []
    | .g => [(memEa .g base off, n)]
    | .pv => [(t.privBase + memEa .pv base off, n)]
  let stack (d : Int) : List (Dword × Nat) := [(t.privBase + (BitVec.ofInt 64 ((s.reg a t 1).toNat + d)), 8)]
  let tensor (x : Args) : List (Dword × Nat) :=
    let e := s.palEntry t.ctx (immOf x.c)
    if isScratchEnt e then [] else (tensorPieces e (s.readOpnd a t x.a).1).map (fun q => (BitVec.ofInt 64 q.1, q.2))
  match i with
  | .ld x w sp | .st x w sp => at' x sp (offsetOf x) w.bytes
  | .ldLong x w sp l | .stLong x w sp l => at' x sp l.toInt w.bytes
  | .atom x _ _ | .atomf x _ _ => at' x .g (offsetOf x) 4
  | .atomLong x _ _ l | .atomfLong x _ _ l => at' x .g l.toInt 4
  | .atomcas x w _ => at' x .g (offsetOf x) (if w then 8 else 4)
  | .atomcasLong x w _ l => at' x .g l.toInt (if w then 8 else 4)
  | .acq x _ | .rel x _ | .futr x _ | .futw x _ => at' x .g (offsetOf x) 8
  | .acqLong x _ l | .relLong x _ l | .futrLong x _ l | .futwLong x _ l => at' x .g l.toInt 8
  | .waita x _ sp => at' x sp (offsetOf x) 4
  | .waitaLong x _ sp l => at' x sp l.toInt 4
  | .call _ _ | .callx _ => stack (-8)
  | .ret _ => stack 0
  | .ldt x | .stt x => tensor x
  | _ => []

/-- The register codes on which the next issue depends: all it names, or only its guard where that is false (R106, R114). -/
def namedCodes (t : Thread) (p : Iss) : List Nat :=
  if guardOn t p.x.guard then p.x.d.codes ++ p.x.a.codes ++ p.x.b.codes ++ p.x.c.codes ++ p.x.guard.codes ++ p.regs
  else p.x.guard.codes

/-- The next issue must wait for an instruction's result (R114, R115): its window is exhausted; the instruction names its destination, is a
REGB (R163), reads or writes a draw counter (R320), or makes an access that comes after it (R200). -/
def State.blocks (s : State) (a : Actor) (t : Thread) (i : Instr) (p : Iss) (f : Flight) : Bool :=
  (f.long && decide (f.window < p.count)) || (namedCodes t p).any (fun c => (f.dest.codes ++ f.predCode).contains c) ||
  (guardOn t p.x.guard && (match i with
    | .regb _ => f.long
    | .movs x | .movsw x => decide (0x11 ≤ regNumber x ∧ regNumber x ≤ 0x19) && f.work.counts
    | _ => t.replay.isNone && p.x.a.chan?.isNone && (s.accessOf a t i).any (fun e =>
        !(s.parkedOn a t.ctx e.1) && (f.work.overlapsAt e.1.toNat e.2 || f.work.releases e.1.toNat e.2))))

/-- What a thread's instruction is for its unit, besides the scoreboard and the windows (R27, R201): a copy needs a slot and the
thread's earlier writes to its footprint (R268, R273), REGB the end of every long-latency result (R163), CHSET that of the pushes
through the entry (R233), FENCE, MUTL, TRACE and MXREQ that of earlier writes (R210, R236), MOVS and MOVSW of a draw counter that of
draws (R320), QCFG and QSTAT that of earlier commands (R351), TLBINV that of the accesses translated by what it drops (R446), an
access that of the accesses it comes after (R200). Of the copies only one that passes its checks is held (R273).
[DESIGN CHOICE, log 26] -/
def State.unitHeld (s : State) (a : Actor) (t : Thread) (i : Instr) (p : Iss) : Bool :=
  match i with
  | .regb _ => (s.flightsOf a).any (·.long)
  | .fence _ sc => (s.strictCause t.ctx sc).isNone && !s.drained a
  | .mutl _ | .trace _ => !s.drained a
  | .mxreq _ => !s.writesDone a
  | .movs x | .movsw x => s.drawsPending a (regNumber x)
  | .chset x | .chsetLong x _ => s.chanUnfilled a (copyId x % 16)
  | .qcfg x =>
    let q := (s.peek a t x.a).toNat % 65536
    ((s.queue? q).map (·.releasing)).getD false || s.sentTo a q
  | .qstat x => s.sentTo a ((s.peek a t x.a).toNat % 65536)
  | .tlbinv x =>
    let v := s.valsOf a t p
    let ea := (dw (v.a.headD 0) (v.a.getD 1 0)).toNat
    s.staleAccess (invDrops (immOf x.c) ((v.b.headD 0).toNat % 65536) ea)
  | i => (match s.copyPasses a t i p with
      | some j => !s.slotFree j.core (squadKey a) || s.copyBehind a j
      | none => false) ||
    (t.replay.isNone && p.x.a.chan?.isNone && (s.accessOf a t i).any (fun e =>
      !(s.parkedOn a t.ctx e.1) && (s.donePending a e.1 e.2 || (s.ownEarlier a e.1 e.2).isSome)))

/-- The instruction that the next issue of a thread waits for as on a condition (R32): a parked one it must wait for; or an unfilled FUTR,
where it waits for unfilled FUTRs only (R219). [DESIGN CHOICE, log 26] -/
def State.waitsFor (s : State) (a : Actor) (t : Thread) (i : Instr) (p : Iss) : Option Flight :=
  let l := (s.flightsOf a).filter (s.blocks a t i p)
  match l.find? (·.park.isSome), l.find? Flight.unfilled with
  | some f, _ => some f
  | none, some f =>
    let u := { s with flights := s.flights.filter (fun g => !(decide (g.owner = a) && g.unfilled)) }
    if (if guardOn t p.x.guard then u.ready a t p && !u.unitHeld a t i p else u.readyOff a t p) then some f else none
  | none, none => none

/-- The condition of R32 that holds a thread at its next instruction before it issues: what `waitsFor` finds, the frontier, a channel, a
mailbox, its batches; and where it is to ask the Basin for what it reads of a channel (R358). A breakpoint that matches comes first
(R479). -/
def State.enterWait (s : State) (a : Actor) (t : Thread) : State :=
  let wait (w : Wait) : State := s.updThread a (fun u => { u with wait := w, yielded := none })
  if t.met.isSome || !s.canIssue a t || t.softErr.isSome || s.breaks t then s
  else match s.nextIss t with
    | none => s
    | some (i, p) => match s.waitsFor a t i p with
      | some f => wait (.flight f.id)
      | none =>
        if !guardOn t p.x.guard || !s.ready a t p || (decodeCheck a t p none).isSome then s
        else if (p.irrev || s.usesOuterChan a p.x) && s.speculative a then wait .frontier
        else match s.chanGate a t p with
          | .wait w => wait w
          | .ask l => s.askBasin a t l
          | .bad _ => s
          | .go => match i with
            | .mxreq _ => match s.mailboxAns a t.ctx with
              | .wait w => wait w
              | _ => s
            | .cseal _ => if t.copyFaults.isEmpty && decide (8 ≤ (s.openBatches t).length) then wait (.batch none) else s
            | .cwait x => if t.copyFaults.isEmpty && decide (copyId x < (s.openBatches t).length) then wait (.batch (some (copyId x))) else s
            | _ => s

/-- Threads that stand at such a condition wait on it (R32). [DESIGN CHOICE, log 26] -/
def State.enterWaits (s : State) (i : Issuer) : State :=
  (s.servedBy i).foldl (fun (u : State) a => match u.thread? a with
    | some t => u.enterWait a t
    | none => u) s

/-! ### The choice (R27-R29) -/

/-- The unit that an instruction needs cannot take it in this cycle (R27): the manual says nothing of the units, so this is free.
[DESIGN CHOICE, log 3, log 26] -/
def State.unitBusy (s : State) (op : Nat) : Bool := s.grp.busy.testBit (op / 32)

/-- The parcels of a thread's next instruction have not come yet in this cycle (R474): the manual says nothing of the instruction caches, so
this is free. [DESIGN CHOICE, log 3, log 26] -/
def State.parcelsLate (s : State) (t : Thread) : Bool := s.grp.busy.testBit (8 + t.slot)

/-- A thread's instruction can issue in this cycle (R27); a formed meeting's when it can issue whole (R28, R152). What cannot be fetched or
decoded is taken up at once. -/
def State.isReady (s : State) (a : Actor) (t : Thread) : Bool :=
  match t.met, a with
  | some m, .thread r => s.canIssue a t && !s.unitBusy m.arr.instr.op && s.meetingReady r
  | _, _ => !s.parcelsLate t && s.readyThread a && (match s.nextIss t with
    | some (i, p) => !s.unitBusy i.op && !(guardOn t p.x.guard && s.unitHeld a t i p)
    | none => true)

/-- Older: an earlier eligibility time, a lower slot breaking ties (R27). -/
def older (x y : Actor × Thread) : Bool :=
  decide (x.2.elig < y.2.elig ∨ (x.2.elig = y.2.elig ∧ x.2.slot ≤ y.2.slot))

/-- The ready threads of an issuer, oldest first, without those that turned out not to issue in this cycle. -/
def State.readyList (s : State) (i : Issuer) (skip : List Actor) : List (Actor × Thread) :=
  sortBy older ((s.servedBy i).filterMap (fun a => match s.thread? a with
    | some t => if !skip.contains a && s.isReady a t then some (a, t) else none
    | none => none))

/-- The pair of a thread (R29). -/
def pairOf (x : Actor × Thread) : Nat × Dword := (x.2.ctx, x.2.pc)

/-- Two threads belong to one formed meeting. -/
def sameMeeting (x y : Actor × Thread) : Bool :=
  match x.2.met, y.2.met with
  | some m, some n => m.lanes == n.lanes && squadKey x.1 == squadKey y.1
  | _, _ => false

/-- The ready threads as the picker takes them (R28): alone, or a whole meeting where its oldest member stands. -/
def unitsOf : List (Actor × Thread) → List (Actor × Thread) → List (List (Actor × Thread))
  | [], _ => []
  | x :: r, seen =>
    if seen.any (sameMeeting x) then unitsOf r seen
    else (x :: r.filter (sameMeeting x)) :: unitsOf r (x :: seen)

/-- The pair of a unit: its oldest thread's. -/
def unitPair (u : List (Actor × Thread)) : Option (Nat × Dword) := u.head?.map pairOf

/-- The pair with the most threads; the first of the list, whose oldest thread is the oldest, breaks ties. -/
def mostOf (l : List (List (Actor × Thread))) : Option (Nat × Dword) :=
  let keys := (l.filterMap unitPair).eraseDups
  let count (k : Nat × Dword) : Nat := l.foldl (fun n u => if unitPair u = some k then n + u.length else n) 0
  keys.foldl (fun (m : Option (Nat × Dword)) k => match m with
    | some b => if count b < count k then some k else m
    | none => some k) none

/-- The oldest units that fit in `n` places; a meeting that does not fit whole is passed over. [DESIGN CHOICE, log 26] -/
def takeUnits : Nat → List (List (Actor × Thread)) → List Actor
  | _, [] => []
  | n, u :: r => if u.length ≤ n then u.map (·.1) ++ takeUnits (n - u.length) r else takeUnits n r

/-- The group of a cycle from its ready threads (R28, R29): at most 64, the oldest; meetings whole. -/
def chooseGroup (even : Bool) (l : List (Actor × Thread)) : List Actor :=
  let us := unitsOf (if even then l.filter (fun x => x.2.yielded.isNone) else l) []
  match (if even then mostOf us else us.head?.bind unitPair) with
  | some k => takeUnits 64 (us.filter (fun u => unitPair u == some k))
  | none => []

/-- The order of a group's threads is free (R30): a list in the order that free numbers pick. [DESIGN CHOICE, log 3] -/
def shuffle {α : Type} (f : Nat → Nat) : Nat → List α → List α
  | 0, l => l
  | n + 1, l => match l[f n % l.length]? with
    | some x => x :: shuffle f n (l.eraseIdx (f n % l.length))
    | none => l

/-- The threads of a group that issue SPAWN act in lane order within a crew (R370): each place of a list goes to the first of its crew in
`pool`. -/
def laneOrder : List Actor → List Actor → List Actor
  | [], _ => []
  | a :: r, pool => match pool.find? (fun b => crewOf b == crewOf a) with
    | some b => b :: laneOrder r (pool.erase b)
    | none => laneOrder r pool

/-- The threads stand at SPAWN. -/
def State.atSpawn (s : State) (l : List Actor) : Bool :=
  match (l.head?.bind s.thread?).bind s.nextIss with
  | some (.spawn _, _) => true
  | _ => false

/-- The threads of a group, oldest first, as far as the slots of their streamer go: a younger copy does not take the slot that an older one
is ready for (R31, R273). `used` holds the squads whose reserved slot is taken, `n` counts the slots of the pool.
[DESIGN CHOICE, log 26] -/
def State.fitSlots (s : State) : List Actor → List (Nat × Nat × Bool) → Nat → List Actor
  | [], _, _ => []
  | a :: r, used, n =>
    let copies : Bool := match s.thread? a with
      | some t => t.met.isNone && (match s.nextIss t with
        | some (i, p) => guardOn t p.x.guard && (s.copyPasses a t i p).isSome
        | none => false)
      | none => false
    if !copies then a :: s.fitSlots r used n
    else if s.reservedFree (squadKey a) && !used.contains (squadKey a) then a :: s.fitSlots r (squadKey a :: used) n
    else if (s.poolJobs (s.coreOf a)).length + n < 32 then a :: s.fitSlots r used (n + 1)
    else s.fitSlots r used n

/-- Choose the group of an issuer's present cycle; none where nobody is ready. [DESIGN CHOICE, log 26] -/
def State.pickGroup (s : State) (i : Issuer) (skip : List Actor) : State :=
  let g := s.fitSlots (chooseGroup (s.cycle i % 2 == 0) (s.readyList i skip)) [] 0
  let free (n : Nat) : Nat := Config.freeNat (2 ^ 64 + 64 * s.tick + n)
  let order := shuffle free g.length g
  { s with grp := { s.grp with
      who := none, rest := if s.atSpawn g then laneOrder order (sortBy (fun a b => decide (laneOf a ≤ laneOf b)) g) else order, num := s.grp.num + 1,
      by' := if g.isEmpty then none else some i, members := g, stalled := skip } }

/-- A core cycle begins: which units are busy in it and whose parcels are late is free (R27, R474), and its ready threads are noted (R34).
[DESIGN CHOICE, log 3] -/
def State.beginCycle (s : State) (i : Issuer) : State :=
  let s := { s with grp := { num := s.grp.num, busy := Config.freeNat (2 ^ 65 + s.tick) } }
  { s with grp := { s.grp with ready := (s.readyList i []).map (·.1) } }

/-! ### Stall accounting (R473, R474) -/

/-- A result, a count of draws or a reserved place holds the instruction as the scoreboard does (R163, R233, R320). -/
def State.resultHeld (s : State) (a : Actor) (i : Instr) : Bool :=
  match i with
  | .regb _ => (s.flightsOf a).any (·.long)
  | .movs x | .movsw x => s.drawsPending a (regNumber x)
  | .chset x | .chsetLong x _ => s.chanUnfilled a (copyId x % 16)
  | _ => false

/-- The first reason of R474 that applies to a thread, 1-12: a guarded-off instruction depends on its guard only; QCFG and QSTAT behind
commands wait on their queue, MXREQ behind earlier writes at the mailbox. [DESIGN CHOICE, log 26] -/
def State.reasonOf (s : State) (a : Actor) (t : Thread) : Nat :=
  if t.inHandler then 1
  else match t.wait with
    | .park _ | .deferred => 2
    | .flight f => if ((s.flight? f).map (·.unfilled)).getD false then 4 else 2
    | .meeting _ | .crbar _ => 3
    | .addr _ | .frontier => 4
    | .batch _ => 5
    | .channel _ | .command _ => 6
    | .mailbox => 9
    | .nap _ _ => 11
    | .trap => 7
    | .none => match s.nextIss t with
      | some (i, p) =>
        if t.met.isSome then 12
        else if s.parcelsLate t then (if s.windowsOpen a 1 then 10 else 8)
        else if !s.scoreboard a (namedCodes t p) || (guardOn t p.x.guard && s.resultHeld a i) then 7
        else if !s.readyThread a then 8
        else match guardOn t p.x.guard && s.unitHeld a t i p, i with
          | true, .qcfg _ | true, .qstat _ => 6
          | true, .mxreq _ => 9
          | _, _ => if t.yielded.isSome then 11 else 12
      | none => if s.parcelsLate t then 10 else if t.yielded.isSome then 11 else 12

/-- The live squads on a core. -/
def State.liveSquads (s : State) (c : Nat) : List Squad := (s.squadsOn c).filter (fun q => s.squadLive q)

/-- The live threads of a squad. -/
def State.lanesOf (s : State) (q : Squad) : List (Actor × Thread) :=
  s.threads.filter (fun x => isVector x.1 && squadKey x.1 == (q.crew, q.num, q.shadow) && !x.2.exited)

/-- The reason a cycle without an issue is charged with: the least that applies to a thread of the oldest resident squad; none where no
live squad is resident (R473, R474). -/
def State.stallReason (s : State) (c : Nat) : Option Nat :=
  match sortBy (fun a b => decide (a.since < b.since ∨ (a.since = b.since ∧ a.slot ≤ b.slot))) (s.liveSquads c) with
  | [] => none
  | q :: _ => some ((s.lanesOf q).foldl (fun n x => min n (s.reasonOf x.1 x.2)) 12)

/-- The bin of the eligible-squad histogram (R473): 0, 1, 2, 3-4, 5-8, 9-16, 17-32, 33-64. -/
def histBin (n : Nat) : Nat := if n ≤ 1 then n else 1 + ((n - 1).log2 + 1)

/-- Squads of a core that hold an eligible thread. -/
def State.eligibleSquads (s : State) (c : Nat) : Nat :=
  ((s.liveSquads c).filter (fun q => (s.lanesOf q).any (fun x => x.2.wait == .none))).length

/-- Offset of counter `i` of a core: ISSUE, IDLE, STALL1-STALL12, HIST0-HIST7 (R460). -/
def cycleCounter (c i : Nat) : Nat := coreBlock c + 0x200 + 8 * i

/-- A core cycle adds 1 to one bin of the histogram (R473). -/
def State.countBin (s : State) (c : Nat) : State := s.addMg64 (cycleCounter c (14 + histBin (s.eligibleSquads c))) 1

/-- A core's cycle is counted in ISSUE where a group has issued, else in IDLE or one STALL (R473). [DESIGN CHOICE, log 26] -/
def State.countCycle (s : State) (c : Nat) (issued : Bool) : State :=
  let k := if issued then 0 else match s.stallReason c with
    | some r => 1 + r
    | none => 1
  s.addMg64 (cycleCounter c k) 1

/-- Core cycles between two samples of a core; 0 for none (R478). -/
def State.samplePeriod (s : State) (c : Nat) : Nat := 1024 * ((s.mg (coreBlock c + 0x10C)).toNat % 65536)

/-- A sample is due in this core cycle (R478): every SPERIOD x 1,024 cycles of the core, counted from reset. [DESIGN CHOICE, log 27] -/
def State.sampleDue (s : State) (c : Nat) : Bool :=
  s.trSampling c && s.samplePeriod c != 0 && s.cycle (.core c) % s.samplePeriod c == 0 &&
    decide ((s.traceUnit c).lastSample < s.cycle (.core c))

/-- A core cycle ends: it is counted (R473), its sample is taken next where one is due (R478), and the threads that issued are kept for it.
[DESIGN CHOICE, log 27] -/
def State.endCycle (s : State) (i : Issuer) (issued : Bool) : State :=
  let s : State := { s with grp := { s.grp with
    by' := none, members := [], stalled := [], roled := [], ready := [],
    issuers := if issued then s.grp.members.filter (fun a => !s.grp.stalled.contains a) else [] } }
  match i with
  | .core c =>
    let s := s.countCycle c issued
    if s.sampleDue c then { s with agenda := s.agenda ++ [.traceSample c] } else s
  | _ => s

/-- Choose a group; where nobody is ready the cycle ends without one (R29, R473). -/
def State.pickOrEnd (s : State) (i : Issuer) (skip : List Actor) : State :=
  let s := s.pickGroup i skip
  if s.grp.rest.isEmpty then s.endCycle i false else s

/-! ### PICKER_CYCLE -/

/-- What a core cycle does for the crews on a core: handler cycles (R437), a barrier whose threads' instructions have now taken their effect
(R152), COPY_FAULTs of exited threads (R281), the copy-issue deadlock (R284) and role arming (R276). -/
def State.crewCycle (s : State) (c : Nat) : State :=
  let on := s.crewsOn c
  let tick (x : Actor × Thread) : Actor × Thread :=
    if isVector x.1 && x.2.inHandler && !x.2.exited && on.any (fun k => k.id == crewOf x.1) then
      (x.1, { x.2 with handlerCycles := x.2.handlerCycles + 1 })
    else x
  let s := { s with threads := s.threads.map tick }
  on.foldl (fun (u : State) k =>
    let u := ((u.releaseBarrier k.id).passFaults k.id).deadlockTick k c u.copyStalled
    match u.crew? k.id with
    | some k => u.armTick k
    | none => u) s

/-- The issuer exists: 320 cores, 80 Easel cores, the management processor. -/
def Issuer.exists' (i : Issuer) : Bool :=
  match i with
  | .core c => decide (c < 320)
  | .easel k => decide (k < 80)
  | .mp => true

/-- PICKER_CYCLE: one core cycle of a core, an Easel core or the management processor (R28, R29, R138, R473). [DESIGN CHOICE, log 26] -/
def execPickerCycle (who : Issuer) (s : State) : Out :=
  if !(Issuer.exists' who) || !s.grp.rest.isEmpty then .next s
  else
    let s := { s with cycles := aset s.cycles who (s.cycle who + 1) }
    match who with
    | .core c =>
      .next ((((((s.crewCycle c).wakeEnded who).enterWaits who).unyield who).countBin c |>.beginCycle who).pickOrEnd who [])
    | .easel k => .next (((((s.startEasel k).wakeEnded who).enterWaits who).beginCycle who).pickOrEnd who [])
    | .mp => .next ((((s.wakeEnded who).enterWaits who).beginCycle who).pickOrEnd who [])

/-! ### A group's threads -/

/-- The end of an issue group: squad-register writes take effect (R19), bank conflicts are counted (R298), MARKs are recorded (R477);
where none of its threads issued the picker takes the next choice of the same cycle, else the cycle ends. [DESIGN CHOICE, log 26] -/
def State.endGroup (s : State) : State :=
  if !s.grp.rest.isEmpty then s
  else
    let s := s.flushGroup.flushTouch.flushMarks
    match s.grp.by' with
    | some i =>
      if s.grp.members.all (fun a => s.grp.stalled.contains a) then s.pickOrEnd i s.grp.stalled else s.endCycle i true
    | none => s

/-- What a thread does instead of its instruction, without issuing (R473): nothing where it cannot issue, SOFT_ERROR before it
issues (R451), BREAKPOINT at a matching entry (R479). A formed meeting has passed them at its arrivals. A speculative task's
SOFT_ERROR is deferred and stands (R385, R386). -/
def State.insteadOf (s : State) (a : Actor) (t : Thread) : Option State :=
  if !s.canIssue a t then some (s.stall a .none)
  else if t.met.isSome then none
  else match t.softErr with
    | some d =>
      some (((s.updThread a (fun u => { u with softErr := if s.speculative a then u.softErr else none })).raise a (s.siteAt t)
        { code := 0xA3, detail := d }).noIssue a)
    | none => if s.breaks t then some ((s.raise a (s.siteAt t) { code := 0xA0 }).noIssue a) else none

/-- The thread's instruction, fetched and decoded, with its parcels noted for the operand log (R442), or the meeting it is to issue with; or
the state in which the fetch parked or failed, so that the thread does not issue, or its decoding raised a cause (R28, R98, R118). -/
def State.takeInstr (s : State) (a : Actor) (t : Thread) : Except State (Instr × State) :=
  match t.met, a with
  | some _, .thread r => .ok (.meetingIssue r, { s with grp := { s.grp with parcels := [] } })
  | _, _ => match s.fetch t with
    | (.absent ea _, s) => .error ((s.parkFetch a t ea).noIssue a)
    | (.cause c ea len, s) =>
      .error ((s.raise a { pc := t.pc, len := len, fetch := true } { code := c, detail := ea, faddr := ea, access := fetchAccess }).noIssue a)
    | (.got p0 p1 p2, s) =>
      let s := { s with grp := { s.grp with parcels := [p0, p1, p2] } }
      match decode p0 p1 p2 with
      | .error e => .error (s.raise a { pc := t.pc, len := lenOf p0 } (decodeCause a t p0 p1 e))
      | .ok i => .ok (i, s)

/-! ### Trace events (R475-R478) -/

/-- Firmware writes TRCTL's low word. -/
def State.writeTr (s : State) (c : Nat) (f : Word → Word) : State :=
  if c < 320 ∧ s.plat.verified then s.writeTrctl c (f (s.mg (trctlAt c) &&& ~~~4)) else s

/-- TRACE_ENABLE: EN is set (R477). -/
def execTraceEnable (core : Nat) (s : State) : Out := .next (s.writeTr core (· ||| 1))

/-- TRACE_RESTART: FULL is cleared (R475, R477). -/
def execTraceRestart (core : Nat) (s : State) : Out := .next (s.writeTr core (· ||| 4))

/-- TRACE_SYNC_PERIODIC: 65,536 records after the last SYNC (R477). -/
def execTraceSyncPeriodic (core : Nat) (s : State) : Out :=
  .next (if core < 320 ∧ s.trEn core ∧ 65536 ≤ (s.traceUnit core).sinceSync then s.traceSync core else s)

/-- A SAMPLE record of a thread (R476, R478): reason 0 where it issued in the cycle just over. -/
def State.sampleRecord (s : State) (core : Nat) (a : Actor) (t : Thread) : List Word :=
  let r := if s.grp.issuers.contains a then 0 else s.reasonOf a t
  [recHead 5 2 (t.slot / 32) 0, word (t.ctx % 65536 + 65536 * t.slot), lo32 t.wid, hi32 t.wid, lo32 t.pc, hi32 t.pc, word r,
   word (s.cycle (.core core))]

/-- TRACE_SAMPLE: a sample is due (R478): the next occupied slot after the last sampled one, with wrap. [DESIGN CHOICE, log 27] -/
def execTraceSample (core : Nat) (s : State) : Out :=
  let u := s.traceUnit core
  let now := s.cycle (.core core)
  if 320 ≤ core ∨ s.sampleDue core = false then .next s
  else
    let dist (x : Actor × Thread) : Nat := (x.2.slot + 2047 - u.lastSlot) % 2048
    let all := (s.actorsOn core).filterMap (fun a => (s.thread? a).map (fun t => (a, t)))
    match sortBy (fun x y => decide (dist x ≤ dist y)) all with
    | [] => .next (s.setTrace { u with lastSample := now })
    | (a, t) :: _ =>
      let s := s.setTrace { u with lastSample := now, lastSlot := t.slot }
      let ws := s.sampleRecord core a t
      .next (if s.trEn core then s.traceEmit core ws else s.traceRaw core ws)

end Sys2Proof.Machine
end

