-- ==== Sys2Proof/Machine/Dispatch.lean ====
section
/-! DEFINITION. The one dispatch: each constructor of Instr to its meaning. -/

namespace Sys2Proof.Machine

def exec (i : Instr) (s : State) : Host.Outcome State Fault Refusal :=
  match i with
  | .nop a1 => Sys2Proof.Machine.execNop a1 s
  | .iadd a1 a2 a3 => Sys2Proof.Machine.execIadd a1 a2 a3 s
  | .isub a1 a2 a3 => Sys2Proof.Machine.execIsub a1 a2 a3 s
  | .imul a1 a2 a3 => Sys2Proof.Machine.execImul a1 a2 a3 s
  | .imulhi a1 a2 => Sys2Proof.Machine.execImulhi a1 a2 s
  | .imad a1 a2 a3 => Sys2Proof.Machine.execImad a1 a2 a3 s
  | .imin a1 a2 => Sys2Proof.Machine.execImin a1 a2 s
  | .imax a1 a2 => Sys2Proof.Machine.execImax a1 a2 s
  | .iabs a1 a2 a3 => Sys2Proof.Machine.execIabs a1 a2 a3 s
  | .and a1 a2 => Sys2Proof.Machine.execAnd a1 a2 s
  | .or a1 a2 => Sys2Proof.Machine.execOr a1 a2 s
  | .xor a1 a2 => Sys2Proof.Machine.execXor a1 a2 s
  | .andn a1 a2 => Sys2Proof.Machine.execAndn a1 a2 s
  | .lop3 a1 a2 => Sys2Proof.Machine.execLop3 a1 a2 s
  | .shl a1 a2 => Sys2Proof.Machine.execShl a1 a2 s
  | .shr a1 a2 => Sys2Proof.Machine.execShr a1 a2 s
  | .sar a1 a2 => Sys2Proof.Machine.execSar a1 a2 s
  | .rotl a1 a2 => Sys2Proof.Machine.execRotl a1 a2 s
  | .popc a1 a2 => Sys2Proof.Machine.execPopc a1 a2 s
  | .clz a1 a2 => Sys2Proof.Machine.execClz a1 a2 s
  | .brev a1 a2 => Sys2Proof.Machine.execBrev a1 a2 s
  | .bfx a1 a2 => Sys2Proof.Machine.execBfx a1 a2 s
  | .bfi a1 a2 => Sys2Proof.Machine.execBfi a1 a2 s
  | .prmt a1 => Sys2Proof.Machine.execPrmt a1 s
  | .idp4 a1 a2 a3 a4 => Sys2Proof.Machine.execIdp4 a1 a2 a3 a4 s
  | .lea a1 a2 => Sys2Proof.Machine.execLea a1 a2 s
  | .icmp a1 a2 a3 => Sys2Proof.Machine.execIcmp a1 a2 a3 s
  | .sel a1 a2 => Sys2Proof.Machine.execSel a1 a2 s
  | .mov a1 a2 => Sys2Proof.Machine.execMov a1 a2 s
  | .movi a1 a2 a3 => Sys2Proof.Machine.execMovi a1 a2 a3 s
  | .movs a1 => Sys2Proof.Machine.execMovs a1 s
  | .movsw a1 => Sys2Proof.Machine.execMovsw a1 s
  | .fadd a1 a2 a3 => Sys2Proof.Machine.execFadd a1 a2 a3 s
  | .fsub a1 a2 a3 => Sys2Proof.Machine.execFsub a1 a2 a3 s
  | .fmul a1 a2 a3 => Sys2Proof.Machine.execFmul a1 a2 a3 s
  | .ffma a1 a2 a3 => Sys2Proof.Machine.execFfma a1 a2 a3 s
  | .fmin a1 a2 => Sys2Proof.Machine.execFmin a1 a2 s
  | .fmax a1 a2 => Sys2Proof.Machine.execFmax a1 a2 s
  | .fcmp a1 a2 a3 => Sys2Proof.Machine.execFcmp a1 a2 a3 s
  | .fclass a1 a2 => Sys2Proof.Machine.execFclass a1 a2 s
  | .fdiv a1 a2 a3 => Sys2Proof.Machine.execFdiv a1 a2 a3 s
  | .fsqrt a1 a2 a3 => Sys2Proof.Machine.execFsqrt a1 a2 a3 s
  | .frcp a1 a2 a3 => Sys2Proof.Machine.execFrcp a1 a2 a3 s
  | .frsq a1 => Sys2Proof.Machine.execFrsq a1 s
  | .fexp2 a1 => Sys2Proof.Machine.execFexp2 a1 s
  | .flog2 a1 => Sys2Proof.Machine.execFlog2 a1 s
  | .fsinpi a1 => Sys2Proof.Machine.execFsinpi a1 s
  | .fcospi a1 => Sys2Proof.Machine.execFcospi a1 s
  | .ftanh a1 => Sys2Proof.Machine.execFtanh a1 s
  | .fscale a1 a2 a3 => Sys2Proof.Machine.execFscale a1 a2 a3 s
  | .fdot2 a1 a2 a3 => Sys2Proof.Machine.execFdot2 a1 a2 a3 s
  | .welf a1 a2 => Sys2Proof.Machine.execWelf a1 a2 s
  | .wmerge a1 a2 => Sys2Proof.Machine.execWmerge a1 a2 s
  | .famax a1 a2 => Sys2Proof.Machine.execFamax a1 a2 s
  | .cvt a1 a2 => Sys2Proof.Machine.execCvt a1 a2 s
  | .cvtn a1 a2 a3 => Sys2Proof.Machine.execCvtn a1 a2 a3 s
  | .cvtw a1 a2 => Sys2Proof.Machine.execCvtw a1 a2 s
  | .qnt a1 a2 a3 => Sys2Proof.Machine.execQnt a1 a2 a3 s
  | .dqnt a1 a2 a3 => Sys2Proof.Machine.execDqnt a1 a2 a3 s
  | .bra a1 a2 => Sys2Proof.Machine.execBra a1 a2 s
  | .brx a1 => Sys2Proof.Machine.execBrx a1 s
  | .call a1 a2 => Sys2Proof.Machine.execCall a1 a2 s
  | .callx a1 => Sys2Proof.Machine.execCallx a1 s
  | .ret a1 => Sys2Proof.Machine.execRet a1 s
  | .exit a1 => Sys2Proof.Machine.execExit a1 s
  | .yield a1 => Sys2Proof.Machine.execYield a1 s
  | .yieldRole a1 => Sys2Proof.Machine.execYieldRole a1 s
  | .nap a1 => Sys2Proof.Machine.execNap a1 s
  | .pset a1 a2 => Sys2Proof.Machine.execPset a1 a2 s
  | .pmov a1 => Sys2Proof.Machine.execPmov a1 s
  | .vote a1 a2 => Sys2Proof.Machine.execVote a1 a2 s
  | .shfl a1 a2 a3 => Sys2Proof.Machine.execShfl a1 a2 a3 s
  | .redux a1 a2 a3 => Sys2Proof.Machine.execRedux a1 a2 a3 s
  | .scan a1 a2 a3 => Sys2Proof.Machine.execScan a1 a2 a3 s
  | .matchL a1 a2 => Sys2Proof.Machine.execMatchL a1 a2 s
  | .part a1 => Sys2Proof.Machine.execPart a1 s
  | .sqbar a1 => Sys2Proof.Machine.execSqbar a1 s
  | .crbar a1 => Sys2Proof.Machine.execCrbar a1 s
  | .mark a1 a2 => Sys2Proof.Machine.execMark a1 a2 s
  | .regb a1 => Sys2Proof.Machine.execRegb a1 s
  | .bkpt a1 => Sys2Proof.Machine.execBkpt a1 s
  | .trap a1 => Sys2Proof.Machine.execTrap a1 s
  | .ld a1 a2 a3 => Sys2Proof.Machine.execLd a1 a2 a3 s
  | .ldLong a1 a2 a3 a4 => Sys2Proof.Machine.execLdLong a1 a2 a3 a4 s
  | .st a1 a2 a3 => Sys2Proof.Machine.execSt a1 a2 a3 s
  | .stLong a1 a2 a3 a4 => Sys2Proof.Machine.execStLong a1 a2 a3 a4 s
  | .ldt a1 => Sys2Proof.Machine.execLdt a1 s
  | .stt a1 => Sys2Proof.Machine.execStt a1 s
  | .atom a1 a2 a3 => Sys2Proof.Machine.execAtom a1 a2 a3 s
  | .atomLong a1 a2 a3 a4 => Sys2Proof.Machine.execAtomLong a1 a2 a3 a4 s
  | .atomcas a1 a2 a3 => Sys2Proof.Machine.execAtomcas a1 a2 a3 s
  | .atomcasLong a1 a2 a3 a4 => Sys2Proof.Machine.execAtomcasLong a1 a2 a3 a4 s
  | .atomf a1 a2 a3 => Sys2Proof.Machine.execAtomf a1 a2 a3 s
  | .atomfLong a1 a2 a3 a4 => Sys2Proof.Machine.execAtomfLong a1 a2 a3 a4 s
  | .pref a1 => Sys2Proof.Machine.execPref a1 s
  | .prefLong a1 a2 => Sys2Proof.Machine.execPrefLong a1 a2 s
  | .fence a1 a2 => Sys2Proof.Machine.execFence a1 a2 s
  | .acq a1 a2 => Sys2Proof.Machine.execAcq a1 a2 s
  | .acqLong a1 a2 a3 => Sys2Proof.Machine.execAcqLong a1 a2 a3 s
  | .rel a1 a2 => Sys2Proof.Machine.execRel a1 a2 s
  | .relLong a1 a2 a3 => Sys2Proof.Machine.execRelLong a1 a2 a3 s
  | .bind a1 => Sys2Proof.Machine.execBind a1 s
  | .bindLong a1 a2 => Sys2Proof.Machine.execBindLong a1 a2 s
  | .unbind a1 => Sys2Proof.Machine.execUnbind a1 s
  | .unbindLong a1 a2 => Sys2Proof.Machine.execUnbindLong a1 a2 s
  | .promo a1 a2 => Sys2Proof.Machine.execPromo a1 a2 s
  | .promoLong a1 a2 a3 => Sys2Proof.Machine.execPromoLong a1 a2 a3 s
  | .waita a1 a2 a3 => Sys2Proof.Machine.execWaita a1 a2 a3 s
  | .waitaLong a1 a2 a3 a4 => Sys2Proof.Machine.execWaitaLong a1 a2 a3 a4 s
  | .futr a1 a2 => Sys2Proof.Machine.execFutr a1 a2 s
  | .futrLong a1 a2 a3 => Sys2Proof.Machine.execFutrLong a1 a2 a3 s
  | .futw a1 a2 => Sys2Proof.Machine.execFutw a1 a2 s
  | .futwLong a1 a2 a3 => Sys2Proof.Machine.execFutwLong a1 a2 a3 s
  | .push a1 a2 => Sys2Proof.Machine.execPush a1 a2 s
  | .pop a1 a2 => Sys2Proof.Machine.execPop a1 a2 s
  | .qcfg a1 => Sys2Proof.Machine.execQcfg a1 s
  | .qstat a1 => Sys2Proof.Machine.execQstat a1 s
  | .cpy a1 => Sys2Proof.Machine.execCpy a1 s
  | .cpyg a1 => Sys2Proof.Machine.execCpyg a1 s
  | .cpys a1 => Sys2Proof.Machine.execCpys a1 s
  | .cpyc a1 => Sys2Proof.Machine.execCpyc a1 s
  | .cseal a1 => Sys2Proof.Machine.execCseal a1 s
  | .cwait a1 => Sys2Proof.Machine.execCwait a1 s
  | .chset a1 => Sys2Proof.Machine.execChset a1 s
  | .chsetLong a1 a2 => Sys2Proof.Machine.execChsetLong a1 a2 s
  | .chstat a1 => Sys2Proof.Machine.execChstat a1 s
  | .mxreq a1 => Sys2Proof.Machine.execMxreq a1 s
  | .palw a1 => Sys2Proof.Machine.execPalw a1 s
  | .palr a1 => Sys2Proof.Machine.execPalr a1 s
  | .mxla a1 => Sys2Proof.Machine.execMxla a1 s
  | .mxlb a1 => Sys2Proof.Machine.execMxlb a1 s
  | .mxmm a1 => Sys2Proof.Machine.execMxmm a1 s
  | .mxepi a1 => Sys2Proof.Machine.execMxepi a1 s
  | .mxtile a1 => Sys2Proof.Machine.execMxtile a1 s
  | .mxsync a1 => Sys2Proof.Machine.execMxsync a1 s
  | .cvzero a1 => Sys2Proof.Machine.execCvzero a1 s
  | .cvld a1 => Sys2Proof.Machine.execCvld a1 s
  | .cvst a1 => Sys2Proof.Machine.execCvst a1 s
  | .mbxpop a1 a2 => Sys2Proof.Machine.execMbxpop a1 a2 s
  | .mbxdone a1 => Sys2Proof.Machine.execMbxdone a1 s
  | .mbxdoneLong a1 a2 => Sys2Proof.Machine.execMbxdoneLong a1 a2 s
  | .draw a1 a2 => Sys2Proof.Machine.execDraw a1 a2 s
  | .drawk a1 a2 => Sys2Proof.Machine.execDrawk a1 a2 s
  | .result a1 => Sys2Proof.Machine.execResult a1 s
  | .mutl a1 => Sys2Proof.Machine.execMutl a1 s
  | .spawn a1 => Sys2Proof.Machine.execSpawn a1 s
  | .trace a1 => Sys2Proof.Machine.execTrace a1 s
  | .hinsp a1 => Sys2Proof.Machine.execHinsp a1 s
  | .hpoke a1 => Sys2Proof.Machine.execHpoke a1 s
  | .hresume a1 => Sys2Proof.Machine.execHresume a1 s
  | .hret a1 => Sys2Proof.Machine.execHret a1 s
  | .replay a1 => Sys2Proof.Machine.execReplay a1 s
  | .tlbinv a1 => Sys2Proof.Machine.execTlbinv a1 s
  | .nopC a1 => Sys2Proof.Machine.execNopC a1 s
  | .movC a1 a2 a3 => Sys2Proof.Machine.execMovC a1 a2 a3 s
  | .iaddC a1 a2 a3 => Sys2Proof.Machine.execIaddC a1 a2 a3 s
  | .isubC a1 a2 a3 => Sys2Proof.Machine.execIsubC a1 a2 a3 s
  | .andC a1 a2 a3 => Sys2Proof.Machine.execAndC a1 a2 a3 s
  | .orC a1 a2 a3 => Sys2Proof.Machine.execOrC a1 a2 a3 s
  | .xorC a1 a2 a3 => Sys2Proof.Machine.execXorC a1 a2 a3 s
  | .shlC a1 a2 a3 => Sys2Proof.Machine.execShlC a1 a2 a3 s
  | .shrC a1 a2 a3 => Sys2Proof.Machine.execShrC a1 a2 a3 s
  | .sarC a1 a2 a3 => Sys2Proof.Machine.execSarC a1 a2 a3 s
  | .iaddiC a1 a2 a3 => Sys2Proof.Machine.execIaddiC a1 a2 a3 s
  | .moviC a1 a2 a3 => Sys2Proof.Machine.execMoviC a1 a2 a3 s
  | .faddC a1 a2 a3 => Sys2Proof.Machine.execFaddC a1 a2 a3 s
  | .fmulC a1 a2 a3 => Sys2Proof.Machine.execFmulC a1 a2 a3 s
  | .fmaxC a1 a2 a3 => Sys2Proof.Machine.execFmaxC a1 a2 a3 s
  | .fminC a1 a2 a3 => Sys2Proof.Machine.execFminC a1 a2 a3 s
  | .imulC a1 a2 a3 => Sys2Proof.Machine.execImulC a1 a2 a3 s
  | .iminC a1 a2 a3 => Sys2Proof.Machine.execIminC a1 a2 a3 s
  | .imaxC a1 a2 a3 => Sys2Proof.Machine.execImaxC a1 a2 a3 s
  | .ldC a1 a2 a3 a4 => Sys2Proof.Machine.execLdC a1 a2 a3 a4 s
  | .stC a1 a2 a3 a4 => Sys2Proof.Machine.execStC a1 a2 a3 a4 s
  | .braC a1 a2 => Sys2Proof.Machine.execBraC a1 a2 s
  | .compactPairIssue a1 a2 => Sys2Proof.Machine.execCompactPairIssue a1 a2 s
  | .pickerCycle a1 => Sys2Proof.Machine.execPickerCycle a1 s
  | .meetingIssue a1 => Sys2Proof.Machine.execMeetingIssue a1 s
  | .yieldExpire a1 => Sys2Proof.Machine.execYieldExpire a1 s
  | .napExpire a1 => Sys2Proof.Machine.execNapExpire a1 s
  | .longLatencyWriteback a1 a2 => Sys2Proof.Machine.execLongLatencyWriteback a1 a2 s
  | .waitaWake a1 => Sys2Proof.Machine.execWaitaWake a1 s
  | .waitaHostPoll a1 => Sys2Proof.Machine.execWaitaHostPoll a1 s
  | .futureFill a1 => Sys2Proof.Machine.execFutureFill a1 s
  | .l1Writeback a1 a2 a3 a4 => Sys2Proof.Machine.execL1Writeback a1 a2 a3 a4 s
  | .faultRecordPush a1 => Sys2Proof.Machine.execFaultRecordPush a1 s
  | .replayItemProceed a1 => Sys2Proof.Machine.execReplayItemProceed a1 s
  | .trapEntry a1 => Sys2Proof.Machine.execTrapEntry a1 s
  | .handlerWatchdog a1 => Sys2Proof.Machine.execHandlerWatchdog a1 s
  | .singleStep a1 => Sys2Proof.Machine.execSingleStep a1 s
  | .softError a1 a2 => Sys2Proof.Machine.execSoftError a1 a2 s
  | .launchAccept a1 => Sys2Proof.Machine.execLaunchAccept a1 s
  | .launchComplete a1 => Sys2Proof.Machine.execLaunchComplete a1 s
  | .crewPlace a1 a2 => Sys2Proof.Machine.execCrewPlace a1 a2 s
  | .crewSteal a1 a2 => Sys2Proof.Machine.execCrewSteal a1 a2 s
  | .preemptCrew a1 => Sys2Proof.Machine.execPreemptCrew a1 s
  | .restoreCrew a1 a2 => Sys2Proof.Machine.execRestoreCrew a1 a2 s
  | .contextDepart a1 => Sys2Proof.Machine.execContextDepart a1 s
  | .crewScratchRelease a1 => Sys2Proof.Machine.execCrewScratchRelease a1 s
  | .roleArm a1 => Sys2Proof.Machine.execRoleArm a1 s
  | .jobStart a1 => Sys2Proof.Machine.execJobStart a1 s
  | .jobTransferUnit a1 a2 => Sys2Proof.Machine.execJobTransferUnit a1 a2 s
  | .completionAction a1 => Sys2Proof.Machine.execCompletionAction a1 s
  | .emptyJobFinish a1 => Sys2Proof.Machine.execEmptyJobFinish a1 s
  | .copyIssueDeadlock a1 => Sys2Proof.Machine.execCopyIssueDeadlock a1 s
  | .matrixStepExecute a1 => Sys2Proof.Machine.execMatrixStepExecute a1 s
  | .mbxdoneStore a1 => Sys2Proof.Machine.execMbxdoneStore a1 s
  | .basinCommand a1 => Sys2Proof.Machine.execBasinCommand a1 s
  | .basinWaiterAnswer a1 => Sys2Proof.Machine.execBasinWaiterAnswer a1 s
  | .basinRefill a1 => Sys2Proof.Machine.execBasinRefill a1 s
  | .queueRelease a1 => Sys2Proof.Machine.execQueueRelease a1 s
  | .valeService a1 => Sys2Proof.Machine.execValeService a1 s
  | .pendingHandlePush a1 => Sys2Proof.Machine.execPendingHandlePush a1 s
  | .taskDispatch a1 a2 => Sys2Proof.Machine.execTaskDispatch a1 a2 s
  | .taskCommit a1 => Sys2Proof.Machine.execTaskCommit a1 s
  | .deferredFaultReissue a1 => Sys2Proof.Machine.execDeferredFaultReissue a1 s
  | .relaunch a1 => Sys2Proof.Machine.execRelaunch a1 s
  | .relaunchCompare a1 => Sys2Proof.Machine.execRelaunchCompare a1 s
  | .pageMigrate a1 a2 a3 => Sys2Proof.Machine.execPageMigrate a1 a2 a3 s
  | .windowPush a1 a2 => Sys2Proof.Machine.execWindowPush a1 a2 s
  | .windowPop a1 a2 => Sys2Proof.Machine.execWindowPop a1 a2 s
  | .serviceReplay a1 => Sys2Proof.Machine.execServiceReplay a1 s
  | .serviceFail a1 => Sys2Proof.Machine.execServiceFail a1 s
  | .snapshot a1 => Sys2Proof.Machine.execSnapshot a1 s
  | .write a1 => Sys2Proof.Machine.execWrite a1 s
  | .attest a1 => Sys2Proof.Machine.execAttest a1 s
  | .recoveryImageWrite a1 => Sys2Proof.Machine.execRecoveryImageWrite a1 s
  | .launchQueueRegister a1 a2 a3 => Sys2Proof.Machine.execLaunchQueueRegister a1 a2 a3 s
  | .launchQueueUnregister a1 => Sys2Proof.Machine.execLaunchQueueUnregister a1 s
  | .slotBind a1 a2 a3 => Sys2Proof.Machine.execSlotBind a1 a2 a3 s
  | .slotUnbind a1 a2 => Sys2Proof.Machine.execSlotUnbind a1 a2 s
  | .traversalEnable a1 => Sys2Proof.Machine.execTraversalEnable a1 s
  | .traversalDisable a1 => Sys2Proof.Machine.execTraversalDisable a1 s
  | .traceEnable a1 => Sys2Proof.Machine.execTraceEnable a1 s
  | .traceRestart a1 => Sys2Proof.Machine.execTraceRestart a1 s
  | .traceSyncPeriodic a1 => Sys2Proof.Machine.execTraceSyncPeriodic a1 s
  | .traceSample a1 => Sys2Proof.Machine.execTraceSample a1 s
  | .plimitWrite a1 => Sys2Proof.Machine.execPlimitWrite a1 s
  | .counterClear a1 => Sys2Proof.Machine.execCounterClear a1 s
  | .mgmtRegisterWrite a1 a2 a3 => Sys2Proof.Machine.execMgmtRegisterWrite a1 a2 a3 s
  | .boot => Sys2Proof.Machine.execBoot s
  | .thermalThrottle a1 a2 => Sys2Proof.Machine.execThermalThrottle a1 a2 s
  | .thermalShutdown a1 => Sys2Proof.Machine.execThermalShutdown a1 s
  | .linkFlitReplay a1 => Sys2Proof.Machine.execLinkFlitReplay a1 s
  | .portDown a1 => Sys2Proof.Machine.execPortDown a1 s
  | .moduleUnreachable a1 => Sys2Proof.Machine.execModuleUnreachable a1 s
  | .pcieLinkTrain a1 a2 => Sys2Proof.Machine.execPcieLinkTrain a1 a2 s
  | .easelStreamResume a1 a2 => Sys2Proof.Machine.execEaselStreamResume a1 a2 s
  | .jenahPeerRequest a1 a2 a3 a4 => Sys2Proof.Machine.execJenahPeerRequest a1 a2 a3 a4 s
  | .memoryScrub a1 a2 a3 => Sys2Proof.Machine.execMemoryScrub a1 a2 a3 s
  | .vfEnable a1 => Sys2Proof.Machine.execVfEnable a1 s
  | .windowEntryWrite a1 a2 a3 a4 => Sys2Proof.Machine.execWindowEntryWrite a1 a2 a3 a4 s

end Sys2Proof.Machine
end

