-- ==== Sys2Proof/Machine/Step.lean ====
section
/-! DEFINITION. The step: the next thread of the issue group under way fetches and runs its instruction; with no group under
way the next step of the device's agents runs, from the agenda or from the free schedule. -/

namespace Sys2Proof.Machine

/-- The row is a step of the device's agents, not an instruction of a thread; a pair issues through its first parcel.
[DESIGN CHOICE, log 3] -/
def isEvent (i : Instr) : Bool :=
  i.args.isNone && (encode i).isNone && (match i with
    | .compactPairIssue _ _ => false
    | _ => true)

/-- One thread of the group under way: what it does instead of its instruction, or the instruction (R451, R479, R98). -/
def actOne (s : State) (a : Actor) (t : Thread) : Out :=
  match s.insteadOf a t with
  | some s => .next s
  | none => match s.takeInstr a t with
    | .error s => .next s
    | .ok (i, s) => exec i s

/-- Apply a function to the next state of an outcome. -/
def mapNext (f : State → State) : Out → Out
  | .next s => .next (f s)
  | .fault e => .fault e
  | .refused r => .refused r

/-- The step of the device. [DESIGN CHOICE, log 2, log 3] -/
def step (s : State) : Host.Outcome State Fault Refusal :=
  let s := { s with tick := s.tick + 1 }
  match s.grp.rest with
  | a :: rest =>
    let s := { s with grp := { s.grp with who := some a, rest := rest } }
    match s.thread? a with
    | none => .next s.endGroup
    | some t => mapNext State.endGroup (actOne s a t)
  | [] => match s.agenda with
    | e :: rest => exec e { s with agenda := rest, grp := { s.grp with who := none } }
    | [] =>
      let e := Config.schedule s.tick
      if isEvent e then exec e { s with grp := { s.grp with who := none } } else .next s

/-- The thread that withFetchWord runs: lane 0 of squad 0 of crew 1. [DESIGN CHOICE, log 1] -/
def probeActor : Actor := .thread ⟨1, 0, false, 0⟩

/-- A context 0 whose addresses of die code 0 map the first 64 GiB of device memory, and a launch of it with one crew of one
thread on core 0, whose pc stands at the instruction. [DESIGN CHOICE, log 1] -/
def State.withFetchWord (s : State) (nbits w : Nat) : State :=
  let pc := 0x10000000
  let m := memWrite s.mem 0x100000 8 0x200000
  let m := memWrite m 0x200000 8 0x202001
  let m := memWrite m 0x202000 8 0x3B
  let m := memWrite m pc 12 (w % 2 ^ nbits)
  let s := (s.setMg 0 0x100000).setMg 8 1
  { s with
    mem := m
    launches := [{ id := 1, ctx := 0, number := 0, pkt := { regs := 224, hentry := dword pc, kentry := dword pc } }]
    crews := [{ id := 1, ctx := 0, launch := 1, num := 0, squads := 1, shadows := false, at' := .on 0 }]
    squads := [{ crew := 1, num := 0, shadow := false }]
    threads := [(probeActor, { pc := dword pc, nregs := 224, launch := some 1 })]
    next := 2
    grp := { s.grp with rest := [probeActor] } }

end Sys2Proof.Machine
end

