-- ==== Sys2Proof/WellFormed.lean ====
section
/-! DEFINITION. What a well-formed instruction is (R104-R118): its guard names a predicate or 31, its lookahead count is zero
outside the long-latency class, and each operand field holds a reading its entry admits. -/

namespace Sys2Proof

namespace Kind

/-- The readings an entry may admit of an operand field. -/
def n : Opnd → Bool
  | .none => true
  | _ => false
def r : Opnd → Bool
  | .reg _ => true
  | _ => false
def p : Opnd → Bool
  | .pair _ => true
  | _ => false
def q : Opnd → Bool
  | .pred _ => true
  | _ => false
/-- A register or a channel source. -/
def ch : Opnd → Bool
  | .reg _ => true
  | .chan _ _ => true
  | _ => false
/-- A register or a channel destination, which has no pop bit (R104). -/
def dch : Opnd → Bool
  | .reg _ => true
  | .chan _ pop => !pop
  | _ => false
def run (k : Nat) : Opnd → Bool
  | .run _ m => m == k
  | _ => false
/-- An immediate between two bounds. -/
def imm (lo hi : Nat) : Opnd → Bool
  | .imm v => decide (lo ≤ v.toNat) && decide (v.toNat ≤ hi)
  | _ => false
/-- By width: a pair, or a register or channel (R120). -/
def w (wide : Bool) (o : Opnd) : Bool := if wide then p o else ch o
def dw (wide : Bool) (o : Opnd) : Bool := if wide then p o else dch o
/-- By width: a pair or a register. -/
def wr (wide : Bool) (o : Opnd) : Bool := if wide then p o else r o
/-- B and C as the second source S (R119). -/
def s (wide : Bool) (b c : Opnd) : Bool := (w wide b && n c) || (n b && imm 0 255 c)
/-- A register or an immediate in C. -/
def ri (lo hi : Nat) (o : Opnd) : Bool := r o || imm lo hi o

end Kind

open Kind

/-- The guard and lookahead fields (R106, R113): `long` says the opcode is in the long-latency class. -/
def Args.headOk (x : Args) (long : Bool) : Bool :=
  (decide (x.guard.grd.toNat < 24) || (x.guard.grd == 31 && !x.guard.neg)) &&
  (x.la == 0 || long ||
    (match x.a with
      | .chan _ p => p
      | _ => false) ||
    (match x.b with
      | .chan _ p => p
      | _ => false))

/-- Operand fields checked one by one. -/
def Args.ok (x : Args) (long d a b c : Bool) : Bool := x.headOk long && d && a && b && c

/-- Fields with S (R119). -/
def Args.das (x : Args) (wide sWide : Bool) : Bool := x.headOk false && dw wide x.d && w wide x.a && s sWide x.b x.c

/-- All operand fields zero. -/
def Args.zzzz (x : Args) : Bool := x.ok false (n x.d) (n x.a) (n x.b) (n x.c)

/-- A memory operand (R110, R111): base in A (one register for `.x`), offset byte in B in the full form. -/
def memOk (x : Args) (long lit d : Bool) (sp : Space) (c : Bool) : Bool :=
  x.ok long d (if sp == .x then r x.a else p x.a) (if lit then n x.b else imm 0 255 x.b) c

/-- A shift by an immediate is at most 31 (R101). -/
def sh7 (i : BitVec 7) : Bool := decide (i.toNat < 32)

/-- The instruction is well-formed; a step of an agent always is. -/
def Instr.wf : Instr → Bool
  | .nop x => x.zzzz
  | .iadd x t _ => x.das t.wide t.wide
  | .isub x t _ => x.das t.wide t.wide
  | .imul x t _ => x.das t.wide t.wide
  | .imulhi x t => x.das t.wide t.wide
  | .imin x t => x.das t.wide t.wide
  | .imax x t => x.das t.wide t.wide
  | .and x t => x.das t.wide t.wide
  | .or x t => x.das t.wide t.wide
  | .xor x t => x.das t.wide t.wide
  | .andn x t => x.das t.wide t.wide
  | .imad x t _ => x.ok false (dw t.wide x.d) (w t.wide x.a) (w t.wide x.b) (wr t.wide x.c || imm 0 255 x.c)
  | .iabs x t _ => t.signed && x.ok false (dw t.wide x.d) (w t.wide x.a) (n x.b) (n x.c)
  | .lop3 x t => x.ok false (wr t.wide x.d) (w t.wide x.a) (w t.wide x.b) (imm 0 255 x.c)
  | .shl x t => x.das t.wide false
  | .shr x t => x.das t.wide false
  | .sar x t => x.das t.wide false
  | .rotl x t => x.das t.wide false
  | .popc x t => x.ok false (dch x.d) (w t.wide x.a) (n x.b) (n x.c)
  | .clz x t => x.ok false (dch x.d) (w t.wide x.a) (n x.b) (n x.c)
  | .brev x t => x.ok false (dw t.wide x.d) (w t.wide x.a) (n x.b) (n x.c)
  | .bfx x t => x.ok false (dw t.wide x.d) (w t.wide x.a) ((ch x.b && r x.c) || (imm 0 255 x.b && imm 0 255 x.c)) true
  | .bfi x t => !t.signed && x.ok false (wr t.wide x.d) (w t.wide x.a) ((ch x.b && r x.c) || (imm 0 255 x.b && imm 0 255 x.c)) true
  | .prmt x => x.ok false (dch x.d) (ch x.a) (ch x.b) (r x.c)
  | .idp4 x t _ _ => !t.wide && x.ok false (dch x.d) (ch x.a) (ch x.b) (ri 0 255 x.c)
  | .lea x t => !t.wide && x.ok false (p x.d) (ch x.a) (p x.b) (imm 0 63 x.c)
  | .icmp x t _ => x.headOk false && q x.d && w t.wide x.a && s t.wide x.b x.c
  | .sel x t => x.ok false (dw t.wide x.d) (w t.wide x.a) (w t.wide x.b) (q x.c)
  | .mov x t => x.ok false (dw t.wide x.d) (w t.wide x.a) (n x.b) (n x.c)
  | .movi x t _ => x.ok false (dw t.wide x.d) (n x.a) (n x.b) (n x.c)
  | .movs x => x.ok false (r x.d) (n x.a) (n x.b) (imm 0 255 x.c)
  | .movsw x => x.ok false (n x.d) (w (x.c == .imm 0x32) x.a) (n x.b) (imm 0 255 x.c)
  | .fadd x t m => m != .sr && x.ok false (dw t.wide x.d) (w t.wide x.a) (w t.wide x.b) (n x.c)
  | .fsub x t m => m != .sr && x.ok false (dw t.wide x.d) (w t.wide x.a) (w t.wide x.b) (n x.c)
  | .fmul x t m => m != .sr && x.ok false (dw t.wide x.d) (w t.wide x.a) (w t.wide x.b) (n x.c)
  | .ffma x t m => m != .sr && x.ok false (dw t.wide x.d) (w t.wide x.a) (w t.wide x.b) (wr t.wide x.c)
  | .fmin x t => x.ok false (dw t.wide x.d) (w t.wide x.a) (w t.wide x.b) (n x.c)
  | .fmax x t => x.ok false (dw t.wide x.d) (w t.wide x.a) (w t.wide x.b) (n x.c)
  | .fcmp x t _ => (t == .f32 || t == .f64) && x.ok false (q x.d) (w t.wide x.a) (w t.wide x.b) (n x.c)
  | .fclass x t => (t == .f32 || t == .f64) && x.ok false (dch x.d) (w t.wide x.a) (n x.b) (n x.c)
  | .fdiv x t m => m != .sr && (t == .f32 || t == .f64) && x.ok true (dw t.wide x.d) (w t.wide x.a) (w t.wide x.b) (n x.c)
  | .fsqrt x t m => m != .sr && (t == .f32 || t == .f64) && x.ok true (dw t.wide x.d) (w t.wide x.a) (n x.b) (n x.c)
  | .frcp x t m => m != .sr && (t == .f32 || t == .f64) && x.ok true (dw t.wide x.d) (w t.wide x.a) (n x.b) (n x.c)
  | .frsq x => x.ok true (dch x.d) (ch x.a) (n x.b) (n x.c)
  | .fexp2 x => x.ok true (dch x.d) (ch x.a) (n x.b) (n x.c)
  | .flog2 x => x.ok true (dch x.d) (ch x.a) (n x.b) (n x.c)
  | .fsinpi x => x.ok true (dch x.d) (ch x.a) (n x.b) (n x.c)
  | .fcospi x => x.ok true (dch x.d) (ch x.a) (n x.b) (n x.c)
  | .ftanh x => x.ok true (dch x.d) (ch x.a) (n x.b) (n x.c)
  | .fscale x t m => m != .sr && x.headOk false && dw t.wide x.d && w t.wide x.a && s false x.b x.c
  | .fdot2 x t m => m != .sr && (t == .f16x2 || t == .bf16x2) && x.ok false (dch x.d) (ch x.a) (ch x.b) (r x.c)
  | .welf x m => m != .sr && x.ok false (run 3 x.d) (ch x.a) (n x.b) (n x.c)
  | .wmerge x m => m != .sr && x.ok false (run 3 x.d) (run 3 x.a) (n x.b) (n x.c)
  | .famax x t => t != .f64 && x.ok false (r x.d) (ch x.a) (n x.b) (q x.c || imm 0 0 x.c)
  | .cvt x m => m != .sr && (match x.c with
      | .imm c => c.toNat % 16 < 8 && c.toNat / 16 < 8 &&
        x.ok false (dw ([3, 6, 7].contains (c.toNat % 16)) x.d) (w ([3, 6, 7].contains (c.toNat / 16)) x.a) (n x.b) true
      | _ => false)
  | .cvtn x t m => (match x.c with
      | .imm c => 1 ≤ c.toNat && c.toNat ≤ 9 && !(m == .sr && c.toNat ≤ 4) &&
        x.ok (m == .sr) (dch x.d) (run (packRun (packElems c.toNat) t) x.a) (imm 0 255 x.b) true
      | _ => false)
  | .cvtw x t => (match x.c with
      | .imm c => 1 ≤ c.toNat && c.toNat ≤ 9 && !(t == .f16x2 && c == 9) && !(t == .bf16x2 && c == 8) &&
        x.ok false (run (packRun (packElems c.toNat) t) x.d) (ch x.a) (n x.b) true
      | _ => false)
  | .qnt x t m => m != .sr && t != .f64 && (match x.c with
      | .imm c => 1 ≤ c.toNat && c.toNat ≤ 4 && x.ok false (dch x.d) (run (packRun (packElems c.toNat) t) x.a) (r x.b) true
      | _ => false)
  | .dqnt x t m => m != .sr && t != .f64 && (match x.c with
      | .imm c => 1 ≤ c.toNat && c.toNat ≤ 4 && x.ok false (run (packRun (packElems c.toNat) t) x.d) (ch x.a) (r x.b) true
      | _ => false)
  | .bra x _ => x.zzzz
  | .call x _ => x.zzzz
  | .brx x => x.ok false (n x.d) (p x.a) (n x.b) (n x.c)
  | .callx x => x.ok false (n x.d) (p x.a) (n x.b) (n x.c)
  | .ret x => x.zzzz
  | .exit x => x.zzzz
  | .yield x => x.zzzz
  | .yieldRole x => x.zzzz
  | .regb x => x.zzzz
  | .mxsync x => x.zzzz
  | .cseal x => x.zzzz
  | .cvzero x => x.zzzz
  | .fence x _ => x.zzzz
  | .nap x => x.headOk false && n x.d && n x.a && s false x.b x.c
  | .part x => x.headOk false && n x.d && n x.a && s false x.b x.c
  | .sqbar x => x.headOk false && n x.d && n x.a && s false x.b x.c
  | .pset x _ => x.ok false (q x.d) (q x.a) (q x.b) (imm 0 7 x.c)
  | .pmov x => x.ok false (dch x.d) (n x.a) (n x.b) (n x.c) || x.ok false (n x.d) (ch x.a) (ch x.b) (n x.c)
  | .vote x k => x.headOk false && (if k == .ballot then dch x.d else q x.d) && q x.a && s false x.b x.c
  | .shfl x _ t => x.ok false (dw t.wide x.d) (w t.wide x.a) (ch x.b) (ri 0 255 x.c)
  | .redux x o t => (match t with
      | .int _ => true
      | .flt _ => !o.bitwise) && x.das t.wide false
  | .scan x o t => (match t with
      | .int _ => true
      | .flt _ => !o.bitwise) && x.das t.wide false
  | .matchL x t => x.headOk false && dch x.d && w t.wide x.a && s false x.b x.c
  | .crbar x => x.ok false (n x.d) (n x.a) (n x.b) (imm 0 15 x.c)
  | .mark x _ => x.zzzz
  | .bkpt x => x.ok false (n x.d) (n x.a) (n x.b) (imm 0 255 x.c)
  | .trap x => x.ok false (n x.d) (n x.a) (n x.b) (imm 0 15 x.c)
  | .ld x w sp => memOk x true false (dw (w == .w64) x.d) sp (n x.c)
  | .st x w sp => memOk x false false (n x.d) sp (wr (w == .w64) x.c)
  | .atom x _ _ => memOk x true false (r x.d) .g (r x.c)
  | .atomf x _ _ => memOk x true false (r x.d) .g (r x.c)
  | .atomcas x w _ => memOk x true false (wr w x.d) .g (run (if w then 4 else 2) x.c)
  | .pref x => memOk x false false (n x.d) .g (n x.c)
  | .unbind x => memOk x false false (n x.d) .g (n x.c)
  | .acq x _ => memOk x false false (p x.d) .g (n x.c)
  | .rel x _ => memOk x false false (n x.d) .g (p x.c)
  | .bind x => memOk x false false (p x.d) .g (r x.c)
  | .promo x _ => memOk x false false (n x.d) .g (n x.c)
  | .waita x _ sp => sp != .pv && memOk x false false (r x.d) sp (r x.c)
  | .futr x _ => memOk x true false (r x.d) .g (n x.c)
  | .futw x _ => memOk x false false (n x.d) .g (r x.c)
  | .mbxdone x => memOk x false false (n x.d) .g (r x.c)
  | .ldLong x w sp _ => memOk x true true (dw (w == .w64) x.d) sp (n x.c)
  | .stLong x w sp _ => memOk x false true (n x.d) sp (wr (w == .w64) x.c)
  | .atomLong x _ _ _ => memOk x true true (r x.d) .g (r x.c)
  | .atomfLong x _ _ _ => memOk x true true (r x.d) .g (r x.c)
  | .atomcasLong x w _ _ => memOk x true true (wr w x.d) .g (run (if w then 4 else 2) x.c)
  | .prefLong x _ => memOk x false true (n x.d) .g (n x.c)
  | .unbindLong x _ => memOk x false true (n x.d) .g (n x.c)
  | .acqLong x _ _ => memOk x false true (p x.d) .g (n x.c)
  | .relLong x _ _ => memOk x false true (n x.d) .g (p x.c)
  | .bindLong x _ => memOk x false true (p x.d) .g (r x.c)
  | .promoLong x _ _ => memOk x false true (n x.d) .g (n x.c)
  | .waitaLong x _ sp _ => sp != .pv && memOk x false true (r x.d) sp (r x.c)
  | .futrLong x _ _ => memOk x true true (r x.d) .g (n x.c)
  | .futwLong x _ _ => memOk x false true (n x.d) .g (r x.c)
  | .mbxdoneLong x _ => memOk x false true (n x.d) .g (r x.c)
  | .ldt x => x.ok true (dch x.d) (run 4 x.a) (n x.b) (imm 0 255 x.c)
  | .stt x => x.ok false (n x.d) (run 4 x.a) (r x.b) (imm 0 255 x.c)
  | .push x t => x.ok false (if t then q x.d else n x.d) (ch x.a) (n x.b) (run 0 x.c)
  | .pop x t => x.ok true (run 0 x.d) (ch x.a) (n x.b) (if t then q x.c else n x.c)
  | .qcfg x => x.ok false (n x.d) (ch x.a) (n x.b) (run 8 x.c)
  | .qstat x => x.ok false (p x.d) (ch x.a) (n x.b) (n x.c)
  | .cpy x => x.ok false (n x.d) (run 4 x.a) (run 4 x.b) (imm 0 255 x.c)
  | .cpyg x => x.ok false (n x.d) (run 4 x.a) (run 4 x.b) (imm 0 255 x.c)
  | .cpys x => x.ok false (n x.d) (run 4 x.a) (run 4 x.b) (imm 0 255 x.c)
  | .cpyc x => x.ok false (n x.d) (run 4 x.a) (run 8 x.b) (imm 0 255 x.c)
  | .cwait x => x.ok false (n x.d) (n x.a) (n x.b) (imm 0 7 x.c)
  | .chset x => x.ok false (n x.d) (match x.c with
      | .imm c => if c.toNat / 16 = 1 ∨ c.toNat / 16 = 2 then r x.a else n x.a
      | _ => false) (n x.b) (imm 0 63 x.c)
  | .chsetLong x _ => x.ok false (n x.d) (n x.a) (n x.b) (imm 0 63 x.c)
  | .chstat x => x.ok false (r x.d) (n x.a) (n x.b) (imm 0 15 x.c)
  | .mxreq x => x.ok false (n x.d) (run 8 x.a) (n x.b) (n x.c)
  | .palw x => x.ok false (n x.d) (run 16 x.a) (n x.b) (ri 0 255 x.c)
  | .palr x => x.ok false (run 16 x.d) (n x.a) (n x.b) (ri 0 255 x.c)
  | .mxla x => x.ok false (n x.d) (run 4 x.a) (n x.b) (ri 0 255 x.c)
  | .mxlb x => x.ok false (n x.d) (run 4 x.a) (n x.b) (ri 0 255 x.c)
  | .cvld x => x.ok false (n x.d) (run 4 x.a) (n x.b) (ri 0 255 x.c)
  | .cvst x => x.ok false (n x.d) (run 4 x.a) (n x.b) (ri 0 255 x.c)
  | .mxmm x => x.ok false (n x.d) (n x.a) (n x.b) (ri 1 128 x.c)
  | .mxepi x => x.ok false (n x.d) (run 4 x.a) (n x.b) (n x.c)
  | .mxtile x => x.ok false (n x.d) (run 8 x.a) (n x.b) (n x.c)
  | .mbxpop x t => x.ok false (run 8 x.d) (n x.a) (n x.b) (if t then q x.c else n x.c)
  | .draw x k => x.ok true (wr (k == .u64) x.d) (n x.a) (n x.b) (imm 0 7 x.c)
  | .drawk x k => x.ok true (wr (k == .u64) x.d) (p x.a) (imm 0 7 x.b) (ri 0 255 x.c)
  | .result x => x.ok false (n x.d) (r x.a) (n x.b) (imm 0 3 x.c)
  | .mutl x => x.ok false (n x.d) (p x.a) (n x.b) (n x.c)
  | .spawn x => x.ok false (n x.d) (p x.a) (p x.b) (imm 1 32 x.c)
  | .trace x => x.ok false (n x.d) (r x.a) (r x.b) (n x.c)
  | .hinsp x => x.ok false (r x.d) (n x.a) (n x.b) (imm 0 255 x.c)
  | .hpoke x => x.ok false (n x.d) (r x.a) (n x.b) (imm 0 255 x.c)
  | .hresume x => x.ok false (n x.d) (n x.a) (n x.b) (imm 0 1 x.c)
  | .hret x => x.ok false (n x.d) (n x.a) (n x.b) (imm 0 0 x.c)
  | .replay x => x.ok false (n x.d) (p x.a) (r x.b) (imm 0 0 x.c || imm 2 2 x.c) ||
    x.ok false (n x.d) (r x.a) (n x.b) (imm 1 1 x.c || imm 3 3 x.c)
  | .tlbinv x => x.ok false (n x.d) (p x.a) (r x.b) (imm 0 0 x.c) || x.ok false (n x.d) (n x.a) (r x.b) (imm 1 1 x.c) ||
    x.ok false (n x.d) (n x.a) (n x.b) (imm 2 2 x.c)
  | .shlC _ _ i => sh7 i
  | .shrC _ _ i => sh7 i
  | .sarC _ _ i => sh7 i
  | .nopC _ => true
  | .movC _ _ _ => true
  | .iaddC _ _ _ => true
  | .isubC _ _ _ => true
  | .andC _ _ _ => true
  | .orC _ _ _ => true
  | .xorC _ _ _ => true
  | .iaddiC _ _ _ => true
  | .moviC _ _ _ => true
  | .faddC _ _ _ => true
  | .fmulC _ _ _ => true
  | .fmaxC _ _ _ => true
  | .fminC _ _ _ => true
  | .imulC _ _ _ => true
  | .iminC _ _ _ => true
  | .imaxC _ _ _ => true
  | .ldC _ _ _ _ => true
  | .stC _ _ _ _ => true
  | .braC _ _ => true
  | .compactPairIssue _ _ => true
  | .pickerCycle _ => true
  | .meetingIssue _ => true
  | .yieldExpire _ => true
  | .napExpire _ => true
  | .longLatencyWriteback _ _ => true
  | .waitaWake _ => true
  | .waitaHostPoll _ => true
  | .futureFill _ => true
  | .l1Writeback _ _ _ _ => true
  | .faultRecordPush _ => true
  | .replayItemProceed _ => true
  | .trapEntry _ => true
  | .handlerWatchdog _ => true
  | .singleStep _ => true
  | .softError _ _ => true
  | .launchAccept _ => true
  | .launchComplete _ => true
  | .crewPlace _ _ => true
  | .crewSteal _ _ => true
  | .preemptCrew _ => true
  | .restoreCrew _ _ => true
  | .contextDepart _ => true
  | .crewScratchRelease _ => true
  | .roleArm _ => true
  | .jobStart _ => true
  | .jobTransferUnit _ _ => true
  | .completionAction _ => true
  | .emptyJobFinish _ => true
  | .copyIssueDeadlock _ => true
  | .matrixStepExecute _ => true
  | .mbxdoneStore _ => true
  | .basinCommand _ => true
  | .basinWaiterAnswer _ => true
  | .basinRefill _ => true
  | .queueRelease _ => true
  | .valeService _ => true
  | .pendingHandlePush _ => true
  | .taskDispatch _ _ => true
  | .taskCommit _ => true
  | .deferredFaultReissue _ => true
  | .relaunch _ => true
  | .relaunchCompare _ => true
  | .pageMigrate _ _ _ => true
  | .windowPush _ _ => true
  | .windowPop _ _ => true
  | .serviceReplay _ => true
  | .serviceFail _ => true
  | .snapshot _ => true
  | .write _ => true
  | .attest _ => true
  | .recoveryImageWrite _ => true
  | .launchQueueRegister _ _ _ => true
  | .launchQueueUnregister _ => true
  | .slotBind _ _ _ => true
  | .slotUnbind _ _ => true
  | .traversalEnable _ => true
  | .traversalDisable _ => true
  | .traceEnable _ => true
  | .traceRestart _ => true
  | .traceSyncPeriodic _ => true
  | .traceSample _ => true
  | .plimitWrite _ => true
  | .counterClear _ => true
  | .mgmtRegisterWrite _ _ _ => true
  | .boot => true
  | .thermalThrottle _ _ => true
  | .thermalShutdown _ => true
  | .linkFlitReplay _ => true
  | .portDown _ => true
  | .moduleUnreachable _ => true
  | .pcieLinkTrain _ _ => true
  | .easelStreamResume _ _ => true
  | .jenahPeerRequest _ _ _ _ => true
  | .memoryScrub _ _ _ => true
  | .vfEnable _ => true
  | .windowEntryWrite _ _ _ _ => true

/-- The instruction is well-formed. -/
def Instr.WellFormed (i : Instr) : Prop := i.wf = true

end Sys2Proof
end

