-- ==== Sys2Proof/Laws/Encoding.lean ====
section
/-! SUPPORT. Laws of the encoding (R96, R99, R104): the fields of a record come back from its two parcels, and each operand field of an
encoded instruction is read back as the operand it was written from. -/

namespace Sys2Proof

open Kind

/-! ### A record and its 64 bits -/

theorem Raw.ofBits_toBits (r : Raw) : Raw.ofBits r.toBits = r := by
  obtain ⟨md, la, cimm, c, bpop, bch, b, apop, ach, a, dch, d, gneg, grd, op, lc⟩ := r
  simp only [Raw.ofBits, Raw.toBits, bitAt, Raw.mk.injEq]
  refine ⟨?_, ?_, ?_, ?_, ?_, ?_, ?_, ?_, ?_, ?_, ?_, ?_, ?_, ?_, ?_, ?_⟩
  all_goals first
    | (apply BitVec.eq_of_getLsbD_eq
       intro i hi
       simp (disch := omega) only [BitVec.getLsbD_extractLsb', BitVec.getLsbD_append, hi, decide_true, Bool.true_and, if_neg, if_pos]
       congr 1
       omega)
    | (simp (disch := omega) only [BitVec.getLsbD_append, BitVec.getLsbD_ofBool, if_neg, if_pos]
       simp)
    | simp [BitVec.getLsbD_append]

theorem append_extract (w : BitVec 64) : w.extractLsb' 32 32 ++ w.extractLsb' 0 32 = w := by
  apply BitVec.eq_of_getLsbD_eq
  intro i hi
  simp only [BitVec.getLsbD_append, BitVec.getLsbD_extractLsb']
  split
  · rename_i h
    simp [h]
  · rename_i h
    have : i - 32 < 32 := by omega
    simp only [this, decide_true, Bool.true_and]
    congr 1
    omega

/-- The fields of a record come back from its parcels. -/
theorem rawOf_parcels (r : Raw) : rawOf (r.toBits.extractLsb' 0 32) (r.toBits.extractLsb' 32 32) = r := by
  rw [rawOf, append_extract, Raw.ofBits_toBits]

/-- The first parcel carries the length code. -/
theorem parcel_lc (r : Raw) : (r.toBits.extractLsb' 0 32).extractLsb' 0 2 = r.lc := by
  have h := congrArg Raw.lc (Raw.ofBits_toBits r)
  simp only [Raw.ofBits] at h
  rw [← h]
  apply BitVec.eq_of_getLsbD_eq
  intro i hi
  simp only [BitVec.getLsbD_extractLsb', hi, decide_true, Bool.true_and, Nat.zero_add, Nat.lt_trans hi (by decide : 2 < 32)]

/-! ### Fields an operand leaves alone -/

@[simp] theorem encD_md (r : Raw) (o : Opnd) : (encD r o).md = r.md := by cases o <;> rfl
@[simp] theorem encD_la (r : Raw) (o : Opnd) : (encD r o).la = r.la := by cases o <;> rfl
@[simp] theorem encD_cimm (r : Raw) (o : Opnd) : (encD r o).cimm = r.cimm := by cases o <;> rfl
@[simp] theorem encD_c (r : Raw) (o : Opnd) : (encD r o).c = r.c := by cases o <;> rfl
@[simp] theorem encD_bpop (r : Raw) (o : Opnd) : (encD r o).bpop = r.bpop := by cases o <;> rfl
@[simp] theorem encD_bch (r : Raw) (o : Opnd) : (encD r o).bch = r.bch := by cases o <;> rfl
@[simp] theorem encD_b (r : Raw) (o : Opnd) : (encD r o).b = r.b := by cases o <;> rfl
@[simp] theorem encD_apop (r : Raw) (o : Opnd) : (encD r o).apop = r.apop := by cases o <;> rfl
@[simp] theorem encD_ach (r : Raw) (o : Opnd) : (encD r o).ach = r.ach := by cases o <;> rfl
@[simp] theorem encD_a (r : Raw) (o : Opnd) : (encD r o).a = r.a := by cases o <;> rfl
@[simp] theorem encD_gneg (r : Raw) (o : Opnd) : (encD r o).gneg = r.gneg := by cases o <;> rfl
@[simp] theorem encD_grd (r : Raw) (o : Opnd) : (encD r o).grd = r.grd := by cases o <;> rfl
@[simp] theorem encD_op (r : Raw) (o : Opnd) : (encD r o).op = r.op := by cases o <;> rfl
@[simp] theorem encD_lc (r : Raw) (o : Opnd) : (encD r o).lc = r.lc := by cases o <;> rfl
@[simp] theorem encA_md (r : Raw) (o : Opnd) : (encA r o).md = r.md := by cases o <;> rfl
@[simp] theorem encA_la (r : Raw) (o : Opnd) : (encA r o).la = r.la := by cases o <;> rfl
@[simp] theorem encA_cimm (r : Raw) (o : Opnd) : (encA r o).cimm = r.cimm := by cases o <;> rfl
@[simp] theorem encA_c (r : Raw) (o : Opnd) : (encA r o).c = r.c := by cases o <;> rfl
@[simp] theorem encA_bpop (r : Raw) (o : Opnd) : (encA r o).bpop = r.bpop := by cases o <;> rfl
@[simp] theorem encA_bch (r : Raw) (o : Opnd) : (encA r o).bch = r.bch := by cases o <;> rfl
@[simp] theorem encA_b (r : Raw) (o : Opnd) : (encA r o).b = r.b := by cases o <;> rfl
@[simp] theorem encA_dch (r : Raw) (o : Opnd) : (encA r o).dch = r.dch := by cases o <;> rfl
@[simp] theorem encA_d (r : Raw) (o : Opnd) : (encA r o).d = r.d := by cases o <;> rfl
@[simp] theorem encA_gneg (r : Raw) (o : Opnd) : (encA r o).gneg = r.gneg := by cases o <;> rfl
@[simp] theorem encA_grd (r : Raw) (o : Opnd) : (encA r o).grd = r.grd := by cases o <;> rfl
@[simp] theorem encA_op (r : Raw) (o : Opnd) : (encA r o).op = r.op := by cases o <;> rfl
@[simp] theorem encA_lc (r : Raw) (o : Opnd) : (encA r o).lc = r.lc := by cases o <;> rfl
@[simp] theorem encB_md (r : Raw) (o : Opnd) : (encB r o).md = r.md := by cases o <;> rfl
@[simp] theorem encB_la (r : Raw) (o : Opnd) : (encB r o).la = r.la := by cases o <;> rfl
@[simp] theorem encB_cimm (r : Raw) (o : Opnd) : (encB r o).cimm = r.cimm := by cases o <;> rfl
@[simp] theorem encB_c (r : Raw) (o : Opnd) : (encB r o).c = r.c := by cases o <;> rfl
@[simp] theorem encB_apop (r : Raw) (o : Opnd) : (encB r o).apop = r.apop := by cases o <;> rfl
@[simp] theorem encB_ach (r : Raw) (o : Opnd) : (encB r o).ach = r.ach := by cases o <;> rfl
@[simp] theorem encB_a (r : Raw) (o : Opnd) : (encB r o).a = r.a := by cases o <;> rfl
@[simp] theorem encB_dch (r : Raw) (o : Opnd) : (encB r o).dch = r.dch := by cases o <;> rfl
@[simp] theorem encB_d (r : Raw) (o : Opnd) : (encB r o).d = r.d := by cases o <;> rfl
@[simp] theorem encB_gneg (r : Raw) (o : Opnd) : (encB r o).gneg = r.gneg := by cases o <;> rfl
@[simp] theorem encB_grd (r : Raw) (o : Opnd) : (encB r o).grd = r.grd := by cases o <;> rfl
@[simp] theorem encB_op (r : Raw) (o : Opnd) : (encB r o).op = r.op := by cases o <;> rfl
@[simp] theorem encB_lc (r : Raw) (o : Opnd) : (encB r o).lc = r.lc := by cases o <;> rfl
@[simp] theorem encC_md (r : Raw) (o : Opnd) : (encC r o).md = r.md := by cases o <;> rfl
@[simp] theorem encC_la (r : Raw) (o : Opnd) : (encC r o).la = r.la := by cases o <;> rfl
@[simp] theorem encC_bpop (r : Raw) (o : Opnd) : (encC r o).bpop = r.bpop := by cases o <;> rfl
@[simp] theorem encC_bch (r : Raw) (o : Opnd) : (encC r o).bch = r.bch := by cases o <;> rfl
@[simp] theorem encC_b (r : Raw) (o : Opnd) : (encC r o).b = r.b := by cases o <;> rfl
@[simp] theorem encC_apop (r : Raw) (o : Opnd) : (encC r o).apop = r.apop := by cases o <;> rfl
@[simp] theorem encC_ach (r : Raw) (o : Opnd) : (encC r o).ach = r.ach := by cases o <;> rfl
@[simp] theorem encC_a (r : Raw) (o : Opnd) : (encC r o).a = r.a := by cases o <;> rfl
@[simp] theorem encC_dch (r : Raw) (o : Opnd) : (encC r o).dch = r.dch := by cases o <;> rfl
@[simp] theorem encC_d (r : Raw) (o : Opnd) : (encC r o).d = r.d := by cases o <;> rfl
@[simp] theorem encC_gneg (r : Raw) (o : Opnd) : (encC r o).gneg = r.gneg := by cases o <;> rfl
@[simp] theorem encC_grd (r : Raw) (o : Opnd) : (encC r o).grd = r.grd := by cases o <;> rfl
@[simp] theorem encC_op (r : Raw) (o : Opnd) : (encC r o).op = r.op := by cases o <;> rfl
@[simp] theorem encC_lc (r : Raw) (o : Opnd) : (encC r o).lc = r.lc := by cases o <;> rfl

/-! ### The record of an instruction -/

section Record

variable (op md lc : Nat) (x : Args)

@[simp] theorem encRaw_md : (encRaw op md lc x).md = BitVec.ofNat 6 md := by simp [encRaw]
@[simp] theorem encRaw_la : (encRaw op md lc x).la = x.la := by simp [encRaw]
@[simp] theorem encRaw_gneg : (encRaw op md lc x).gneg = x.guard.neg := by simp [encRaw]
@[simp] theorem encRaw_grd : (encRaw op md lc x).grd = x.guard.grd := by simp [encRaw]
@[simp] theorem encRaw_op : (encRaw op md lc x).op = BitVec.ofNat 8 op := by simp [encRaw]
@[simp] theorem encRaw_lc : (encRaw op md lc x).lc = BitVec.ofNat 2 lc := by simp [encRaw]
theorem encRaw_hi3 : (encRaw op md lc x).hi3 = md % 64 / 8 := by simp [Raw.hi3]
theorem encRaw_lo3 : (encRaw op md lc x).lo3 = md % 64 % 8 := by simp [Raw.lo3]

theorem enc_dN (h : n x.d = true) : (encRaw op md lc x).dN = some x.d := by
  obtain ⟨g, la, d, a, b, c⟩ := x
  cases d <;> simp_all [Kind.n, Raw.dN, encRaw, encD]
theorem enc_dR (h : r x.d = true) : (encRaw op md lc x).dR = some x.d := by
  obtain ⟨g, la, d, a, b, c⟩ := x
  cases d <;> simp_all [Kind.r, Raw.dR, encRaw, encD]
theorem enc_dP (h : p x.d = true) : (encRaw op md lc x).dP = some x.d := by
  obtain ⟨g, la, d, a, b, c⟩ := x
  cases d <;> simp_all [Kind.p, Raw.dP, encRaw, encD]
theorem enc_dQ (h : q x.d = true) : (encRaw op md lc x).dQ = some x.d := by
  obtain ⟨g, la, d, a, b, c⟩ := x
  cases d <;> simp_all [Kind.q, Raw.dQ, encRaw, encD]
theorem enc_dRun {k : Nat} (h : run k x.d = true) : (encRaw op md lc x).dRun k = some x.d := by
  obtain ⟨g, la, d, a, b, c⟩ := x
  cases d <;> simp_all [Kind.run, Raw.dRun, encRaw, encD]
theorem enc_dC (h : dch x.d = true) : (encRaw op md lc x).dC = some x.d := by
  obtain ⟨g, la, d, a, b, c⟩ := x
  cases d with
  | reg c => simp [Raw.dC, encRaw, encD]
  | chan n p =>
    have hn : (n.setWidth 8).toNat < 16 := by have := n.isLt; simp; omega
    simp_all [Kind.dch, Raw.dC, Raw.chanOf, encRaw, encD]
  | _ => simp [Kind.dch] at h
theorem enc_dW {wide : Bool} (h : dw wide x.d = true) : (encRaw op md lc x).dW wide = some x.d := by
  cases wide
  · exact enc_dC op md lc x (by simpa [Kind.dw] using h)
  · exact enc_dP op md lc x (by simpa [Kind.dw] using h)
theorem enc_dWR {wide : Bool} (h : wr wide x.d = true) : (encRaw op md lc x).dWR wide = some x.d := by
  cases wide
  · exact enc_dR op md lc x (by simpa [Kind.wr] using h)
  · exact enc_dP op md lc x (by simpa [Kind.wr] using h)
theorem enc_aN (h : n x.a = true) : (encRaw op md lc x).aN = some x.a := by
  obtain ⟨g, la, d, a, b, c⟩ := x
  cases a <;> simp_all [Kind.n, Raw.aN, encRaw, encA]
theorem enc_aR (h : r x.a = true) : (encRaw op md lc x).aR = some x.a := by
  obtain ⟨g, la, d, a, b, c⟩ := x
  cases a <;> simp_all [Kind.r, Raw.aR, encRaw, encA]
theorem enc_aP (h : p x.a = true) : (encRaw op md lc x).aP = some x.a := by
  obtain ⟨g, la, d, a, b, c⟩ := x
  cases a <;> simp_all [Kind.p, Raw.aP, encRaw, encA]
theorem enc_aQ (h : q x.a = true) : (encRaw op md lc x).aQ = some x.a := by
  obtain ⟨g, la, d, a, b, c⟩ := x
  cases a <;> simp_all [Kind.q, Raw.aQ, encRaw, encA]
theorem enc_aRun {k : Nat} (h : run k x.a = true) : (encRaw op md lc x).aRun k = some x.a := by
  obtain ⟨g, la, d, a, b, c⟩ := x
  cases a <;> simp_all [Kind.run, Raw.aRun, encRaw, encA]
theorem enc_aC (h : ch x.a = true) : (encRaw op md lc x).aC = some x.a := by
  obtain ⟨g, la, d, a, b, c⟩ := x
  cases a with
  | reg c => simp [Raw.aC, Raw.aR, encRaw, encA]
  | chan n p =>
    have hn : (n.setWidth 8).toNat < 16 := by have := n.isLt; simp; omega
    simp_all [Kind.ch, Raw.aC, Raw.chanOf, encRaw, encA]
  | _ => simp [Kind.ch] at h
theorem enc_aW {wide : Bool} (h : w wide x.a = true) : (encRaw op md lc x).aW wide = some x.a := by
  cases wide
  · exact enc_aC op md lc x (by simpa [Kind.w] using h)
  · exact enc_aP op md lc x (by simpa [Kind.w] using h)
theorem enc_bN (h : n x.b = true) : (encRaw op md lc x).bN = some x.b := by
  obtain ⟨g, la, d, a, b, c⟩ := x
  cases b <;> simp_all [Kind.n, Raw.bN, encRaw, encB]
theorem enc_bR (h : r x.b = true) : (encRaw op md lc x).bR = some x.b := by
  obtain ⟨g, la, d, a, b, c⟩ := x
  cases b <;> simp_all [Kind.r, Raw.bR, encRaw, encB]
theorem enc_bP (h : p x.b = true) : (encRaw op md lc x).bP = some x.b := by
  obtain ⟨g, la, d, a, b, c⟩ := x
  cases b <;> simp_all [Kind.p, Raw.bP, encRaw, encB]
theorem enc_bQ (h : q x.b = true) : (encRaw op md lc x).bQ = some x.b := by
  obtain ⟨g, la, d, a, b, c⟩ := x
  cases b <;> simp_all [Kind.q, Raw.bQ, encRaw, encB]
theorem enc_bRun {k : Nat} (h : run k x.b = true) : (encRaw op md lc x).bRun k = some x.b := by
  obtain ⟨g, la, d, a, b, c⟩ := x
  cases b <;> simp_all [Kind.run, Raw.bRun, encRaw, encB]
theorem enc_bC (h : ch x.b = true) : (encRaw op md lc x).bC = some x.b := by
  obtain ⟨g, la, d, a, b, c⟩ := x
  cases b with
  | reg c => simp [Raw.bC, Raw.bR, encRaw, encB]
  | chan n p =>
    have hn : (n.setWidth 8).toNat < 16 := by have := n.isLt; simp; omega
    simp_all [Kind.ch, Raw.bC, Raw.chanOf, encRaw, encB]
  | _ => simp [Kind.ch] at h
theorem enc_bW {wide : Bool} (h : w wide x.b = true) : (encRaw op md lc x).bW wide = some x.b := by
  cases wide
  · exact enc_bC op md lc x (by simpa [Kind.w] using h)
  · exact enc_bP op md lc x (by simpa [Kind.w] using h)
theorem enc_bWR {wide : Bool} (h : wr wide x.b = true) : (encRaw op md lc x).bWR wide = some x.b := by
  cases wide
  · exact enc_bR op md lc x (by simpa [Kind.wr] using h)
  · exact enc_bP op md lc x (by simpa [Kind.wr] using h)
theorem enc_bX {lo hi : Nat} (h : imm lo hi x.b = true) : (encRaw op md lc x).bX = some x.b := by
  obtain ⟨g, la, d, a, b, c⟩ := x
  cases b <;> simp_all [Kind.imm, Raw.bX, encRaw, encB]
theorem enc_cN (h : n x.c = true) : (encRaw op md lc x).cN = some x.c := by
  obtain ⟨g, la, d, a, b, c⟩ := x
  cases c <;> simp_all [Kind.n, Raw.cN, encRaw, encC]
theorem enc_cR (h : r x.c = true) : (encRaw op md lc x).cR = some x.c := by
  obtain ⟨g, la, d, a, b, c⟩ := x
  cases c <;> simp_all [Kind.r, Raw.cR, encRaw, encC]
theorem enc_cP (h : p x.c = true) : (encRaw op md lc x).cP = some x.c := by
  obtain ⟨g, la, d, a, b, c⟩ := x
  cases c <;> simp_all [Kind.p, Raw.cP, encRaw, encC]
theorem enc_cQ (h : q x.c = true) : (encRaw op md lc x).cQ = some x.c := by
  obtain ⟨g, la, d, a, b, c⟩ := x
  cases c <;> simp_all [Kind.q, Raw.cQ, encRaw, encC]
theorem enc_cRun {k : Nat} (h : run k x.c = true) : (encRaw op md lc x).cRun k = some x.c := by
  obtain ⟨g, la, d, a, b, c⟩ := x
  cases c <;> simp_all [Kind.run, Raw.cRun, encRaw, encC]
theorem enc_cI {lo hi : Nat} (h : imm lo hi x.c = true) : (encRaw op md lc x).cI lo hi = some x.c := by
  obtain ⟨g, la, d, a, b, c⟩ := x
  cases c <;> simp_all [Kind.imm, Raw.cI, encRaw, encC]
theorem enc_cimm_of_imm {lo hi : Nat} (h : imm lo hi x.c = true) : (encRaw op md lc x).cimm = true := by
  obtain ⟨g, la, d, a, b, c⟩ := x
  cases c <;> simp_all [Kind.imm, encRaw, encC]
theorem enc_cimm_of_r (h : r x.c = true) : (encRaw op md lc x).cimm = false := by
  obtain ⟨g, la, d, a, b, c⟩ := x
  cases c <;> simp_all [Kind.r, encRaw, encC]
theorem enc_cimm_of_p (h : p x.c = true) : (encRaw op md lc x).cimm = false := by
  obtain ⟨g, la, d, a, b, c⟩ := x
  cases c <;> simp_all [Kind.p, encRaw, encC]
theorem enc_cimm_of_n (h : n x.c = true) : (encRaw op md lc x).cimm = false := by
  obtain ⟨g, la, d, a, b, c⟩ := x
  cases c <;> simp_all [Kind.n, encRaw, encC]
theorem enc_cimm_of_q (h : q x.c = true) : (encRaw op md lc x).cimm = false := by
  obtain ⟨g, la, d, a, b, c⟩ := x
  cases c <;> simp_all [Kind.q, encRaw, encC]
/-- An immediate in C stands in the field. -/
theorem enc_c_imm {v : BitVec 8} (h : x.c = .imm v) : (encRaw op md lc x).c = v := by
  obtain ⟨g, la, d, a, b, c⟩ := x
  cases h
  simp [encRaw, encC]
theorem enc_b_imm {v : BitVec 8} (h : x.b = .imm v) : (encRaw op md lc x).b = v := by
  obtain ⟨g, la, d, a, b, c⟩ := x
  cases h
  simp [encRaw, encB]
theorem enc_cWR {wide : Bool} (h : wr wide x.c = true) : (encRaw op md lc x).cWR wide = some x.c := by
  cases wide
  · exact enc_cR op md lc x (by simpa [Kind.wr] using h)
  · exact enc_cP op md lc x (by simpa [Kind.wr] using h)
theorem enc_cRI {lo hi : Nat} (h : ri lo hi x.c = true) : (encRaw op md lc x).cRI lo hi = some x.c := by
  simp only [Kind.ri, Bool.or_eq_true] at h
  obtain h | h := h
  · simp [Raw.cRI, enc_cimm_of_r op md lc x h, enc_cR op md lc x h]
  · simp [Raw.cRI, enc_cimm_of_imm op md lc x h, enc_cI op md lc x h]
theorem enc_cWRI {wide : Bool} (h : (wr wide x.c || imm 0 255 x.c) = true) : (encRaw op md lc x).cWRI wide = some x.c := by
  simp only [Bool.or_eq_true] at h
  obtain h | h := h
  · have : (encRaw op md lc x).cimm = false := by
      cases wide
      · exact enc_cimm_of_r op md lc x (by simpa [Kind.wr] using h)
      · exact enc_cimm_of_p op md lc x (by simpa [Kind.wr] using h)
    simp [Raw.cWRI, this, enc_cWR op md lc x h]
  · simp [Raw.cWRI, enc_cimm_of_imm op md lc x h, enc_cI op md lc x h]
theorem enc_s {wide : Bool} (h : s wide x.b x.c = true) : (encRaw op md lc x).s wide = some (x.b, x.c) := by
  simp only [Kind.s, Bool.or_eq_true, Bool.and_eq_true] at h
  obtain ⟨hb, hc⟩ | ⟨hb, hc⟩ := h
  · simp [Raw.s, enc_cimm_of_n op md lc x hc, enc_bW op md lc x hb, enc_cN op md lc x hc]
  · simp [Raw.s, enc_cimm_of_imm op md lc x hc, enc_bN op md lc x hb, enc_cI op md lc x hc]

/-- The guard and the lookahead field come back (R106, R113). -/
theorem enc_head {long : Bool} (h : x.headOk long = true) (hl : long = true → (encRaw op md lc x).longOp = true) :
    (encRaw op md lc x).head = some (x.guard, x.la) := by
  obtain ⟨⟨grd, neg⟩, la, d, a, b, c⟩ := x
  simp only [Args.headOk, Bool.and_eq_true, Bool.or_eq_true, decide_eq_true_eq, beq_iff_eq, Bool.not_eq_true'] at h
  obtain ⟨hg, h2⟩ := h
  have hla : la = 0 ∨ (encRaw op md lc ⟨⟨grd, neg⟩, la, d, a, b, c⟩).longOp = true ∨
      (encRaw op md lc ⟨⟨grd, neg⟩, la, d, a, b, c⟩).apop = true ∨
      (encRaw op md lc ⟨⟨grd, neg⟩, la, d, a, b, c⟩).bpop = true := by
    obtain ((h | h) | h) | h := h2
    · exact .inl h
    · exact .inr (.inl (hl h))
    · refine .inr (.inr (.inl ?_))
      clear hl
      cases a <;> simp_all [encRaw, encA]
    · refine .inr (.inr (.inr ?_))
      clear hl
      cases b <;> simp_all [encRaw, encB]
  unfold Raw.head
  rw [if_pos]
  · simp
  · exact ⟨by simpa using hg, by simpa using hla⟩

/-- The operand fields, once each has its reading. -/
theorem enc_args {long : Bool} (h : x.headOk long = true) (hl : long = true → (encRaw op md lc x).longOp = true) :
    (encRaw op md lc x).args x.d x.a x.b x.c = some x := by
  simp [Raw.args, enc_head op md lc x h hl]

end Record


/-! ### The decoder on encoded instructions -/

@[simp] theorem need_true : need true = some () := rfl

/-- A full instruction's parcels decode by their fields. -/
theorem decode_encFull {op md : Nat} {x : Args} {i : Instr} (ha : opAssigned (BitVec.ofNat 8 op).toNat = true)
    (h : decodeFullFields (encRaw op md 1 x) = some i) : decodeWords (encFull op md x) = .ok i := by
  have hp : parcelsOf ((encRaw op md 1 x).toBits.extractLsb' 0 32) = 2 := by
    rw [parcelsOf, parcel_lc, encRaw_lc]; rfl
  simp only [decodeWords, encFull, Raw.parcels, decode, hp, rawOf_parcels, encRaw_op, ha, h, if_true]

/-- A long instruction's parcels decode by their fields and its literal. -/
theorem decode_encLong {op md : Nat} {x : Args} {lit : Word} {i : Instr} (ha : opAssigned (BitVec.ofNat 8 op).toNat = true)
    (h : decodeLongFields (encRaw op md 2 x) lit = some i) : decodeWords (encLong op md x lit) = .ok i := by
  have hp : parcelsOf ((encRaw op md 2 x).toBits.extractLsb' 0 32) = 3 := by
    rw [parcelsOf, parcel_lc, encRaw_lc]; rfl
  simp only [decodeWords, encLong, Raw.parcels, List.cons_append, List.nil_append, decode, hp, rawOf_parcels, encRaw_op, ha, h,
    if_true]

/-- D, A and S of an integer entry come back. -/
theorem enc_das (op md lc : Nat) (x : Args) {wide sWide : Bool} (h : x.das wide sWide = true) :
    (encRaw op md lc x).das wide sWide = some x := by
  simp only [Args.das, Bool.and_eq_true] at h
  obtain ⟨⟨⟨h0, hd⟩, ha⟩, hs⟩ := h
  simp [Raw.das, enc_s op md lc x hs, enc_dW op md lc x hd, enc_aW op md lc x ha, enc_args op md lc x h0 (by simp)]

/-- Operand fields all zero come back. -/
theorem enc_zzzz (op md lc : Nat) (x : Args) (h : x.zzzz = true) : (encRaw op md lc x).zzzz = some x := by
  simp only [Args.zzzz, Args.ok, Bool.and_eq_true] at h
  obtain ⟨⟨⟨⟨h0, hd⟩, ha⟩, hb⟩, hc⟩ := h
  simp [Raw.zzzz, enc_dN op md lc x hd, enc_aN op md lc x ha, enc_bN op md lc x hb, enc_cN op md lc x hc,
    enc_args op md lc x h0 (by simp)]

/-- The base and the offset of a memory operand come back (R110, R111). -/
theorem enc_memA (op md lc : Nat) (x : Args) {sp : Space} (h : (if sp == .x then r x.a else p x.a) = true) :
    memA (encRaw op md lc x) sp = some x.a := by
  cases sp
  · exact enc_aP op md lc x h
  · exact enc_aR op md lc x h
  · exact enc_aP op md lc x h
theorem enc_memB (op md lc : Nat) (x : Args) {lit : Bool} (h : (if lit then n x.b else imm 0 255 x.b) = true) :
    memB (encRaw op md lc x) lit = some x.b := by
  cases lit
  · exact enc_bX op md lc x (lo := 0) (hi := 255) h
  · exact enc_bN op md lc x h

/-! ### The MOD field (R112) -/

theorem IntTy.code_lt (t : IntTy) : t.code < 4 := by cases t <;> decide
theorem FTy.code_lt (t : FTy) : t.code < 4 := by cases t <;> decide
theorem Rnd.code_lt (m : Rnd) : m.code < 8 := by cases m <;> decide
theorem Rel.code_lt (m : Rel) : m.code < 8 := by cases m <;> decide
theorem Scope.code_lt (m : Scope) : m.code < 8 := by cases m <;> decide
theorem Space.code_lt (m : Space) : m.code < 4 := by cases m <;> decide
theorem Width.code_lt (m : Width) : m.code < 8 := by cases m <;> decide
theorem PsetOp.code_lt (m : PsetOp) : m.code < 8 := by cases m <;> decide
theorem VoteKind.code_lt (m : VoteKind) : m.code < 8 := by cases m <;> decide
theorem ShflKind.code_lt (m : ShflKind) : m.code < 8 := by cases m <;> decide
theorem RedOp.code_lt (m : RedOp) : m.code < 8 := by cases m <;> decide
theorem RedTy.code_lt (m : RedTy) : m.code < 8 := by
  cases m with
  | int t => cases t <;> decide
  | flt t => cases t <;> decide
theorem AtomOp.code_lt (m : AtomOp) : m.code < 8 := by cases m <;> decide
theorem AtomFOp.code_lt (m : AtomFOp) : m.code < 8 := by cases m <;> decide
theorem DrawKind.code_lt (m : DrawKind) : m.code < 8 := by cases m <;> decide
theorem Idp4B.code_lt (m : Idp4B) : m.code < 8 := by cases m <;> decide

@[simp] theorem IntTy.ofCode_code (t : IntTy) : IntTy.ofCode t.code = t := by cases t <;> rfl
@[simp] theorem FTy.ofCode_code (t : FTy) : FTy.ofCode t.code = some t := by cases t <;> rfl
@[simp] theorem Rnd.ofCode_code (m : Rnd) : Rnd.ofCode m.code = some m := by cases m <;> rfl
@[simp] theorem Rel.ofCode_code (m : Rel) : Rel.ofCode m.code = some m := by cases m <;> rfl
@[simp] theorem Scope.ofCode_code (m : Scope) : Scope.ofCode m.code = some m := by cases m <;> rfl
@[simp] theorem Space.ofCode_code (m : Space) : Space.ofCode m.code = some m := by cases m <;> rfl
@[simp] theorem Width.ofCode_code (m : Width) : Width.ofCode m.code = some m := by cases m <;> rfl
@[simp] theorem PsetOp.ofCode_code (m : PsetOp) : PsetOp.ofCode m.code = some m := by cases m <;> rfl
@[simp] theorem VoteKind.ofCode_code (m : VoteKind) : VoteKind.ofCode m.code = some m := by cases m <;> rfl
@[simp] theorem ShflKind.ofCode_code (m : ShflKind) : ShflKind.ofCode m.code = some m := by cases m <;> rfl
@[simp] theorem RedOp.ofCode_code (m : RedOp) : RedOp.ofCode m.code = some m := by cases m <;> rfl
@[simp] theorem RedTy.ofCode_code (m : RedTy) : RedTy.ofCode m.code = m := by
  cases m with
  | int t => cases t <;> rfl
  | flt t => cases t <;> rfl
@[simp] theorem AtomOp.ofCode_code (m : AtomOp) : AtomOp.ofCode m.code = m := by cases m <;> rfl
@[simp] theorem AtomFOp.ofCode_code (m : AtomFOp) : AtomFOp.ofCode m.code = some m := by cases m <;> rfl
@[simp] theorem DrawKind.ofCode_code (m : DrawKind) : DrawKind.ofCode m.code = some m := by cases m <;> rfl
@[simp] theorem Idp4B.ofCode_code (m : Idp4B) : Idp4B.ofCode m.code = some m := by cases m <;> rfl

section Mod

variable (op lc : Nat) (x : Args)

theorem enc_hi3 {a b : Nat} (ha : a < 8) (hb : b < 8) : (encRaw op (a * 8 + b) lc x).hi3 = a := by
  rw [encRaw_hi3]; omega
theorem enc_lo3 {a b : Nat} (hb : b < 8) : (encRaw op (a * 8 + b) lc x).lo3 = b := by
  rw [encRaw_lo3]; omega
/-- Without a second part, MOD is the variant alone. -/
theorem enc_hi3' {a : Nat} (ha : a < 8) : (encRaw op (a * 8) lc x).hi3 = a := by
  rw [encRaw_hi3]; omega
theorem enc_lo3' {a : Nat} : (encRaw op (a * 8) lc x).lo3 = 0 := by
  rw [encRaw_lo3]; omega

theorem enc_m0 : (encRaw op 0 lc x).m0 = some () := by simp [Raw.m0]

theorem enc_imod_lo3 (v : Nat) (t : IntTy) : (encRaw op (imod v false t) lc x).lo3 = t.code := by
  have := t.code_lt
  rw [encRaw_lo3, imod]; simp; omega
theorem enc_imod_hi3 (v : Nat) (hv : v < 8) (sat : Bool) (t : IntTy) : (encRaw op (imod v sat t) lc x).hi3 = v := by
  have := t.code_lt
  rw [encRaw_hi3, imod]; split <;> omega
theorem enc_ity (t : IntTy) : (encRaw op (imod 0 false t) lc x).ity = some t := by
  simp [Raw.ity, enc_imod_lo3, enc_imod_hi3, t.code_lt]
theorem enc_ityV (v : Nat) (t : IntTy) : (encRaw op (imod v false t) lc x).ityV = some t := by
  simp [Raw.ityV, enc_imod_lo3 op lc x v, t.code_lt]
theorem enc_lo3_sat (v : Nat) (sat : Bool) (t : IntTy) :
    (encRaw op (imod v sat t) lc x).lo3 = (if sat then 4 else 0) + t.code := by
  have := t.code_lt
  rw [encRaw_lo3, imod]; split <;> omega
theorem enc_itySat (sat : Bool) (t : IntTy) : (encRaw op (imod 0 sat t) lc x).itySat = some (t, sat) := by
  simp only [Raw.itySat, enc_imod_hi3 op lc x 0 (by decide), enc_lo3_sat op lc x 0]
  cases t <;> cases sat <;> rfl
theorem enc_ftyRnd {m : Rnd} (hm : (m != .sr) = true) (t : FTy) : (encRaw op (fmod m.code t) lc x).ftyRnd = some (t, m) := by
  have h1 := t.code_lt
  simp [Raw.ftyRnd, fmod, enc_hi3 op lc x m.code_lt (show t.code < 8 by omega), enc_lo3 op lc x (show t.code < 8 by omega), hm]
theorem enc_fmod_hi3 {v : Nat} (hv : v < 8) (t : FTy) : (encRaw op (fmod v t) lc x).hi3 = v := by
  have h1 := t.code_lt
  simp [fmod, enc_hi3 op lc x hv (show t.code < 8 by omega)]
theorem enc_fmod_lo3 (v : Nat) (t : FTy) : (encRaw op (fmod v t) lc x).lo3 = t.code := by
  have h1 := t.code_lt
  simp [fmod, enc_lo3 op lc x (show t.code < 8 by omega)]
theorem enc_fty0 (t : FTy) : (encRaw op (fmod 0 t) lc x).fty0 = some t := by
  simp [Raw.fty0, enc_fmod_hi3 op lc x (show 0 < 8 by decide), enc_fmod_lo3 op lc x 0]
theorem enc_scope0 (sc : Scope) : (encRaw op sc.code lc x).scope0 = some sc := by
  cases sc <;> simp [Raw.scope0, Raw.hi3, Raw.lo3, Scope.code, Scope.ofCode]
theorem enc_try (t : Bool) : (encRaw op (if t then 8 else 0) lc x).try? = some t := by
  cases t <;> simp [Raw.try?]
theorem enc_spaceOf (a : Nat) (sp : Space) : spaceOf (encRaw op (a * 8 + sp.code) lc x) = some sp := by
  have := sp.code_lt
  simp [spaceOf, enc_lo3 op lc x (a := a) (show sp.code < 8 by omega), this]

end Mod

end Sys2Proof
end

