-- ==== Sys2Proof/Laws/PerInstr.lean ====
section
/-! SUPPORT. Decoding what was encoded gives the instruction back (R96-R112): one lemma per constructor. A step of an agent has no
encoding, so that nothing is claimed of it. -/

namespace Sys2Proof.Laws.RoundTrip

open Sys2Proof.Kind

/-- Decoding the parcels of a well-formed instruction gives it back. -/
def Statement (i : Instr) : Prop := ∀ ws, i.wf = true → encode i = some ws → decodeWords ws = .ok i

theorem of_full {i : Instr} {op md : Nat} {x : Args} (he : encode i = some (encFull op md x))
    (ha : opAssigned (BitVec.ofNat 8 op).toNat = true)
    (h : i.wf = true → decodeFullFields (encRaw op md 1 x) = some i) : Statement i := by
  intro ws hw h'
  rw [he] at h'
  cases h'
  exact decode_encFull ha (h hw)

theorem of_long {i : Instr} {op md : Nat} {x : Args} {lit : Word} (he : encode i = some (encLong op md x lit))
    (ha : opAssigned (BitVec.ofNat 8 op).toNat = true)
    (h : i.wf = true → decodeLongFields (encRaw op md 2 x) lit = some i) : Statement i := by
  intro ws hw h'
  rw [he] at h'
  cases h'
  exact decode_encLong ha (h hw)

theorem of_none {i : Instr} (he : encode i = none) : Statement i := by
  intro ws _ h'
  rw [he] at h'
  cases h'

theorem nop (x : Args) : Statement (.nop x) :=
  of_full (md := 0) (x := x) rfl rfl fun (hw : (x.zzzz) = true) => by
    have h := enc_zzzz 0x00 (0) 1 x hw
    simp [decodeFullFields, opMem, decodeG0, enc_m0 0x00 1 x, h]

theorem iadd (x : Args) (t : IntTy) (s : Bool) : Statement (.iadd x t s) :=
  of_full (md := imod 0 s t) (x := x) rfl rfl fun (hw : (x.das t.wide t.wide) = true) => by
    have h := enc_das 0x01 (imod 0 s t) 1 x hw
    simp [decodeFullFields, opMem, decodeG0, enc_itySat 0x01 1 x s t, h]

theorem isub (x : Args) (t : IntTy) (s : Bool) : Statement (.isub x t s) :=
  of_full (md := imod 0 s t) (x := x) rfl rfl fun (hw : (x.das t.wide t.wide) = true) => by
    have h := enc_das 0x02 (imod 0 s t) 1 x hw
    simp [decodeFullFields, opMem, decodeG0, enc_itySat 0x02 1 x s t, h]

theorem imul (x : Args) (t : IntTy) (s : Bool) : Statement (.imul x t s) :=
  of_full (md := imod 0 s t) (x := x) rfl rfl fun (hw : (x.das t.wide t.wide) = true) => by
    have h := enc_das 0x03 (imod 0 s t) 1 x hw
    simp [decodeFullFields, opMem, decodeG0, enc_itySat 0x03 1 x s t, h]

theorem imulhi (x : Args) (t : IntTy) : Statement (.imulhi x t) :=
  of_full (md := imod 0 false t) (x := x) rfl rfl fun (hw : (x.das t.wide t.wide) = true) => by
    have h := enc_das 0x04 (imod 0 false t) 1 x hw
    simp [decodeFullFields, opMem, decodeG0, enc_ity 0x04 1 x t, h]

theorem imad (x : Args) (t : IntTy) (s : Bool) : Statement (.imad x t s) :=
  of_full (md := imod 0 s t) (x := x) rfl rfl fun (hw : (x.ok false (dw t.wide x.d) (w t.wide x.a) (w t.wide x.b) (wr t.wide x.c || imm 0 255 x.c)) = true) => by
    simp only [Args.ok, Bool.and_eq_true] at hw
    obtain ⟨⟨⟨⟨h0, hd⟩, ha⟩, hb⟩, hc⟩ := hw
    have hd := enc_dW 0x05 (imod 0 s t) 1 x hd
    have ha := enc_aW 0x05 (imod 0 s t) 1 x ha
    have hb := enc_bW 0x05 (imod 0 s t) 1 x hb
    have hc := enc_cWRI 0x05 (imod 0 s t) 1 x hc
    have h := enc_args 0x05 (imod 0 s t) 1 x h0 (by simp [Raw.longOp])
    simp [decodeFullFields, opMem, decodeG0, enc_itySat 0x05 1 x s t, hd, ha, hb, hc, h]

theorem imin (x : Args) (t : IntTy) : Statement (.imin x t) :=
  of_full (md := imod 0 false t) (x := x) rfl rfl fun (hw : (x.das t.wide t.wide) = true) => by
    have h := enc_das 0x06 (imod 0 false t) 1 x hw
    simp [decodeFullFields, opMem, decodeG0, enc_ity 0x06 1 x t, h]

theorem imax (x : Args) (t : IntTy) : Statement (.imax x t) :=
  of_full (md := imod 0 false t) (x := x) rfl rfl fun (hw : (x.das t.wide t.wide) = true) => by
    have h := enc_das 0x07 (imod 0 false t) 1 x hw
    simp [decodeFullFields, opMem, decodeG0, enc_ity 0x07 1 x t, h]

theorem iabs (x : Args) (t : IntTy) (s : Bool) : Statement (.iabs x t s) :=
  of_full (md := imod 0 s t) (x := x) rfl rfl fun (hw : (t.signed && x.ok false (dw t.wide x.d) (w t.wide x.a) (n x.b) (n x.c)) = true) => by
    simp only [Args.ok, Bool.and_eq_true] at hw
    obtain ⟨hp0, ⟨⟨⟨⟨h0, hd⟩, ha⟩, hb⟩, hc⟩⟩ := hw
    have hd := enc_dW 0x08 (imod 0 s t) 1 x hd
    have ha := enc_aW 0x08 (imod 0 s t) 1 x ha
    have hb := enc_bN 0x08 (imod 0 s t) 1 x hb
    have hc := enc_cN 0x08 (imod 0 s t) 1 x hc
    have h := enc_args 0x08 (imod 0 s t) 1 x h0 (by simp [Raw.longOp])
    simp [decodeFullFields, opMem, decodeG0, enc_itySat 0x08 1 x s t, hd, ha, hb, hc, h, hp0]

theorem and (x : Args) (t : IntTy) : Statement (.and x t) :=
  of_full (md := imod 0 false t) (x := x) rfl rfl fun (hw : (x.das t.wide t.wide) = true) => by
    have h := enc_das 0x09 (imod 0 false t) 1 x hw
    simp [decodeFullFields, opMem, decodeG0, enc_ity 0x09 1 x t, h]

theorem or (x : Args) (t : IntTy) : Statement (.or x t) :=
  of_full (md := imod 0 false t) (x := x) rfl rfl fun (hw : (x.das t.wide t.wide) = true) => by
    have h := enc_das 0x0A (imod 0 false t) 1 x hw
    simp [decodeFullFields, opMem, decodeG0, enc_ity 0x0A 1 x t, h]

theorem xor (x : Args) (t : IntTy) : Statement (.xor x t) :=
  of_full (md := imod 0 false t) (x := x) rfl rfl fun (hw : (x.das t.wide t.wide) = true) => by
    have h := enc_das 0x0B (imod 0 false t) 1 x hw
    simp [decodeFullFields, opMem, decodeG0, enc_ity 0x0B 1 x t, h]

theorem andn (x : Args) (t : IntTy) : Statement (.andn x t) :=
  of_full (md := imod 0 false t) (x := x) rfl rfl fun (hw : (x.das t.wide t.wide) = true) => by
    have h := enc_das 0x0C (imod 0 false t) 1 x hw
    simp [decodeFullFields, opMem, decodeG0, enc_ity 0x0C 1 x t, h]

theorem lop3 (x : Args) (t : IntTy) : Statement (.lop3 x t) :=
  of_full (md := imod 0 false t) (x := x) rfl rfl fun (hw : (x.ok false (wr t.wide x.d) (w t.wide x.a) (w t.wide x.b) (imm 0 255 x.c)) = true) => by
    simp only [Args.ok, Bool.and_eq_true] at hw
    obtain ⟨⟨⟨⟨h0, hd⟩, ha⟩, hb⟩, hc⟩ := hw
    have hd := enc_dWR 0x0D (imod 0 false t) 1 x hd
    have ha := enc_aW 0x0D (imod 0 false t) 1 x ha
    have hb := enc_bW 0x0D (imod 0 false t) 1 x hb
    have hc := enc_cI 0x0D (imod 0 false t) 1 x hc
    have h := enc_args 0x0D (imod 0 false t) 1 x h0 (by simp [Raw.longOp])
    simp [decodeFullFields, opMem, decodeG0, enc_ity 0x0D 1 x t, hd, ha, hb, hc, h]

theorem shl (x : Args) (t : IntTy) : Statement (.shl x t) :=
  of_full (md := imod 0 false t) (x := x) rfl rfl fun (hw : (x.das t.wide false) = true) => by
    have h := enc_das 0x0E (imod 0 false t) 1 x hw
    simp [decodeFullFields, opMem, decodeG0, enc_ity 0x0E 1 x t, h]

theorem shr (x : Args) (t : IntTy) : Statement (.shr x t) :=
  of_full (md := imod 0 false t) (x := x) rfl rfl fun (hw : (x.das t.wide false) = true) => by
    have h := enc_das 0x0F (imod 0 false t) 1 x hw
    simp [decodeFullFields, opMem, decodeG0, enc_ity 0x0F 1 x t, h]

theorem sar (x : Args) (t : IntTy) : Statement (.sar x t) :=
  of_full (md := imod 0 false t) (x := x) rfl rfl fun (hw : (x.das t.wide false) = true) => by
    have h := enc_das 0x10 (imod 0 false t) 1 x hw
    simp [decodeFullFields, opMem, decodeG0, enc_ity 0x10 1 x t, h]

theorem rotl (x : Args) (t : IntTy) : Statement (.rotl x t) :=
  of_full (md := imod 0 false t) (x := x) rfl rfl fun (hw : (x.das t.wide false) = true) => by
    have h := enc_das 0x11 (imod 0 false t) 1 x hw
    simp [decodeFullFields, opMem, decodeG0, enc_ity 0x11 1 x t, h]

theorem popc (x : Args) (t : IntTy) : Statement (.popc x t) :=
  of_full (md := imod 0 false t) (x := x) rfl rfl fun (hw : (x.ok false (dch x.d) (w t.wide x.a) (n x.b) (n x.c)) = true) => by
    simp only [Args.ok, Bool.and_eq_true] at hw
    obtain ⟨⟨⟨⟨h0, hd⟩, ha⟩, hb⟩, hc⟩ := hw
    have hd := enc_dC 0x12 (imod 0 false t) 1 x hd
    have ha := enc_aW 0x12 (imod 0 false t) 1 x ha
    have hb := enc_bN 0x12 (imod 0 false t) 1 x hb
    have hc := enc_cN 0x12 (imod 0 false t) 1 x hc
    have h := enc_args 0x12 (imod 0 false t) 1 x h0 (by simp [Raw.longOp])
    simp [decodeFullFields, opMem, decodeG0, enc_ity 0x12 1 x t, hd, ha, hb, hc, h]

theorem clz (x : Args) (t : IntTy) : Statement (.clz x t) :=
  of_full (md := imod 0 false t) (x := x) rfl rfl fun (hw : (x.ok false (dch x.d) (w t.wide x.a) (n x.b) (n x.c)) = true) => by
    simp only [Args.ok, Bool.and_eq_true] at hw
    obtain ⟨⟨⟨⟨h0, hd⟩, ha⟩, hb⟩, hc⟩ := hw
    have hd := enc_dC 0x13 (imod 0 false t) 1 x hd
    have ha := enc_aW 0x13 (imod 0 false t) 1 x ha
    have hb := enc_bN 0x13 (imod 0 false t) 1 x hb
    have hc := enc_cN 0x13 (imod 0 false t) 1 x hc
    have h := enc_args 0x13 (imod 0 false t) 1 x h0 (by simp [Raw.longOp])
    simp [decodeFullFields, opMem, decodeG0, enc_ity 0x13 1 x t, hd, ha, hb, hc, h]

theorem brev (x : Args) (t : IntTy) : Statement (.brev x t) :=
  of_full (md := imod 0 false t) (x := x) rfl rfl fun (hw : (x.ok false (dw t.wide x.d) (w t.wide x.a) (n x.b) (n x.c)) = true) => by
    simp only [Args.ok, Bool.and_eq_true] at hw
    obtain ⟨⟨⟨⟨h0, hd⟩, ha⟩, hb⟩, hc⟩ := hw
    have hd := enc_dW 0x14 (imod 0 false t) 1 x hd
    have ha := enc_aW 0x14 (imod 0 false t) 1 x ha
    have hb := enc_bN 0x14 (imod 0 false t) 1 x hb
    have hc := enc_cN 0x14 (imod 0 false t) 1 x hc
    have h := enc_args 0x14 (imod 0 false t) 1 x h0 (by simp [Raw.longOp])
    simp [decodeFullFields, opMem, decodeG0, enc_ity 0x14 1 x t, hd, ha, hb, hc, h]

theorem prmt (x : Args) : Statement (.prmt x) :=
  of_full (md := 0) (x := x) rfl rfl fun (hw : (x.ok false (dch x.d) (ch x.a) (ch x.b) (r x.c)) = true) => by
    simp only [Args.ok, Bool.and_eq_true] at hw
    obtain ⟨⟨⟨⟨h0, hd⟩, ha⟩, hb⟩, hc⟩ := hw
    have hd := enc_dC 0x17 (0) 1 x hd
    have ha := enc_aC 0x17 (0) 1 x ha
    have hb := enc_bC 0x17 (0) 1 x hb
    have hc := enc_cR 0x17 (0) 1 x hc
    have h := enc_args 0x17 (0) 1 x h0 (by simp [Raw.longOp])
    simp [decodeFullFields, opMem, decodeG0, enc_m0 0x17 1 x, hd, ha, hb, hc, h]

theorem lea (x : Args) (t : IntTy) : Statement (.lea x t) :=
  of_full (md := imod 0 false t) (x := x) rfl rfl fun (hw : (!t.wide && x.ok false (p x.d) (ch x.a) (p x.b) (imm 0 63 x.c)) = true) => by
    simp only [Args.ok, Bool.and_eq_true] at hw
    obtain ⟨hp0, ⟨⟨⟨⟨h0, hd⟩, ha⟩, hb⟩, hc⟩⟩ := hw
    have hd := enc_dP 0x19 (imod 0 false t) 1 x hd
    have ha := enc_aC 0x19 (imod 0 false t) 1 x ha
    have hb := enc_bP 0x19 (imod 0 false t) 1 x hb
    have hc := enc_cI 0x19 (imod 0 false t) 1 x hc
    have h := enc_args 0x19 (imod 0 false t) 1 x h0 (by simp [Raw.longOp])
    simp [decodeFullFields, opMem, decodeG0, enc_ity 0x19 1 x t, hd, ha, hb, hc, h, hp0]

theorem icmp (x : Args) (t : IntTy) (r : Rel) : Statement (.icmp x t r) :=
  of_full (md := imod r.code false t) (x := x) rfl rfl fun (hw : (x.headOk false && q x.d && w t.wide x.a && s t.wide x.b x.c) = true) => by
    simp only [Bool.and_eq_true] at hw
    obtain ⟨⟨⟨h0, hd⟩, ha⟩, hs⟩ := hw
    have hd := enc_dQ 0x1A (imod r.code false t) 1 x hd
    have ha := enc_aW 0x1A (imod r.code false t) 1 x ha
    have hs := enc_s 0x1A (imod r.code false t) 1 x hs
    have h := enc_args 0x1A (imod r.code false t) 1 x h0 (by simp [Raw.longOp])
    simp [decodeFullFields, opMem, decodeG0, enc_imod_hi3 0x1A 1 x r.code r.code_lt false t, enc_ityV 0x1A 1 x r.code t, hd, ha, hs, h]

theorem sel (x : Args) (t : IntTy) : Statement (.sel x t) :=
  of_full (md := imod 0 false t) (x := x) rfl rfl fun (hw : (x.ok false (dw t.wide x.d) (w t.wide x.a) (w t.wide x.b) (q x.c)) = true) => by
    simp only [Args.ok, Bool.and_eq_true] at hw
    obtain ⟨⟨⟨⟨h0, hd⟩, ha⟩, hb⟩, hc⟩ := hw
    have hd := enc_dW 0x1B (imod 0 false t) 1 x hd
    have ha := enc_aW 0x1B (imod 0 false t) 1 x ha
    have hb := enc_bW 0x1B (imod 0 false t) 1 x hb
    have hc := enc_cQ 0x1B (imod 0 false t) 1 x hc
    have h := enc_args 0x1B (imod 0 false t) 1 x h0 (by simp [Raw.longOp])
    simp [decodeFullFields, opMem, decodeG0, enc_ity 0x1B 1 x t, hd, ha, hb, hc, h]

theorem mov (x : Args) (t : IntTy) : Statement (.mov x t) :=
  of_full (md := imod 0 false t) (x := x) rfl rfl fun (hw : (x.ok false (dw t.wide x.d) (w t.wide x.a) (n x.b) (n x.c)) = true) => by
    simp only [Args.ok, Bool.and_eq_true] at hw
    obtain ⟨⟨⟨⟨h0, hd⟩, ha⟩, hb⟩, hc⟩ := hw
    have hd := enc_dW 0x1C (imod 0 false t) 1 x hd
    have ha := enc_aW 0x1C (imod 0 false t) 1 x ha
    have hb := enc_bN 0x1C (imod 0 false t) 1 x hb
    have hc := enc_cN 0x1C (imod 0 false t) 1 x hc
    have h := enc_args 0x1C (imod 0 false t) 1 x h0 (by simp [Raw.longOp])
    simp [decodeFullFields, opMem, decodeG0, enc_ity 0x1C 1 x t, hd, ha, hb, hc, h]

theorem movi (x : Args) (t : IntTy) (l : Word) : Statement (.movi x t l) :=
  of_long (md := imod 0 false t) (x := x) rfl rfl fun (hw : (x.ok false (dw t.wide x.d) (n x.a) (n x.b) (n x.c)) = true) => by
    simp only [Args.ok, Bool.and_eq_true] at hw
    obtain ⟨⟨⟨⟨h0, hd⟩, ha⟩, hb⟩, hc⟩ := hw
    have hd := enc_dW 0x1D (imod 0 false t) 2 x hd
    have ha := enc_aN 0x1D (imod 0 false t) 2 x ha
    have hb := enc_bN 0x1D (imod 0 false t) 2 x hb
    have hc := enc_cN 0x1D (imod 0 false t) 2 x hc
    have h := enc_args 0x1D (imod 0 false t) 2 x h0 (by simp [Raw.longOp])
    simp [decodeLongFields, opMem, enc_ity 0x1D 2 x t, hd, ha, hb, hc, h]

theorem movs (x : Args) : Statement (.movs x) :=
  of_full (md := 0) (x := x) rfl rfl fun (hw : (x.ok false (r x.d) (n x.a) (n x.b) (imm 0 255 x.c)) = true) => by
    simp only [Args.ok, Bool.and_eq_true] at hw
    obtain ⟨⟨⟨⟨h0, hd⟩, ha⟩, hb⟩, hc⟩ := hw
    have hd := enc_dR 0x1E (0) 1 x hd
    have ha := enc_aN 0x1E (0) 1 x ha
    have hb := enc_bN 0x1E (0) 1 x hb
    have hc := enc_cI 0x1E (0) 1 x hc
    have h := enc_args 0x1E (0) 1 x h0 (by simp [Raw.longOp])
    simp [decodeFullFields, opMem, decodeG0, enc_m0 0x1E 1 x, hd, ha, hb, hc, h]

theorem fadd (x : Args) (t : FTy) (m : Rnd) : Statement (.fadd x t m) :=
  of_full (md := fmod m.code t) (x := x) rfl rfl fun (hw : (m != .sr && x.ok false (dw t.wide x.d) (w t.wide x.a) (w t.wide x.b) (n x.c)) = true) => by
    simp only [Args.ok, Bool.and_eq_true] at hw
    obtain ⟨hp0, ⟨⟨⟨⟨h0, hd⟩, ha⟩, hb⟩, hc⟩⟩ := hw
    have hd := enc_dW 0x20 (fmod m.code t) 1 x hd
    have ha := enc_aW 0x20 (fmod m.code t) 1 x ha
    have hb := enc_bW 0x20 (fmod m.code t) 1 x hb
    have hc := enc_cN 0x20 (fmod m.code t) 1 x hc
    have h := enc_args 0x20 (fmod m.code t) 1 x h0 (by simp [Raw.longOp])
    simp [decodeFullFields, opMem, decodeG12, enc_ftyRnd 0x20 1 x hp0 t, hd, ha, hb, hc, h]

theorem fsub (x : Args) (t : FTy) (m : Rnd) : Statement (.fsub x t m) :=
  of_full (md := fmod m.code t) (x := x) rfl rfl fun (hw : (m != .sr && x.ok false (dw t.wide x.d) (w t.wide x.a) (w t.wide x.b) (n x.c)) = true) => by
    simp only [Args.ok, Bool.and_eq_true] at hw
    obtain ⟨hp0, ⟨⟨⟨⟨h0, hd⟩, ha⟩, hb⟩, hc⟩⟩ := hw
    have hd := enc_dW 0x21 (fmod m.code t) 1 x hd
    have ha := enc_aW 0x21 (fmod m.code t) 1 x ha
    have hb := enc_bW 0x21 (fmod m.code t) 1 x hb
    have hc := enc_cN 0x21 (fmod m.code t) 1 x hc
    have h := enc_args 0x21 (fmod m.code t) 1 x h0 (by simp [Raw.longOp])
    simp [decodeFullFields, opMem, decodeG12, enc_ftyRnd 0x21 1 x hp0 t, hd, ha, hb, hc, h]

theorem fmul (x : Args) (t : FTy) (m : Rnd) : Statement (.fmul x t m) :=
  of_full (md := fmod m.code t) (x := x) rfl rfl fun (hw : (m != .sr && x.ok false (dw t.wide x.d) (w t.wide x.a) (w t.wide x.b) (n x.c)) = true) => by
    simp only [Args.ok, Bool.and_eq_true] at hw
    obtain ⟨hp0, ⟨⟨⟨⟨h0, hd⟩, ha⟩, hb⟩, hc⟩⟩ := hw
    have hd := enc_dW 0x22 (fmod m.code t) 1 x hd
    have ha := enc_aW 0x22 (fmod m.code t) 1 x ha
    have hb := enc_bW 0x22 (fmod m.code t) 1 x hb
    have hc := enc_cN 0x22 (fmod m.code t) 1 x hc
    have h := enc_args 0x22 (fmod m.code t) 1 x h0 (by simp [Raw.longOp])
    simp [decodeFullFields, opMem, decodeG12, enc_ftyRnd 0x22 1 x hp0 t, hd, ha, hb, hc, h]

theorem ffma (x : Args) (t : FTy) (m : Rnd) : Statement (.ffma x t m) :=
  of_full (md := fmod m.code t) (x := x) rfl rfl fun (hw : (m != .sr && x.ok false (dw t.wide x.d) (w t.wide x.a) (w t.wide x.b) (wr t.wide x.c)) = true) => by
    simp only [Args.ok, Bool.and_eq_true] at hw
    obtain ⟨hp0, ⟨⟨⟨⟨h0, hd⟩, ha⟩, hb⟩, hc⟩⟩ := hw
    have hd := enc_dW 0x23 (fmod m.code t) 1 x hd
    have ha := enc_aW 0x23 (fmod m.code t) 1 x ha
    have hb := enc_bW 0x23 (fmod m.code t) 1 x hb
    have hc := enc_cWR 0x23 (fmod m.code t) 1 x hc
    have h := enc_args 0x23 (fmod m.code t) 1 x h0 (by simp [Raw.longOp])
    simp [decodeFullFields, opMem, decodeG12, enc_ftyRnd 0x23 1 x hp0 t, hd, ha, hb, hc, h]

theorem fmin (x : Args) (t : FTy) : Statement (.fmin x t) :=
  of_full (md := fmod 0 t) (x := x) rfl rfl fun (hw : (x.ok false (dw t.wide x.d) (w t.wide x.a) (w t.wide x.b) (n x.c)) = true) => by
    simp only [Args.ok, Bool.and_eq_true] at hw
    obtain ⟨⟨⟨⟨h0, hd⟩, ha⟩, hb⟩, hc⟩ := hw
    have hd := enc_dW 0x24 (fmod 0 t) 1 x hd
    have ha := enc_aW 0x24 (fmod 0 t) 1 x ha
    have hb := enc_bW 0x24 (fmod 0 t) 1 x hb
    have hc := enc_cN 0x24 (fmod 0 t) 1 x hc
    have h := enc_args 0x24 (fmod 0 t) 1 x h0 (by simp [Raw.longOp])
    simp [decodeFullFields, opMem, decodeG12, enc_fty0 0x24 1 x t, hd, ha, hb, hc, h]

theorem fmax (x : Args) (t : FTy) : Statement (.fmax x t) :=
  of_full (md := fmod 0 t) (x := x) rfl rfl fun (hw : (x.ok false (dw t.wide x.d) (w t.wide x.a) (w t.wide x.b) (n x.c)) = true) => by
    simp only [Args.ok, Bool.and_eq_true] at hw
    obtain ⟨⟨⟨⟨h0, hd⟩, ha⟩, hb⟩, hc⟩ := hw
    have hd := enc_dW 0x25 (fmod 0 t) 1 x hd
    have ha := enc_aW 0x25 (fmod 0 t) 1 x ha
    have hb := enc_bW 0x25 (fmod 0 t) 1 x hb
    have hc := enc_cN 0x25 (fmod 0 t) 1 x hc
    have h := enc_args 0x25 (fmod 0 t) 1 x h0 (by simp [Raw.longOp])
    simp [decodeFullFields, opMem, decodeG12, enc_fty0 0x25 1 x t, hd, ha, hb, hc, h]

theorem fclass (x : Args) (t : FTy) : Statement (.fclass x t) :=
  of_full (md := fmod 0 t) (x := x) rfl rfl fun (hw : ((t == .f32 || t == .f64) && x.ok false (dch x.d) (w t.wide x.a) (n x.b) (n x.c)) = true) => by
    simp only [Args.ok, Bool.and_eq_true] at hw
    obtain ⟨hp0, ⟨⟨⟨⟨h0, hd⟩, ha⟩, hb⟩, hc⟩⟩ := hw
    have hd := enc_dC 0x27 (fmod 0 t) 1 x hd
    have ha := enc_aW 0x27 (fmod 0 t) 1 x ha
    have hb := enc_bN 0x27 (fmod 0 t) 1 x hb
    have hc := enc_cN 0x27 (fmod 0 t) 1 x hc
    have h := enc_args 0x27 (fmod 0 t) 1 x h0 (by simp [Raw.longOp])
    simp [decodeFullFields, opMem, decodeG12, enc_fty0 0x27 1 x t, hd, ha, hb, hc, h, hp0]

theorem fdiv (x : Args) (t : FTy) (m : Rnd) : Statement (.fdiv x t m) :=
  of_full (md := fmod m.code t) (x := x) rfl rfl fun (hw : (m != .sr && (t == .f32 || t == .f64) && x.ok true (dw t.wide x.d) (w t.wide x.a) (w t.wide x.b) (n x.c)) = true) => by
    simp only [Args.ok, Bool.and_eq_true] at hw
    obtain ⟨⟨hp0, hp1⟩, ⟨⟨⟨⟨h0, hd⟩, ha⟩, hb⟩, hc⟩⟩ := hw
    have hd := enc_dW 0x28 (fmod m.code t) 1 x hd
    have ha := enc_aW 0x28 (fmod m.code t) 1 x ha
    have hb := enc_bW 0x28 (fmod m.code t) 1 x hb
    have hc := enc_cN 0x28 (fmod m.code t) 1 x hc
    have h := enc_args 0x28 (fmod m.code t) 1 x h0 (by simp [Raw.longOp])
    simp [decodeFullFields, opMem, decodeG12, enc_ftyRnd 0x28 1 x hp0 t, hd, ha, hb, hc, h, hp1]

theorem fsqrt (x : Args) (t : FTy) (m : Rnd) : Statement (.fsqrt x t m) :=
  of_full (md := fmod m.code t) (x := x) rfl rfl fun (hw : (m != .sr && (t == .f32 || t == .f64) && x.ok true (dw t.wide x.d) (w t.wide x.a) (n x.b) (n x.c)) = true) => by
    simp only [Args.ok, Bool.and_eq_true] at hw
    obtain ⟨⟨hp0, hp1⟩, ⟨⟨⟨⟨h0, hd⟩, ha⟩, hb⟩, hc⟩⟩ := hw
    have hd := enc_dW 0x29 (fmod m.code t) 1 x hd
    have ha := enc_aW 0x29 (fmod m.code t) 1 x ha
    have hb := enc_bN 0x29 (fmod m.code t) 1 x hb
    have hc := enc_cN 0x29 (fmod m.code t) 1 x hc
    have h := enc_args 0x29 (fmod m.code t) 1 x h0 (by simp [Raw.longOp])
    simp [decodeFullFields, opMem, decodeG12, enc_ftyRnd 0x29 1 x hp0 t, hd, ha, hb, hc, h, hp1]

theorem frcp (x : Args) (t : FTy) (m : Rnd) : Statement (.frcp x t m) :=
  of_full (md := fmod m.code t) (x := x) rfl rfl fun (hw : (m != .sr && (t == .f32 || t == .f64) && x.ok true (dw t.wide x.d) (w t.wide x.a) (n x.b) (n x.c)) = true) => by
    simp only [Args.ok, Bool.and_eq_true] at hw
    obtain ⟨⟨hp0, hp1⟩, ⟨⟨⟨⟨h0, hd⟩, ha⟩, hb⟩, hc⟩⟩ := hw
    have hd := enc_dW 0x2A (fmod m.code t) 1 x hd
    have ha := enc_aW 0x2A (fmod m.code t) 1 x ha
    have hb := enc_bN 0x2A (fmod m.code t) 1 x hb
    have hc := enc_cN 0x2A (fmod m.code t) 1 x hc
    have h := enc_args 0x2A (fmod m.code t) 1 x h0 (by simp [Raw.longOp])
    simp [decodeFullFields, opMem, decodeG12, enc_ftyRnd 0x2A 1 x hp0 t, hd, ha, hb, hc, h, hp1]

theorem frsq (x : Args) : Statement (.frsq x) :=
  of_full (md := 0) (x := x) rfl rfl fun (hw : (x.ok true (dch x.d) (ch x.a) (n x.b) (n x.c)) = true) => by
    simp only [Args.ok, Bool.and_eq_true] at hw
    obtain ⟨⟨⟨⟨h0, hd⟩, ha⟩, hb⟩, hc⟩ := hw
    have hd := enc_dC 0x2B (0) 1 x hd
    have ha := enc_aC 0x2B (0) 1 x ha
    have hb := enc_bN 0x2B (0) 1 x hb
    have hc := enc_cN 0x2B (0) 1 x hc
    have h := enc_args 0x2B (0) 1 x h0 (by simp [Raw.longOp])
    simp [decodeFullFields, opMem, decodeG12, enc_m0 0x2B 1 x, hd, ha, hb, hc, h]

theorem fexp2 (x : Args) : Statement (.fexp2 x) :=
  of_full (md := 0) (x := x) rfl rfl fun (hw : (x.ok true (dch x.d) (ch x.a) (n x.b) (n x.c)) = true) => by
    simp only [Args.ok, Bool.and_eq_true] at hw
    obtain ⟨⟨⟨⟨h0, hd⟩, ha⟩, hb⟩, hc⟩ := hw
    have hd := enc_dC 0x2C (0) 1 x hd
    have ha := enc_aC 0x2C (0) 1 x ha
    have hb := enc_bN 0x2C (0) 1 x hb
    have hc := enc_cN 0x2C (0) 1 x hc
    have h := enc_args 0x2C (0) 1 x h0 (by simp [Raw.longOp])
    simp [decodeFullFields, opMem, decodeG12, enc_m0 0x2C 1 x, hd, ha, hb, hc, h]

theorem flog2 (x : Args) : Statement (.flog2 x) :=
  of_full (md := 0) (x := x) rfl rfl fun (hw : (x.ok true (dch x.d) (ch x.a) (n x.b) (n x.c)) = true) => by
    simp only [Args.ok, Bool.and_eq_true] at hw
    obtain ⟨⟨⟨⟨h0, hd⟩, ha⟩, hb⟩, hc⟩ := hw
    have hd := enc_dC 0x2D (0) 1 x hd
    have ha := enc_aC 0x2D (0) 1 x ha
    have hb := enc_bN 0x2D (0) 1 x hb
    have hc := enc_cN 0x2D (0) 1 x hc
    have h := enc_args 0x2D (0) 1 x h0 (by simp [Raw.longOp])
    simp [decodeFullFields, opMem, decodeG12, enc_m0 0x2D 1 x, hd, ha, hb, hc, h]

theorem fsinpi (x : Args) : Statement (.fsinpi x) :=
  of_full (md := 0) (x := x) rfl rfl fun (hw : (x.ok true (dch x.d) (ch x.a) (n x.b) (n x.c)) = true) => by
    simp only [Args.ok, Bool.and_eq_true] at hw
    obtain ⟨⟨⟨⟨h0, hd⟩, ha⟩, hb⟩, hc⟩ := hw
    have hd := enc_dC 0x2E (0) 1 x hd
    have ha := enc_aC 0x2E (0) 1 x ha
    have hb := enc_bN 0x2E (0) 1 x hb
    have hc := enc_cN 0x2E (0) 1 x hc
    have h := enc_args 0x2E (0) 1 x h0 (by simp [Raw.longOp])
    simp [decodeFullFields, opMem, decodeG12, enc_m0 0x2E 1 x, hd, ha, hb, hc, h]

theorem fcospi (x : Args) : Statement (.fcospi x) :=
  of_full (md := 0) (x := x) rfl rfl fun (hw : (x.ok true (dch x.d) (ch x.a) (n x.b) (n x.c)) = true) => by
    simp only [Args.ok, Bool.and_eq_true] at hw
    obtain ⟨⟨⟨⟨h0, hd⟩, ha⟩, hb⟩, hc⟩ := hw
    have hd := enc_dC 0x2F (0) 1 x hd
    have ha := enc_aC 0x2F (0) 1 x ha
    have hb := enc_bN 0x2F (0) 1 x hb
    have hc := enc_cN 0x2F (0) 1 x hc
    have h := enc_args 0x2F (0) 1 x h0 (by simp [Raw.longOp])
    simp [decodeFullFields, opMem, decodeG12, enc_m0 0x2F 1 x, hd, ha, hb, hc, h]

theorem ftanh (x : Args) : Statement (.ftanh x) :=
  of_full (md := 0) (x := x) rfl rfl fun (hw : (x.ok true (dch x.d) (ch x.a) (n x.b) (n x.c)) = true) => by
    simp only [Args.ok, Bool.and_eq_true] at hw
    obtain ⟨⟨⟨⟨h0, hd⟩, ha⟩, hb⟩, hc⟩ := hw
    have hd := enc_dC 0x30 (0) 1 x hd
    have ha := enc_aC 0x30 (0) 1 x ha
    have hb := enc_bN 0x30 (0) 1 x hb
    have hc := enc_cN 0x30 (0) 1 x hc
    have h := enc_args 0x30 (0) 1 x h0 (by simp [Raw.longOp])
    simp [decodeFullFields, opMem, decodeG12, enc_m0 0x30 1 x, hd, ha, hb, hc, h]

theorem fscale (x : Args) (t : FTy) (m : Rnd) : Statement (.fscale x t m) :=
  of_full (md := fmod m.code t) (x := x) rfl rfl fun (hw : (m != .sr && x.headOk false && dw t.wide x.d && w t.wide x.a && s false x.b x.c) = true) => by
    simp only [Bool.and_eq_true] at hw
    obtain ⟨⟨⟨⟨hp0, h0⟩, hd⟩, ha⟩, hs⟩ := hw
    have hd := enc_dW 0x31 (fmod m.code t) 1 x hd
    have ha := enc_aW 0x31 (fmod m.code t) 1 x ha
    have hs := enc_s 0x31 (fmod m.code t) 1 x hs
    have h := enc_args 0x31 (fmod m.code t) 1 x h0 (by simp [Raw.longOp])
    simp [decodeFullFields, opMem, decodeG12, enc_ftyRnd 0x31 1 x hp0 t, hd, ha, hs, h]

theorem fdot2 (x : Args) (t : FTy) (m : Rnd) : Statement (.fdot2 x t m) :=
  of_full (md := fmod m.code t) (x := x) rfl rfl fun (hw : (m != .sr && (t == .f16x2 || t == .bf16x2) && x.ok false (dch x.d) (ch x.a) (ch x.b) (r x.c)) = true) => by
    simp only [Args.ok, Bool.and_eq_true] at hw
    obtain ⟨⟨hp0, hp1⟩, ⟨⟨⟨⟨h0, hd⟩, ha⟩, hb⟩, hc⟩⟩ := hw
    have hd := enc_dC 0x32 (fmod m.code t) 1 x hd
    have ha := enc_aC 0x32 (fmod m.code t) 1 x ha
    have hb := enc_bC 0x32 (fmod m.code t) 1 x hb
    have hc := enc_cR 0x32 (fmod m.code t) 1 x hc
    have h := enc_args 0x32 (fmod m.code t) 1 x h0 (by simp [Raw.longOp])
    simp [decodeFullFields, opMem, decodeG12, enc_ftyRnd 0x32 1 x hp0 t, hd, ha, hb, hc, h, hp1]

theorem welf (x : Args) (m : Rnd) : Statement (.welf x m) :=
  of_full (md := fmod m.code .f32) (x := x) rfl rfl fun (hw : (m != .sr && x.ok false (run 3 x.d) (ch x.a) (n x.b) (n x.c)) = true) => by
    simp only [Args.ok, Bool.and_eq_true] at hw
    obtain ⟨hp0, ⟨⟨⟨⟨h0, hd⟩, ha⟩, hb⟩, hc⟩⟩ := hw
    have hd := enc_dRun 0x33 (fmod m.code .f32) 1 x hd
    have ha := enc_aC 0x33 (fmod m.code .f32) 1 x ha
    have hb := enc_bN 0x33 (fmod m.code .f32) 1 x hb
    have hc := enc_cN 0x33 (fmod m.code .f32) 1 x hc
    have h := enc_args 0x33 (fmod m.code .f32) 1 x h0 (by simp [Raw.longOp])
    simp [decodeFullFields, opMem, decodeG12, enc_ftyRnd 0x33 1 x hp0 .f32, hd, ha, hb, hc, h]

theorem wmerge (x : Args) (m : Rnd) : Statement (.wmerge x m) :=
  of_full (md := fmod m.code .f32) (x := x) rfl rfl fun (hw : (m != .sr && x.ok false (run 3 x.d) (run 3 x.a) (n x.b) (n x.c)) = true) => by
    simp only [Args.ok, Bool.and_eq_true] at hw
    obtain ⟨hp0, ⟨⟨⟨⟨h0, hd⟩, ha⟩, hb⟩, hc⟩⟩ := hw
    have hd := enc_dRun 0x34 (fmod m.code .f32) 1 x hd
    have ha := enc_aRun 0x34 (fmod m.code .f32) 1 x ha
    have hb := enc_bN 0x34 (fmod m.code .f32) 1 x hb
    have hc := enc_cN 0x34 (fmod m.code .f32) 1 x hc
    have h := enc_args 0x34 (fmod m.code .f32) 1 x h0 (by simp [Raw.longOp])
    simp [decodeFullFields, opMem, decodeG12, enc_ftyRnd 0x34 1 x hp0 .f32, hd, ha, hb, hc, h]

theorem brx (x : Args) : Statement (.brx x) :=
  of_full (md := 0) (x := x) rfl rfl fun (hw : (x.ok false (n x.d) (p x.a) (n x.b) (n x.c)) = true) => by
    simp only [Args.ok, Bool.and_eq_true] at hw
    obtain ⟨⟨⟨⟨h0, hd⟩, ha⟩, hb⟩, hc⟩ := hw
    have hd := enc_dN 0x61 (0) 1 x hd
    have ha := enc_aP 0x61 (0) 1 x ha
    have hb := enc_bN 0x61 (0) 1 x hb
    have hc := enc_cN 0x61 (0) 1 x hc
    have h := enc_args 0x61 (0) 1 x h0 (by simp [Raw.longOp])
    simp [decodeFullFields, opMem, decodeG3, enc_m0 0x61 1 x, hd, ha, hb, hc, h]

theorem callx (x : Args) : Statement (.callx x) :=
  of_full (md := 0) (x := x) rfl rfl fun (hw : (x.ok false (n x.d) (p x.a) (n x.b) (n x.c)) = true) => by
    simp only [Args.ok, Bool.and_eq_true] at hw
    obtain ⟨⟨⟨⟨h0, hd⟩, ha⟩, hb⟩, hc⟩ := hw
    have hd := enc_dN 0x63 (0) 1 x hd
    have ha := enc_aP 0x63 (0) 1 x ha
    have hb := enc_bN 0x63 (0) 1 x hb
    have hc := enc_cN 0x63 (0) 1 x hc
    have h := enc_args 0x63 (0) 1 x h0 (by simp [Raw.longOp])
    simp [decodeFullFields, opMem, decodeG3, enc_m0 0x63 1 x, hd, ha, hb, hc, h]

theorem ret (x : Args) : Statement (.ret x) :=
  of_full (md := 0) (x := x) rfl rfl fun (hw : (x.zzzz) = true) => by
    have h := enc_zzzz 0x64 (0) 1 x hw
    simp [decodeFullFields, opMem, decodeG3, enc_m0 0x64 1 x, h]

theorem exit (x : Args) : Statement (.exit x) :=
  of_full (md := 0) (x := x) rfl rfl fun (hw : (x.zzzz) = true) => by
    have h := enc_zzzz 0x65 (0) 1 x hw
    simp [decodeFullFields, opMem, decodeG3, enc_m0 0x65 1 x, h]

theorem nap (x : Args) : Statement (.nap x) :=
  of_full (md := 0) (x := x) rfl rfl fun (hw : (x.headOk false && n x.d && n x.a && s false x.b x.c) = true) => by
    simp only [Bool.and_eq_true] at hw
    obtain ⟨⟨⟨h0, hd⟩, ha⟩, hs⟩ := hw
    have hd := enc_dN 0x67 (0) 1 x hd
    have ha := enc_aN 0x67 (0) 1 x ha
    have hs := enc_s 0x67 (0) 1 x hs
    have h := enc_args 0x67 (0) 1 x h0 (by simp [Raw.longOp])
    simp [decodeFullFields, opMem, decodeG3, enc_m0 0x67 1 x, hd, ha, hs, h]

theorem pset (x : Args) (o : PsetOp) : Statement (.pset x o) :=
  of_full (md := o.code * 8) (x := x) rfl rfl fun (hw : (x.ok false (q x.d) (q x.a) (q x.b) (imm 0 7 x.c)) = true) => by
    simp only [Args.ok, Bool.and_eq_true] at hw
    obtain ⟨⟨⟨⟨h0, hd⟩, ha⟩, hb⟩, hc⟩ := hw
    have hd := enc_dQ 0x68 (o.code * 8) 1 x hd
    have ha := enc_aQ 0x68 (o.code * 8) 1 x ha
    have hb := enc_bQ 0x68 (o.code * 8) 1 x hb
    have hc := enc_cI 0x68 (o.code * 8) 1 x hc
    have h := enc_args 0x68 (o.code * 8) 1 x h0 (by simp [Raw.longOp])
    simp [decodeFullFields, opMem, decodeG3, enc_hi3' 0x68 1 x o.code_lt, enc_lo3' 0x68 1 x, hd, ha, hb, hc, h]

theorem shfl (x : Args) (k : ShflKind) (t : IntTy) : Statement (.shfl x k t) :=
  of_full (md := imod k.code false t) (x := x) rfl rfl fun (hw : (x.ok false (dw t.wide x.d) (w t.wide x.a) (ch x.b) (ri 0 255 x.c)) = true) => by
    simp only [Args.ok, Bool.and_eq_true] at hw
    obtain ⟨⟨⟨⟨h0, hd⟩, ha⟩, hb⟩, hc⟩ := hw
    have hd := enc_dW 0x6B (imod k.code false t) 1 x hd
    have ha := enc_aW 0x6B (imod k.code false t) 1 x ha
    have hb := enc_bC 0x6B (imod k.code false t) 1 x hb
    have hc := enc_cRI 0x6B (imod k.code false t) 1 x hc
    have h := enc_args 0x6B (imod k.code false t) 1 x h0 (by simp [Raw.longOp])
    simp [decodeFullFields, opMem, decodeG3, enc_imod_hi3 0x6B 1 x k.code k.code_lt false t, enc_ityV 0x6B 1 x k.code t, hd, ha, hb, hc, h]

theorem matchL (x : Args) (t : IntTy) : Statement (.matchL x t) :=
  of_full (md := imod 0 false t) (x := x) rfl rfl fun (hw : (x.headOk false && dch x.d && w t.wide x.a && s false x.b x.c) = true) => by
    simp only [Bool.and_eq_true] at hw
    obtain ⟨⟨⟨h0, hd⟩, ha⟩, hs⟩ := hw
    have hd := enc_dC 0x6E (imod 0 false t) 1 x hd
    have ha := enc_aW 0x6E (imod 0 false t) 1 x ha
    have hs := enc_s 0x6E (imod 0 false t) 1 x hs
    have h := enc_args 0x6E (imod 0 false t) 1 x h0 (by simp [Raw.longOp])
    simp [decodeFullFields, opMem, decodeG3, enc_ity 0x6E 1 x t, hd, ha, hs, h]

theorem part (x : Args) : Statement (.part x) :=
  of_full (md := 0) (x := x) rfl rfl fun (hw : (x.headOk false && n x.d && n x.a && s false x.b x.c) = true) => by
    simp only [Bool.and_eq_true] at hw
    obtain ⟨⟨⟨h0, hd⟩, ha⟩, hs⟩ := hw
    have hd := enc_dN 0x6F (0) 1 x hd
    have ha := enc_aN 0x6F (0) 1 x ha
    have hs := enc_s 0x6F (0) 1 x hs
    have h := enc_args 0x6F (0) 1 x h0 (by simp [Raw.longOp])
    simp [decodeFullFields, opMem, decodeG3, enc_m0 0x6F 1 x, hd, ha, hs, h]

theorem sqbar (x : Args) : Statement (.sqbar x) :=
  of_full (md := 0) (x := x) rfl rfl fun (hw : (x.headOk false && n x.d && n x.a && s false x.b x.c) = true) => by
    simp only [Bool.and_eq_true] at hw
    obtain ⟨⟨⟨h0, hd⟩, ha⟩, hs⟩ := hw
    have hd := enc_dN 0x70 (0) 1 x hd
    have ha := enc_aN 0x70 (0) 1 x ha
    have hs := enc_s 0x70 (0) 1 x hs
    have h := enc_args 0x70 (0) 1 x h0 (by simp [Raw.longOp])
    simp [decodeFullFields, opMem, decodeG3, enc_m0 0x70 1 x, hd, ha, hs, h]

theorem crbar (x : Args) : Statement (.crbar x) :=
  of_full (md := 0) (x := x) rfl rfl fun (hw : (x.ok false (n x.d) (n x.a) (n x.b) (imm 0 15 x.c)) = true) => by
    simp only [Args.ok, Bool.and_eq_true] at hw
    obtain ⟨⟨⟨⟨h0, hd⟩, ha⟩, hb⟩, hc⟩ := hw
    have hd := enc_dN 0x71 (0) 1 x hd
    have ha := enc_aN 0x71 (0) 1 x ha
    have hb := enc_bN 0x71 (0) 1 x hb
    have hc := enc_cI 0x71 (0) 1 x hc
    have h := enc_args 0x71 (0) 1 x h0 (by simp [Raw.longOp])
    simp [decodeFullFields, opMem, decodeG3, enc_m0 0x71 1 x, hd, ha, hb, hc, h]

theorem regb (x : Args) : Statement (.regb x) :=
  of_full (md := 0) (x := x) rfl rfl fun (hw : (x.zzzz) = true) => by
    have h := enc_zzzz 0x73 (0) 1 x hw
    simp [decodeFullFields, opMem, decodeG3, enc_m0 0x73 1 x, h]

theorem bkpt (x : Args) : Statement (.bkpt x) :=
  of_full (md := 0) (x := x) rfl rfl fun (hw : (x.ok false (n x.d) (n x.a) (n x.b) (imm 0 255 x.c)) = true) => by
    simp only [Args.ok, Bool.and_eq_true] at hw
    obtain ⟨⟨⟨⟨h0, hd⟩, ha⟩, hb⟩, hc⟩ := hw
    have hd := enc_dN 0x74 (0) 1 x hd
    have ha := enc_aN 0x74 (0) 1 x ha
    have hb := enc_bN 0x74 (0) 1 x hb
    have hc := enc_cI 0x74 (0) 1 x hc
    have h := enc_args 0x74 (0) 1 x h0 (by simp [Raw.longOp])
    simp [decodeFullFields, opMem, decodeG3, enc_m0 0x74 1 x, hd, ha, hb, hc, h]

theorem trap (x : Args) : Statement (.trap x) :=
  of_full (md := 0) (x := x) rfl rfl fun (hw : (x.ok false (n x.d) (n x.a) (n x.b) (imm 0 15 x.c)) = true) => by
    simp only [Args.ok, Bool.and_eq_true] at hw
    obtain ⟨⟨⟨⟨h0, hd⟩, ha⟩, hb⟩, hc⟩ := hw
    have hd := enc_dN 0x75 (0) 1 x hd
    have ha := enc_aN 0x75 (0) 1 x ha
    have hb := enc_bN 0x75 (0) 1 x hb
    have hc := enc_cI 0x75 (0) 1 x hc
    have h := enc_args 0x75 (0) 1 x h0 (by simp [Raw.longOp])
    simp [decodeFullFields, opMem, decodeG3, enc_m0 0x75 1 x, hd, ha, hb, hc, h]

theorem ld (x : Args) (w : Width) (sp : Space) : Statement (.ld x w sp) :=
  of_full (md := w.code * 8 + sp.code) (x := x) rfl rfl fun (hw : (memOk x true false (dw (w == .w64) x.d) sp (n x.c)) = true) => by
    simp only [memOk, Args.ok, Bool.and_eq_true] at hw
    obtain ⟨⟨⟨⟨h0, hd⟩, ha⟩, hb⟩, hc⟩ := hw
    have hd := enc_dW 0x80 (w.code * 8 + sp.code) 1 x hd
    have ha := enc_memA 0x80 (w.code * 8 + sp.code) 1 x (sp := sp) ha
    have hb := enc_memB 0x80 (w.code * 8 + sp.code) 1 x (lit := false) hb
    have hc := enc_cN 0x80 (w.code * 8 + sp.code) 1 x hc
    have h := enc_args 0x80 (w.code * 8 + sp.code) 1 x h0 (by simp [Raw.longOp])
    simp [decodeFullFields, opMem, decodeMem, enc_hi3 0x80 1 x w.code_lt (Nat.lt_of_lt_of_le sp.code_lt (by decide : _ ≤ 8)), enc_spaceOf 0x80 1 x w.code sp, hd, ha, hb, hc, h]

theorem ldLong (x : Args) (w : Width) (sp : Space) (l : Word) : Statement (.ldLong x w sp l) :=
  of_long (md := w.code * 8 + sp.code) (x := x) rfl rfl fun (hw : (memOk x true true (dw (w == .w64) x.d) sp (n x.c)) = true) => by
    simp only [memOk, Args.ok, Bool.and_eq_true] at hw
    obtain ⟨⟨⟨⟨h0, hd⟩, ha⟩, hb⟩, hc⟩ := hw
    have hd := enc_dW 0x80 (w.code * 8 + sp.code) 2 x hd
    have ha := enc_memA 0x80 (w.code * 8 + sp.code) 2 x (sp := sp) ha
    have hb := enc_memB 0x80 (w.code * 8 + sp.code) 2 x (lit := true) hb
    have hc := enc_cN 0x80 (w.code * 8 + sp.code) 2 x hc
    have h := enc_args 0x80 (w.code * 8 + sp.code) 2 x h0 (by simp [Raw.longOp])
    simp [decodeLongFields, opMem, decodeMem, enc_hi3 0x80 2 x w.code_lt (Nat.lt_of_lt_of_le sp.code_lt (by decide : _ ≤ 8)), enc_spaceOf 0x80 2 x w.code sp, hd, ha, hb, hc, h]

theorem st (x : Args) (w : Width) (sp : Space) : Statement (.st x w sp) :=
  of_full (md := w.code * 8 + sp.code) (x := x) rfl rfl fun (hw : (memOk x false false (n x.d) sp (wr (w == .w64) x.c)) = true) => by
    simp only [memOk, Args.ok, Bool.and_eq_true] at hw
    obtain ⟨⟨⟨⟨h0, hd⟩, ha⟩, hb⟩, hc⟩ := hw
    have hd := enc_dN 0x81 (w.code * 8 + sp.code) 1 x hd
    have ha := enc_memA 0x81 (w.code * 8 + sp.code) 1 x (sp := sp) ha
    have hb := enc_memB 0x81 (w.code * 8 + sp.code) 1 x (lit := false) hb
    have hc := enc_cWR 0x81 (w.code * 8 + sp.code) 1 x hc
    have h := enc_args 0x81 (w.code * 8 + sp.code) 1 x h0 (by simp [Raw.longOp])
    simp [decodeFullFields, opMem, decodeMem, enc_hi3 0x81 1 x w.code_lt (Nat.lt_of_lt_of_le sp.code_lt (by decide : _ ≤ 8)), enc_spaceOf 0x81 1 x w.code sp, hd, ha, hb, hc, h]

theorem stLong (x : Args) (w : Width) (sp : Space) (l : Word) : Statement (.stLong x w sp l) :=
  of_long (md := w.code * 8 + sp.code) (x := x) rfl rfl fun (hw : (memOk x false true (n x.d) sp (wr (w == .w64) x.c)) = true) => by
    simp only [memOk, Args.ok, Bool.and_eq_true] at hw
    obtain ⟨⟨⟨⟨h0, hd⟩, ha⟩, hb⟩, hc⟩ := hw
    have hd := enc_dN 0x81 (w.code * 8 + sp.code) 2 x hd
    have ha := enc_memA 0x81 (w.code * 8 + sp.code) 2 x (sp := sp) ha
    have hb := enc_memB 0x81 (w.code * 8 + sp.code) 2 x (lit := true) hb
    have hc := enc_cWR 0x81 (w.code * 8 + sp.code) 2 x hc
    have h := enc_args 0x81 (w.code * 8 + sp.code) 2 x h0 (by simp [Raw.longOp])
    simp [decodeLongFields, opMem, decodeMem, enc_hi3 0x81 2 x w.code_lt (Nat.lt_of_lt_of_le sp.code_lt (by decide : _ ≤ 8)), enc_spaceOf 0x81 2 x w.code sp, hd, ha, hb, hc, h]

theorem ldt (x : Args) : Statement (.ldt x) :=
  of_full (md := 0) (x := x) rfl rfl fun (hw : (x.ok true (dch x.d) (run 4 x.a) (n x.b) (imm 0 255 x.c)) = true) => by
    simp only [Args.ok, Bool.and_eq_true] at hw
    obtain ⟨⟨⟨⟨h0, hd⟩, ha⟩, hb⟩, hc⟩ := hw
    have hd := enc_dC 0x82 (0) 1 x hd
    have ha := enc_aRun 0x82 (0) 1 x ha
    have hb := enc_bN 0x82 (0) 1 x hb
    have hc := enc_cI 0x82 (0) 1 x hc
    have h := enc_args 0x82 (0) 1 x h0 (by simp [Raw.longOp])
    simp [decodeFullFields, opMem, decodeG45, enc_m0 0x82 1 x, hd, ha, hb, hc, h]

theorem stt (x : Args) : Statement (.stt x) :=
  of_full (md := 0) (x := x) rfl rfl fun (hw : (x.ok false (n x.d) (run 4 x.a) (r x.b) (imm 0 255 x.c)) = true) => by
    simp only [Args.ok, Bool.and_eq_true] at hw
    obtain ⟨⟨⟨⟨h0, hd⟩, ha⟩, hb⟩, hc⟩ := hw
    have hd := enc_dN 0x83 (0) 1 x hd
    have ha := enc_aRun 0x83 (0) 1 x ha
    have hb := enc_bR 0x83 (0) 1 x hb
    have hc := enc_cI 0x83 (0) 1 x hc
    have h := enc_args 0x83 (0) 1 x h0 (by simp [Raw.longOp])
    simp [decodeFullFields, opMem, decodeG45, enc_m0 0x83 1 x, hd, ha, hb, hc, h]

theorem atom (x : Args) (o : AtomOp) (sc : Scope) : Statement (.atom x o sc) :=
  of_full (md := o.code * 8 + sc.code) (x := x) rfl rfl fun (hw : (memOk x true false (r x.d) .g (r x.c)) = true) => by
    simp only [memOk, Args.ok, Bool.and_eq_true] at hw
    obtain ⟨⟨⟨⟨h0, hd⟩, ha⟩, hb⟩, hc⟩ := hw
    have hd := enc_dR 0x84 (o.code * 8 + sc.code) 1 x hd
    have ha := enc_aP 0x84 (o.code * 8 + sc.code) 1 x ha
    have hb := enc_memB 0x84 (o.code * 8 + sc.code) 1 x (lit := false) hb
    have hc := enc_cR 0x84 (o.code * 8 + sc.code) 1 x hc
    have h := enc_args 0x84 (o.code * 8 + sc.code) 1 x h0 (by simp [Raw.longOp])
    simp [decodeFullFields, opMem, decodeMem, enc_hi3 0x84 1 x o.code_lt (Nat.lt_of_lt_of_le sc.code_lt (by decide : _ ≤ 8)), enc_lo3 0x84 1 x (a := o.code) (Nat.lt_of_lt_of_le sc.code_lt (by decide : _ ≤ 8)), hd, ha, hb, hc, h]

theorem atomLong (x : Args) (o : AtomOp) (sc : Scope) (l : Word) : Statement (.atomLong x o sc l) :=
  of_long (md := o.code * 8 + sc.code) (x := x) rfl rfl fun (hw : (memOk x true true (r x.d) .g (r x.c)) = true) => by
    simp only [memOk, Args.ok, Bool.and_eq_true] at hw
    obtain ⟨⟨⟨⟨h0, hd⟩, ha⟩, hb⟩, hc⟩ := hw
    have hd := enc_dR 0x84 (o.code * 8 + sc.code) 2 x hd
    have ha := enc_aP 0x84 (o.code * 8 + sc.code) 2 x ha
    have hb := enc_memB 0x84 (o.code * 8 + sc.code) 2 x (lit := true) hb
    have hc := enc_cR 0x84 (o.code * 8 + sc.code) 2 x hc
    have h := enc_args 0x84 (o.code * 8 + sc.code) 2 x h0 (by simp [Raw.longOp])
    simp [decodeLongFields, opMem, decodeMem, enc_hi3 0x84 2 x o.code_lt (Nat.lt_of_lt_of_le sc.code_lt (by decide : _ ≤ 8)), enc_lo3 0x84 2 x (a := o.code) (Nat.lt_of_lt_of_le sc.code_lt (by decide : _ ≤ 8)), hd, ha, hb, hc, h]

theorem atomf (x : Args) (o : AtomFOp) (sc : Scope) : Statement (.atomf x o sc) :=
  of_full (md := o.code * 8 + sc.code) (x := x) rfl rfl fun (hw : (memOk x true false (r x.d) .g (r x.c)) = true) => by
    simp only [memOk, Args.ok, Bool.and_eq_true] at hw
    obtain ⟨⟨⟨⟨h0, hd⟩, ha⟩, hb⟩, hc⟩ := hw
    have hd := enc_dR 0x86 (o.code * 8 + sc.code) 1 x hd
    have ha := enc_aP 0x86 (o.code * 8 + sc.code) 1 x ha
    have hb := enc_memB 0x86 (o.code * 8 + sc.code) 1 x (lit := false) hb
    have hc := enc_cR 0x86 (o.code * 8 + sc.code) 1 x hc
    have h := enc_args 0x86 (o.code * 8 + sc.code) 1 x h0 (by simp [Raw.longOp])
    simp [decodeFullFields, opMem, decodeMem, enc_hi3 0x86 1 x o.code_lt (Nat.lt_of_lt_of_le sc.code_lt (by decide : _ ≤ 8)), enc_lo3 0x86 1 x (a := o.code) (Nat.lt_of_lt_of_le sc.code_lt (by decide : _ ≤ 8)), hd, ha, hb, hc, h]

theorem atomfLong (x : Args) (o : AtomFOp) (sc : Scope) (l : Word) : Statement (.atomfLong x o sc l) :=
  of_long (md := o.code * 8 + sc.code) (x := x) rfl rfl fun (hw : (memOk x true true (r x.d) .g (r x.c)) = true) => by
    simp only [memOk, Args.ok, Bool.and_eq_true] at hw
    obtain ⟨⟨⟨⟨h0, hd⟩, ha⟩, hb⟩, hc⟩ := hw
    have hd := enc_dR 0x86 (o.code * 8 + sc.code) 2 x hd
    have ha := enc_aP 0x86 (o.code * 8 + sc.code) 2 x ha
    have hb := enc_memB 0x86 (o.code * 8 + sc.code) 2 x (lit := true) hb
    have hc := enc_cR 0x86 (o.code * 8 + sc.code) 2 x hc
    have h := enc_args 0x86 (o.code * 8 + sc.code) 2 x h0 (by simp [Raw.longOp])
    simp [decodeLongFields, opMem, decodeMem, enc_hi3 0x86 2 x o.code_lt (Nat.lt_of_lt_of_le sc.code_lt (by decide : _ ≤ 8)), enc_lo3 0x86 2 x (a := o.code) (Nat.lt_of_lt_of_le sc.code_lt (by decide : _ ≤ 8)), hd, ha, hb, hc, h]

theorem pref (x : Args) : Statement (.pref x) :=
  of_full (md := 0) (x := x) rfl rfl fun (hw : (memOk x false false (n x.d) .g (n x.c)) = true) => by
    simp only [memOk, Args.ok, Bool.and_eq_true] at hw
    obtain ⟨⟨⟨⟨h0, hd⟩, ha⟩, hb⟩, hc⟩ := hw
    have hd := enc_dN 0x87 (0) 1 x hd
    have ha := enc_aP 0x87 (0) 1 x ha
    have hb := enc_memB 0x87 (0) 1 x (lit := false) hb
    have hc := enc_cN 0x87 (0) 1 x hc
    have h := enc_args 0x87 (0) 1 x h0 (by simp [Raw.longOp])
    simp [decodeFullFields, opMem, decodeMem, enc_m0 0x87 1 x, hd, ha, hb, hc, h]

theorem prefLong (x : Args) (l : Word) : Statement (.prefLong x l) :=
  of_long (md := 0) (x := x) rfl rfl fun (hw : (memOk x false true (n x.d) .g (n x.c)) = true) => by
    simp only [memOk, Args.ok, Bool.and_eq_true] at hw
    obtain ⟨⟨⟨⟨h0, hd⟩, ha⟩, hb⟩, hc⟩ := hw
    have hd := enc_dN 0x87 (0) 2 x hd
    have ha := enc_aP 0x87 (0) 2 x ha
    have hb := enc_memB 0x87 (0) 2 x (lit := true) hb
    have hc := enc_cN 0x87 (0) 2 x hc
    have h := enc_args 0x87 (0) 2 x h0 (by simp [Raw.longOp])
    simp [decodeLongFields, opMem, decodeMem, enc_m0 0x87 2 x, hd, ha, hb, hc, h]

theorem fence (x : Args) (sc : Scope) : Statement (.fence x sc) :=
  of_full (md := sc.code) (x := x) rfl rfl fun (hw : (x.zzzz) = true) => by
    have h := enc_zzzz 0x88 (sc.code) 1 x hw
    simp [decodeFullFields, opMem, decodeG45, enc_scope0 0x88 1 x sc, h]

theorem acq (x : Args) (sc : Scope) : Statement (.acq x sc) :=
  of_full (md := sc.code) (x := x) rfl rfl fun (hw : (memOk x false false (p x.d) .g (n x.c)) = true) => by
    simp only [memOk, Args.ok, Bool.and_eq_true] at hw
    obtain ⟨⟨⟨⟨h0, hd⟩, ha⟩, hb⟩, hc⟩ := hw
    have hd := enc_dP 0x89 (sc.code) 1 x hd
    have ha := enc_aP 0x89 (sc.code) 1 x ha
    have hb := enc_memB 0x89 (sc.code) 1 x (lit := false) hb
    have hc := enc_cN 0x89 (sc.code) 1 x hc
    have h := enc_args 0x89 (sc.code) 1 x h0 (by simp [Raw.longOp])
    simp [decodeFullFields, opMem, decodeMem, enc_scope0 0x89 1 x sc, hd, ha, hb, hc, h]

theorem acqLong (x : Args) (sc : Scope) (l : Word) : Statement (.acqLong x sc l) :=
  of_long (md := sc.code) (x := x) rfl rfl fun (hw : (memOk x false true (p x.d) .g (n x.c)) = true) => by
    simp only [memOk, Args.ok, Bool.and_eq_true] at hw
    obtain ⟨⟨⟨⟨h0, hd⟩, ha⟩, hb⟩, hc⟩ := hw
    have hd := enc_dP 0x89 (sc.code) 2 x hd
    have ha := enc_aP 0x89 (sc.code) 2 x ha
    have hb := enc_memB 0x89 (sc.code) 2 x (lit := true) hb
    have hc := enc_cN 0x89 (sc.code) 2 x hc
    have h := enc_args 0x89 (sc.code) 2 x h0 (by simp [Raw.longOp])
    simp [decodeLongFields, opMem, decodeMem, enc_scope0 0x89 2 x sc, hd, ha, hb, hc, h]

theorem rel (x : Args) (sc : Scope) : Statement (.rel x sc) :=
  of_full (md := sc.code) (x := x) rfl rfl fun (hw : (memOk x false false (n x.d) .g (p x.c)) = true) => by
    simp only [memOk, Args.ok, Bool.and_eq_true] at hw
    obtain ⟨⟨⟨⟨h0, hd⟩, ha⟩, hb⟩, hc⟩ := hw
    have hd := enc_dN 0x8A (sc.code) 1 x hd
    have ha := enc_aP 0x8A (sc.code) 1 x ha
    have hb := enc_memB 0x8A (sc.code) 1 x (lit := false) hb
    have hc := enc_cP 0x8A (sc.code) 1 x hc
    have h := enc_args 0x8A (sc.code) 1 x h0 (by simp [Raw.longOp])
    simp [decodeFullFields, opMem, decodeMem, enc_scope0 0x8A 1 x sc, hd, ha, hb, hc, h]

theorem relLong (x : Args) (sc : Scope) (l : Word) : Statement (.relLong x sc l) :=
  of_long (md := sc.code) (x := x) rfl rfl fun (hw : (memOk x false true (n x.d) .g (p x.c)) = true) => by
    simp only [memOk, Args.ok, Bool.and_eq_true] at hw
    obtain ⟨⟨⟨⟨h0, hd⟩, ha⟩, hb⟩, hc⟩ := hw
    have hd := enc_dN 0x8A (sc.code) 2 x hd
    have ha := enc_aP 0x8A (sc.code) 2 x ha
    have hb := enc_memB 0x8A (sc.code) 2 x (lit := true) hb
    have hc := enc_cP 0x8A (sc.code) 2 x hc
    have h := enc_args 0x8A (sc.code) 2 x h0 (by simp [Raw.longOp])
    simp [decodeLongFields, opMem, decodeMem, enc_scope0 0x8A 2 x sc, hd, ha, hb, hc, h]

theorem bind (x : Args) : Statement (.bind x) :=
  of_full (md := 0) (x := x) rfl rfl fun (hw : (memOk x false false (p x.d) .g (r x.c)) = true) => by
    simp only [memOk, Args.ok, Bool.and_eq_true] at hw
    obtain ⟨⟨⟨⟨h0, hd⟩, ha⟩, hb⟩, hc⟩ := hw
    have hd := enc_dP 0x8B (0) 1 x hd
    have ha := enc_aP 0x8B (0) 1 x ha
    have hb := enc_memB 0x8B (0) 1 x (lit := false) hb
    have hc := enc_cR 0x8B (0) 1 x hc
    have h := enc_args 0x8B (0) 1 x h0 (by simp [Raw.longOp])
    simp [decodeFullFields, opMem, decodeMem, enc_m0 0x8B 1 x, hd, ha, hb, hc, h]

theorem bindLong (x : Args) (l : Word) : Statement (.bindLong x l) :=
  of_long (md := 0) (x := x) rfl rfl fun (hw : (memOk x false true (p x.d) .g (r x.c)) = true) => by
    simp only [memOk, Args.ok, Bool.and_eq_true] at hw
    obtain ⟨⟨⟨⟨h0, hd⟩, ha⟩, hb⟩, hc⟩ := hw
    have hd := enc_dP 0x8B (0) 2 x hd
    have ha := enc_aP 0x8B (0) 2 x ha
    have hb := enc_memB 0x8B (0) 2 x (lit := true) hb
    have hc := enc_cR 0x8B (0) 2 x hc
    have h := enc_args 0x8B (0) 2 x h0 (by simp [Raw.longOp])
    simp [decodeLongFields, opMem, decodeMem, enc_m0 0x8B 2 x, hd, ha, hb, hc, h]

theorem unbind (x : Args) : Statement (.unbind x) :=
  of_full (md := 0) (x := x) rfl rfl fun (hw : (memOk x false false (n x.d) .g (n x.c)) = true) => by
    simp only [memOk, Args.ok, Bool.and_eq_true] at hw
    obtain ⟨⟨⟨⟨h0, hd⟩, ha⟩, hb⟩, hc⟩ := hw
    have hd := enc_dN 0x8C (0) 1 x hd
    have ha := enc_aP 0x8C (0) 1 x ha
    have hb := enc_memB 0x8C (0) 1 x (lit := false) hb
    have hc := enc_cN 0x8C (0) 1 x hc
    have h := enc_args 0x8C (0) 1 x h0 (by simp [Raw.longOp])
    simp [decodeFullFields, opMem, decodeMem, enc_m0 0x8C 1 x, hd, ha, hb, hc, h]

theorem unbindLong (x : Args) (l : Word) : Statement (.unbindLong x l) :=
  of_long (md := 0) (x := x) rfl rfl fun (hw : (memOk x false true (n x.d) .g (n x.c)) = true) => by
    simp only [memOk, Args.ok, Bool.and_eq_true] at hw
    obtain ⟨⟨⟨⟨h0, hd⟩, ha⟩, hb⟩, hc⟩ := hw
    have hd := enc_dN 0x8C (0) 2 x hd
    have ha := enc_aP 0x8C (0) 2 x ha
    have hb := enc_memB 0x8C (0) 2 x (lit := true) hb
    have hc := enc_cN 0x8C (0) 2 x hc
    have h := enc_args 0x8C (0) 2 x h0 (by simp [Raw.longOp])
    simp [decodeLongFields, opMem, decodeMem, enc_m0 0x8C 2 x, hd, ha, hb, hc, h]

theorem promo (x : Args) (sc : Scope) : Statement (.promo x sc) :=
  of_full (md := sc.code) (x := x) rfl rfl fun (hw : (memOk x false false (n x.d) .g (n x.c)) = true) => by
    simp only [memOk, Args.ok, Bool.and_eq_true] at hw
    obtain ⟨⟨⟨⟨h0, hd⟩, ha⟩, hb⟩, hc⟩ := hw
    have hd := enc_dN 0x8D (sc.code) 1 x hd
    have ha := enc_aP 0x8D (sc.code) 1 x ha
    have hb := enc_memB 0x8D (sc.code) 1 x (lit := false) hb
    have hc := enc_cN 0x8D (sc.code) 1 x hc
    have h := enc_args 0x8D (sc.code) 1 x h0 (by simp [Raw.longOp])
    simp [decodeFullFields, opMem, decodeMem, enc_scope0 0x8D 1 x sc, hd, ha, hb, hc, h]

theorem promoLong (x : Args) (sc : Scope) (l : Word) : Statement (.promoLong x sc l) :=
  of_long (md := sc.code) (x := x) rfl rfl fun (hw : (memOk x false true (n x.d) .g (n x.c)) = true) => by
    simp only [memOk, Args.ok, Bool.and_eq_true] at hw
    obtain ⟨⟨⟨⟨h0, hd⟩, ha⟩, hb⟩, hc⟩ := hw
    have hd := enc_dN 0x8D (sc.code) 2 x hd
    have ha := enc_aP 0x8D (sc.code) 2 x ha
    have hb := enc_memB 0x8D (sc.code) 2 x (lit := true) hb
    have hc := enc_cN 0x8D (sc.code) 2 x hc
    have h := enc_args 0x8D (sc.code) 2 x h0 (by simp [Raw.longOp])
    simp [decodeLongFields, opMem, decodeMem, enc_scope0 0x8D 2 x sc, hd, ha, hb, hc, h]

theorem futr (x : Args) (sc : Scope) : Statement (.futr x sc) :=
  of_full (md := sc.code) (x := x) rfl rfl fun (hw : (memOk x true false (r x.d) .g (n x.c)) = true) => by
    simp only [memOk, Args.ok, Bool.and_eq_true] at hw
    obtain ⟨⟨⟨⟨h0, hd⟩, ha⟩, hb⟩, hc⟩ := hw
    have hd := enc_dR 0x8F (sc.code) 1 x hd
    have ha := enc_aP 0x8F (sc.code) 1 x ha
    have hb := enc_memB 0x8F (sc.code) 1 x (lit := false) hb
    have hc := enc_cN 0x8F (sc.code) 1 x hc
    have h := enc_args 0x8F (sc.code) 1 x h0 (by simp [Raw.longOp])
    simp [decodeFullFields, opMem, decodeMem, enc_scope0 0x8F 1 x sc, hd, ha, hb, hc, h]

theorem futrLong (x : Args) (sc : Scope) (l : Word) : Statement (.futrLong x sc l) :=
  of_long (md := sc.code) (x := x) rfl rfl fun (hw : (memOk x true true (r x.d) .g (n x.c)) = true) => by
    simp only [memOk, Args.ok, Bool.and_eq_true] at hw
    obtain ⟨⟨⟨⟨h0, hd⟩, ha⟩, hb⟩, hc⟩ := hw
    have hd := enc_dR 0x8F (sc.code) 2 x hd
    have ha := enc_aP 0x8F (sc.code) 2 x ha
    have hb := enc_memB 0x8F (sc.code) 2 x (lit := true) hb
    have hc := enc_cN 0x8F (sc.code) 2 x hc
    have h := enc_args 0x8F (sc.code) 2 x h0 (by simp [Raw.longOp])
    simp [decodeLongFields, opMem, decodeMem, enc_scope0 0x8F 2 x sc, hd, ha, hb, hc, h]

theorem futw (x : Args) (sc : Scope) : Statement (.futw x sc) :=
  of_full (md := sc.code) (x := x) rfl rfl fun (hw : (memOk x false false (n x.d) .g (r x.c)) = true) => by
    simp only [memOk, Args.ok, Bool.and_eq_true] at hw
    obtain ⟨⟨⟨⟨h0, hd⟩, ha⟩, hb⟩, hc⟩ := hw
    have hd := enc_dN 0x90 (sc.code) 1 x hd
    have ha := enc_aP 0x90 (sc.code) 1 x ha
    have hb := enc_memB 0x90 (sc.code) 1 x (lit := false) hb
    have hc := enc_cR 0x90 (sc.code) 1 x hc
    have h := enc_args 0x90 (sc.code) 1 x h0 (by simp [Raw.longOp])
    simp [decodeFullFields, opMem, decodeMem, enc_scope0 0x90 1 x sc, hd, ha, hb, hc, h]

theorem futwLong (x : Args) (sc : Scope) (l : Word) : Statement (.futwLong x sc l) :=
  of_long (md := sc.code) (x := x) rfl rfl fun (hw : (memOk x false true (n x.d) .g (r x.c)) = true) => by
    simp only [memOk, Args.ok, Bool.and_eq_true] at hw
    obtain ⟨⟨⟨⟨h0, hd⟩, ha⟩, hb⟩, hc⟩ := hw
    have hd := enc_dN 0x90 (sc.code) 2 x hd
    have ha := enc_aP 0x90 (sc.code) 2 x ha
    have hb := enc_memB 0x90 (sc.code) 2 x (lit := true) hb
    have hc := enc_cR 0x90 (sc.code) 2 x hc
    have h := enc_args 0x90 (sc.code) 2 x h0 (by simp [Raw.longOp])
    simp [decodeLongFields, opMem, decodeMem, enc_scope0 0x90 2 x sc, hd, ha, hb, hc, h]

theorem qcfg (x : Args) : Statement (.qcfg x) :=
  of_full (md := 0) (x := x) rfl rfl fun (hw : (x.ok false (n x.d) (ch x.a) (n x.b) (run 8 x.c)) = true) => by
    simp only [Args.ok, Bool.and_eq_true] at hw
    obtain ⟨⟨⟨⟨h0, hd⟩, ha⟩, hb⟩, hc⟩ := hw
    have hd := enc_dN 0x93 (0) 1 x hd
    have ha := enc_aC 0x93 (0) 1 x ha
    have hb := enc_bN 0x93 (0) 1 x hb
    have hc := enc_cRun 0x93 (0) 1 x hc
    have h := enc_args 0x93 (0) 1 x h0 (by simp [Raw.longOp])
    simp [decodeFullFields, opMem, decodeG45, enc_m0 0x93 1 x, hd, ha, hb, hc, h]

theorem qstat (x : Args) : Statement (.qstat x) :=
  of_full (md := 0) (x := x) rfl rfl fun (hw : (x.ok false (p x.d) (ch x.a) (n x.b) (n x.c)) = true) => by
    simp only [Args.ok, Bool.and_eq_true] at hw
    obtain ⟨⟨⟨⟨h0, hd⟩, ha⟩, hb⟩, hc⟩ := hw
    have hd := enc_dP 0x94 (0) 1 x hd
    have ha := enc_aC 0x94 (0) 1 x ha
    have hb := enc_bN 0x94 (0) 1 x hb
    have hc := enc_cN 0x94 (0) 1 x hc
    have h := enc_args 0x94 (0) 1 x h0 (by simp [Raw.longOp])
    simp [decodeFullFields, opMem, decodeG45, enc_m0 0x94 1 x, hd, ha, hb, hc, h]

theorem cpy (x : Args) : Statement (.cpy x) :=
  of_full (md := 0) (x := x) rfl rfl fun (hw : (x.ok false (n x.d) (run 4 x.a) (run 4 x.b) (imm 0 255 x.c)) = true) => by
    simp only [Args.ok, Bool.and_eq_true] at hw
    obtain ⟨⟨⟨⟨h0, hd⟩, ha⟩, hb⟩, hc⟩ := hw
    have hd := enc_dN 0xA0 (0) 1 x hd
    have ha := enc_aRun 0xA0 (0) 1 x ha
    have hb := enc_bRun 0xA0 (0) 1 x hb
    have hc := enc_cI 0xA0 (0) 1 x hc
    have h := enc_args 0xA0 (0) 1 x h0 (by simp [Raw.longOp])
    simp [decodeFullFields, opMem, decodeG45, enc_m0 0xA0 1 x, hd, ha, hb, hc, h]

theorem cpyg (x : Args) : Statement (.cpyg x) :=
  of_full (md := 0) (x := x) rfl rfl fun (hw : (x.ok false (n x.d) (run 4 x.a) (run 4 x.b) (imm 0 255 x.c)) = true) => by
    simp only [Args.ok, Bool.and_eq_true] at hw
    obtain ⟨⟨⟨⟨h0, hd⟩, ha⟩, hb⟩, hc⟩ := hw
    have hd := enc_dN 0xA1 (0) 1 x hd
    have ha := enc_aRun 0xA1 (0) 1 x ha
    have hb := enc_bRun 0xA1 (0) 1 x hb
    have hc := enc_cI 0xA1 (0) 1 x hc
    have h := enc_args 0xA1 (0) 1 x h0 (by simp [Raw.longOp])
    simp [decodeFullFields, opMem, decodeG45, enc_m0 0xA1 1 x, hd, ha, hb, hc, h]

theorem cpys (x : Args) : Statement (.cpys x) :=
  of_full (md := 0) (x := x) rfl rfl fun (hw : (x.ok false (n x.d) (run 4 x.a) (run 4 x.b) (imm 0 255 x.c)) = true) => by
    simp only [Args.ok, Bool.and_eq_true] at hw
    obtain ⟨⟨⟨⟨h0, hd⟩, ha⟩, hb⟩, hc⟩ := hw
    have hd := enc_dN 0xA2 (0) 1 x hd
    have ha := enc_aRun 0xA2 (0) 1 x ha
    have hb := enc_bRun 0xA2 (0) 1 x hb
    have hc := enc_cI 0xA2 (0) 1 x hc
    have h := enc_args 0xA2 (0) 1 x h0 (by simp [Raw.longOp])
    simp [decodeFullFields, opMem, decodeG45, enc_m0 0xA2 1 x, hd, ha, hb, hc, h]

theorem cpyc (x : Args) : Statement (.cpyc x) :=
  of_full (md := 0) (x := x) rfl rfl fun (hw : (x.ok false (n x.d) (run 4 x.a) (run 8 x.b) (imm 0 255 x.c)) = true) => by
    simp only [Args.ok, Bool.and_eq_true] at hw
    obtain ⟨⟨⟨⟨h0, hd⟩, ha⟩, hb⟩, hc⟩ := hw
    have hd := enc_dN 0xA3 (0) 1 x hd
    have ha := enc_aRun 0xA3 (0) 1 x ha
    have hb := enc_bRun 0xA3 (0) 1 x hb
    have hc := enc_cI 0xA3 (0) 1 x hc
    have h := enc_args 0xA3 (0) 1 x h0 (by simp [Raw.longOp])
    simp [decodeFullFields, opMem, decodeG45, enc_m0 0xA3 1 x, hd, ha, hb, hc, h]

theorem cseal (x : Args) : Statement (.cseal x) :=
  of_full (md := 0) (x := x) rfl rfl fun (hw : (x.zzzz) = true) => by
    have h := enc_zzzz 0xA4 (0) 1 x hw
    simp [decodeFullFields, opMem, decodeG45, enc_m0 0xA4 1 x, h]

theorem cwait (x : Args) : Statement (.cwait x) :=
  of_full (md := 0) (x := x) rfl rfl fun (hw : (x.ok false (n x.d) (n x.a) (n x.b) (imm 0 7 x.c)) = true) => by
    simp only [Args.ok, Bool.and_eq_true] at hw
    obtain ⟨⟨⟨⟨h0, hd⟩, ha⟩, hb⟩, hc⟩ := hw
    have hd := enc_dN 0xA5 (0) 1 x hd
    have ha := enc_aN 0xA5 (0) 1 x ha
    have hb := enc_bN 0xA5 (0) 1 x hb
    have hc := enc_cI 0xA5 (0) 1 x hc
    have h := enc_args 0xA5 (0) 1 x h0 (by simp [Raw.longOp])
    simp [decodeFullFields, opMem, decodeG45, enc_m0 0xA5 1 x, hd, ha, hb, hc, h]

theorem chsetLong (x : Args) (l : Word) : Statement (.chsetLong x l) :=
  of_long (md := 0) (x := x) rfl rfl fun (hw : (x.ok false (n x.d) (n x.a) (n x.b) (imm 0 63 x.c)) = true) => by
    simp only [Args.ok, Bool.and_eq_true] at hw
    obtain ⟨⟨⟨⟨h0, hd⟩, ha⟩, hb⟩, hc⟩ := hw
    have hd := enc_dN 0xA6 (0) 2 x hd
    have ha := enc_aN 0xA6 (0) 2 x ha
    have hb := enc_bN 0xA6 (0) 2 x hb
    have hc := enc_cI 0xA6 (0) 2 x hc
    have h := enc_args 0xA6 (0) 2 x h0 (by simp [Raw.longOp])
    simp [decodeLongFields, opMem, enc_m0 0xA6 2 x, hd, ha, hb, hc, h]

theorem chstat (x : Args) : Statement (.chstat x) :=
  of_full (md := 0) (x := x) rfl rfl fun (hw : (x.ok false (r x.d) (n x.a) (n x.b) (imm 0 15 x.c)) = true) => by
    simp only [Args.ok, Bool.and_eq_true] at hw
    obtain ⟨⟨⟨⟨h0, hd⟩, ha⟩, hb⟩, hc⟩ := hw
    have hd := enc_dR 0xA7 (0) 1 x hd
    have ha := enc_aN 0xA7 (0) 1 x ha
    have hb := enc_bN 0xA7 (0) 1 x hb
    have hc := enc_cI 0xA7 (0) 1 x hc
    have h := enc_args 0xA7 (0) 1 x h0 (by simp [Raw.longOp])
    simp [decodeFullFields, opMem, decodeG45, enc_m0 0xA7 1 x, hd, ha, hb, hc, h]

theorem mxreq (x : Args) : Statement (.mxreq x) :=
  of_full (md := 0) (x := x) rfl rfl fun (hw : (x.ok false (n x.d) (run 8 x.a) (n x.b) (n x.c)) = true) => by
    simp only [Args.ok, Bool.and_eq_true] at hw
    obtain ⟨⟨⟨⟨h0, hd⟩, ha⟩, hb⟩, hc⟩ := hw
    have hd := enc_dN 0xA8 (0) 1 x hd
    have ha := enc_aRun 0xA8 (0) 1 x ha
    have hb := enc_bN 0xA8 (0) 1 x hb
    have hc := enc_cN 0xA8 (0) 1 x hc
    have h := enc_args 0xA8 (0) 1 x h0 (by simp [Raw.longOp])
    simp [decodeFullFields, opMem, decodeG45, enc_m0 0xA8 1 x, hd, ha, hb, hc, h]

theorem palw (x : Args) : Statement (.palw x) :=
  of_full (md := 0) (x := x) rfl rfl fun (hw : (x.ok false (n x.d) (run 16 x.a) (n x.b) (ri 0 255 x.c)) = true) => by
    simp only [Args.ok, Bool.and_eq_true] at hw
    obtain ⟨⟨⟨⟨h0, hd⟩, ha⟩, hb⟩, hc⟩ := hw
    have hd := enc_dN 0xC0 (0) 1 x hd
    have ha := enc_aRun 0xC0 (0) 1 x ha
    have hb := enc_bN 0xC0 (0) 1 x hb
    have hc := enc_cRI 0xC0 (0) 1 x hc
    have h := enc_args 0xC0 (0) 1 x h0 (by simp [Raw.longOp])
    simp [decodeFullFields, opMem, decodeG6, enc_m0 0xC0 1 x, hd, ha, hb, hc, h]

theorem palr (x : Args) : Statement (.palr x) :=
  of_full (md := 0) (x := x) rfl rfl fun (hw : (x.ok false (run 16 x.d) (n x.a) (n x.b) (ri 0 255 x.c)) = true) => by
    simp only [Args.ok, Bool.and_eq_true] at hw
    obtain ⟨⟨⟨⟨h0, hd⟩, ha⟩, hb⟩, hc⟩ := hw
    have hd := enc_dRun 0xC1 (0) 1 x hd
    have ha := enc_aN 0xC1 (0) 1 x ha
    have hb := enc_bN 0xC1 (0) 1 x hb
    have hc := enc_cRI 0xC1 (0) 1 x hc
    have h := enc_args 0xC1 (0) 1 x h0 (by simp [Raw.longOp])
    simp [decodeFullFields, opMem, decodeG6, enc_m0 0xC1 1 x, hd, ha, hb, hc, h]

theorem mxla (x : Args) : Statement (.mxla x) :=
  of_full (md := 0) (x := x) rfl rfl fun (hw : (x.ok false (n x.d) (run 4 x.a) (n x.b) (ri 0 255 x.c)) = true) => by
    simp only [Args.ok, Bool.and_eq_true] at hw
    obtain ⟨⟨⟨⟨h0, hd⟩, ha⟩, hb⟩, hc⟩ := hw
    have hd := enc_dN 0xC2 (0) 1 x hd
    have ha := enc_aRun 0xC2 (0) 1 x ha
    have hb := enc_bN 0xC2 (0) 1 x hb
    have hc := enc_cRI 0xC2 (0) 1 x hc
    have h := enc_args 0xC2 (0) 1 x h0 (by simp [Raw.longOp])
    simp [decodeFullFields, opMem, decodeG6, enc_m0 0xC2 1 x, hd, ha, hb, hc, h]

theorem mxlb (x : Args) : Statement (.mxlb x) :=
  of_full (md := 0) (x := x) rfl rfl fun (hw : (x.ok false (n x.d) (run 4 x.a) (n x.b) (ri 0 255 x.c)) = true) => by
    simp only [Args.ok, Bool.and_eq_true] at hw
    obtain ⟨⟨⟨⟨h0, hd⟩, ha⟩, hb⟩, hc⟩ := hw
    have hd := enc_dN 0xC3 (0) 1 x hd
    have ha := enc_aRun 0xC3 (0) 1 x ha
    have hb := enc_bN 0xC3 (0) 1 x hb
    have hc := enc_cRI 0xC3 (0) 1 x hc
    have h := enc_args 0xC3 (0) 1 x h0 (by simp [Raw.longOp])
    simp [decodeFullFields, opMem, decodeG6, enc_m0 0xC3 1 x, hd, ha, hb, hc, h]

theorem mxmm (x : Args) : Statement (.mxmm x) :=
  of_full (md := 0) (x := x) rfl rfl fun (hw : (x.ok false (n x.d) (n x.a) (n x.b) (ri 1 128 x.c)) = true) => by
    simp only [Args.ok, Bool.and_eq_true] at hw
    obtain ⟨⟨⟨⟨h0, hd⟩, ha⟩, hb⟩, hc⟩ := hw
    have hd := enc_dN 0xC4 (0) 1 x hd
    have ha := enc_aN 0xC4 (0) 1 x ha
    have hb := enc_bN 0xC4 (0) 1 x hb
    have hc := enc_cRI 0xC4 (0) 1 x hc
    have h := enc_args 0xC4 (0) 1 x h0 (by simp [Raw.longOp])
    simp [decodeFullFields, opMem, decodeG6, enc_m0 0xC4 1 x, hd, ha, hb, hc, h]

theorem mxepi (x : Args) : Statement (.mxepi x) :=
  of_full (md := 0) (x := x) rfl rfl fun (hw : (x.ok false (n x.d) (run 4 x.a) (n x.b) (n x.c)) = true) => by
    simp only [Args.ok, Bool.and_eq_true] at hw
    obtain ⟨⟨⟨⟨h0, hd⟩, ha⟩, hb⟩, hc⟩ := hw
    have hd := enc_dN 0xC5 (0) 1 x hd
    have ha := enc_aRun 0xC5 (0) 1 x ha
    have hb := enc_bN 0xC5 (0) 1 x hb
    have hc := enc_cN 0xC5 (0) 1 x hc
    have h := enc_args 0xC5 (0) 1 x h0 (by simp [Raw.longOp])
    simp [decodeFullFields, opMem, decodeG6, enc_m0 0xC5 1 x, hd, ha, hb, hc, h]

theorem mxtile (x : Args) : Statement (.mxtile x) :=
  of_full (md := 0) (x := x) rfl rfl fun (hw : (x.ok false (n x.d) (run 8 x.a) (n x.b) (n x.c)) = true) => by
    simp only [Args.ok, Bool.and_eq_true] at hw
    obtain ⟨⟨⟨⟨h0, hd⟩, ha⟩, hb⟩, hc⟩ := hw
    have hd := enc_dN 0xC6 (0) 1 x hd
    have ha := enc_aRun 0xC6 (0) 1 x ha
    have hb := enc_bN 0xC6 (0) 1 x hb
    have hc := enc_cN 0xC6 (0) 1 x hc
    have h := enc_args 0xC6 (0) 1 x h0 (by simp [Raw.longOp])
    simp [decodeFullFields, opMem, decodeG6, enc_m0 0xC6 1 x, hd, ha, hb, hc, h]

theorem mxsync (x : Args) : Statement (.mxsync x) :=
  of_full (md := 0) (x := x) rfl rfl fun (hw : (x.zzzz) = true) => by
    have h := enc_zzzz 0xC7 (0) 1 x hw
    simp [decodeFullFields, opMem, decodeG6, enc_m0 0xC7 1 x, h]

theorem cvzero (x : Args) : Statement (.cvzero x) :=
  of_full (md := 0) (x := x) rfl rfl fun (hw : (x.zzzz) = true) => by
    have h := enc_zzzz 0xC8 (0) 1 x hw
    simp [decodeFullFields, opMem, decodeG6, enc_m0 0xC8 1 x, h]

theorem cvld (x : Args) : Statement (.cvld x) :=
  of_full (md := 0) (x := x) rfl rfl fun (hw : (x.ok false (n x.d) (run 4 x.a) (n x.b) (ri 0 255 x.c)) = true) => by
    simp only [Args.ok, Bool.and_eq_true] at hw
    obtain ⟨⟨⟨⟨h0, hd⟩, ha⟩, hb⟩, hc⟩ := hw
    have hd := enc_dN 0xC9 (0) 1 x hd
    have ha := enc_aRun 0xC9 (0) 1 x ha
    have hb := enc_bN 0xC9 (0) 1 x hb
    have hc := enc_cRI 0xC9 (0) 1 x hc
    have h := enc_args 0xC9 (0) 1 x h0 (by simp [Raw.longOp])
    simp [decodeFullFields, opMem, decodeG6, enc_m0 0xC9 1 x, hd, ha, hb, hc, h]

theorem cvst (x : Args) : Statement (.cvst x) :=
  of_full (md := 0) (x := x) rfl rfl fun (hw : (x.ok false (n x.d) (run 4 x.a) (n x.b) (ri 0 255 x.c)) = true) => by
    simp only [Args.ok, Bool.and_eq_true] at hw
    obtain ⟨⟨⟨⟨h0, hd⟩, ha⟩, hb⟩, hc⟩ := hw
    have hd := enc_dN 0xCA (0) 1 x hd
    have ha := enc_aRun 0xCA (0) 1 x ha
    have hb := enc_bN 0xCA (0) 1 x hb
    have hc := enc_cRI 0xCA (0) 1 x hc
    have h := enc_args 0xCA (0) 1 x h0 (by simp [Raw.longOp])
    simp [decodeFullFields, opMem, decodeG6, enc_m0 0xCA 1 x, hd, ha, hb, hc, h]

theorem mbxdone (x : Args) : Statement (.mbxdone x) :=
  of_full (md := 0) (x := x) rfl rfl fun (hw : (memOk x false false (n x.d) .g (r x.c)) = true) => by
    simp only [memOk, Args.ok, Bool.and_eq_true] at hw
    obtain ⟨⟨⟨⟨h0, hd⟩, ha⟩, hb⟩, hc⟩ := hw
    have hd := enc_dN 0xCC (0) 1 x hd
    have ha := enc_aP 0xCC (0) 1 x ha
    have hb := enc_memB 0xCC (0) 1 x (lit := false) hb
    have hc := enc_cR 0xCC (0) 1 x hc
    have h := enc_args 0xCC (0) 1 x h0 (by simp [Raw.longOp])
    simp [decodeFullFields, opMem, decodeMem, enc_m0 0xCC 1 x, hd, ha, hb, hc, h]

theorem mbxdoneLong (x : Args) (l : Word) : Statement (.mbxdoneLong x l) :=
  of_long (md := 0) (x := x) rfl rfl fun (hw : (memOk x false true (n x.d) .g (r x.c)) = true) => by
    simp only [memOk, Args.ok, Bool.and_eq_true] at hw
    obtain ⟨⟨⟨⟨h0, hd⟩, ha⟩, hb⟩, hc⟩ := hw
    have hd := enc_dN 0xCC (0) 2 x hd
    have ha := enc_aP 0xCC (0) 2 x ha
    have hb := enc_memB 0xCC (0) 2 x (lit := true) hb
    have hc := enc_cR 0xCC (0) 2 x hc
    have h := enc_args 0xCC (0) 2 x h0 (by simp [Raw.longOp])
    simp [decodeLongFields, opMem, decodeMem, enc_m0 0xCC 2 x, hd, ha, hb, hc, h]

theorem draw (x : Args) (k : DrawKind) : Statement (.draw x k) :=
  of_full (md := k.code * 8) (x := x) rfl rfl fun (hw : (x.ok true (wr (k == .u64) x.d) (n x.a) (n x.b) (imm 0 7 x.c)) = true) => by
    simp only [Args.ok, Bool.and_eq_true] at hw
    obtain ⟨⟨⟨⟨h0, hd⟩, ha⟩, hb⟩, hc⟩ := hw
    have hd := enc_dWR 0xE0 (k.code * 8) 1 x hd
    have ha := enc_aN 0xE0 (k.code * 8) 1 x ha
    have hb := enc_bN 0xE0 (k.code * 8) 1 x hb
    have hc := enc_cI 0xE0 (k.code * 8) 1 x hc
    have h := enc_args 0xE0 (k.code * 8) 1 x h0 (by simp [Raw.longOp])
    simp [decodeFullFields, opMem, decodeG7, enc_hi3' 0xE0 1 x k.code_lt, enc_lo3' 0xE0 1 x, hd, ha, hb, hc, h]

theorem result (x : Args) : Statement (.result x) :=
  of_full (md := 0) (x := x) rfl rfl fun (hw : (x.ok false (n x.d) (r x.a) (n x.b) (imm 0 3 x.c)) = true) => by
    simp only [Args.ok, Bool.and_eq_true] at hw
    obtain ⟨⟨⟨⟨h0, hd⟩, ha⟩, hb⟩, hc⟩ := hw
    have hd := enc_dN 0xE2 (0) 1 x hd
    have ha := enc_aR 0xE2 (0) 1 x ha
    have hb := enc_bN 0xE2 (0) 1 x hb
    have hc := enc_cI 0xE2 (0) 1 x hc
    have h := enc_args 0xE2 (0) 1 x h0 (by simp [Raw.longOp])
    simp [decodeFullFields, opMem, decodeG7, enc_m0 0xE2 1 x, hd, ha, hb, hc, h]

theorem mutl (x : Args) : Statement (.mutl x) :=
  of_full (md := 0) (x := x) rfl rfl fun (hw : (x.ok false (n x.d) (p x.a) (n x.b) (n x.c)) = true) => by
    simp only [Args.ok, Bool.and_eq_true] at hw
    obtain ⟨⟨⟨⟨h0, hd⟩, ha⟩, hb⟩, hc⟩ := hw
    have hd := enc_dN 0xE3 (0) 1 x hd
    have ha := enc_aP 0xE3 (0) 1 x ha
    have hb := enc_bN 0xE3 (0) 1 x hb
    have hc := enc_cN 0xE3 (0) 1 x hc
    have h := enc_args 0xE3 (0) 1 x h0 (by simp [Raw.longOp])
    simp [decodeFullFields, opMem, decodeG7, enc_m0 0xE3 1 x, hd, ha, hb, hc, h]

theorem spawn (x : Args) : Statement (.spawn x) :=
  of_full (md := 0) (x := x) rfl rfl fun (hw : (x.ok false (n x.d) (p x.a) (p x.b) (imm 1 32 x.c)) = true) => by
    simp only [Args.ok, Bool.and_eq_true] at hw
    obtain ⟨⟨⟨⟨h0, hd⟩, ha⟩, hb⟩, hc⟩ := hw
    have hd := enc_dN 0xE4 (0) 1 x hd
    have ha := enc_aP 0xE4 (0) 1 x ha
    have hb := enc_bP 0xE4 (0) 1 x hb
    have hc := enc_cI 0xE4 (0) 1 x hc
    have h := enc_args 0xE4 (0) 1 x h0 (by simp [Raw.longOp])
    simp [decodeFullFields, opMem, decodeG7, enc_m0 0xE4 1 x, hd, ha, hb, hc, h]

theorem trace (x : Args) : Statement (.trace x) :=
  of_full (md := 0) (x := x) rfl rfl fun (hw : (x.ok false (n x.d) (r x.a) (r x.b) (n x.c)) = true) => by
    simp only [Args.ok, Bool.and_eq_true] at hw
    obtain ⟨⟨⟨⟨h0, hd⟩, ha⟩, hb⟩, hc⟩ := hw
    have hd := enc_dN 0xE5 (0) 1 x hd
    have ha := enc_aR 0xE5 (0) 1 x ha
    have hb := enc_bR 0xE5 (0) 1 x hb
    have hc := enc_cN 0xE5 (0) 1 x hc
    have h := enc_args 0xE5 (0) 1 x h0 (by simp [Raw.longOp])
    simp [decodeFullFields, opMem, decodeG7, enc_m0 0xE5 1 x, hd, ha, hb, hc, h]

theorem hinsp (x : Args) : Statement (.hinsp x) :=
  of_full (md := 0) (x := x) rfl rfl fun (hw : (x.ok false (r x.d) (n x.a) (n x.b) (imm 0 255 x.c)) = true) => by
    simp only [Args.ok, Bool.and_eq_true] at hw
    obtain ⟨⟨⟨⟨h0, hd⟩, ha⟩, hb⟩, hc⟩ := hw
    have hd := enc_dR 0xE6 (0) 1 x hd
    have ha := enc_aN 0xE6 (0) 1 x ha
    have hb := enc_bN 0xE6 (0) 1 x hb
    have hc := enc_cI 0xE6 (0) 1 x hc
    have h := enc_args 0xE6 (0) 1 x h0 (by simp [Raw.longOp])
    simp [decodeFullFields, opMem, decodeG7, enc_m0 0xE6 1 x, hd, ha, hb, hc, h]

theorem hpoke (x : Args) : Statement (.hpoke x) :=
  of_full (md := 0) (x := x) rfl rfl fun (hw : (x.ok false (n x.d) (r x.a) (n x.b) (imm 0 255 x.c)) = true) => by
    simp only [Args.ok, Bool.and_eq_true] at hw
    obtain ⟨⟨⟨⟨h0, hd⟩, ha⟩, hb⟩, hc⟩ := hw
    have hd := enc_dN 0xE7 (0) 1 x hd
    have ha := enc_aR 0xE7 (0) 1 x ha
    have hb := enc_bN 0xE7 (0) 1 x hb
    have hc := enc_cI 0xE7 (0) 1 x hc
    have h := enc_args 0xE7 (0) 1 x h0 (by simp [Raw.longOp])
    simp [decodeFullFields, opMem, decodeG7, enc_m0 0xE7 1 x, hd, ha, hb, hc, h]

theorem hresume (x : Args) : Statement (.hresume x) :=
  of_full (md := 0) (x := x) rfl rfl fun (hw : (x.ok false (n x.d) (n x.a) (n x.b) (imm 0 1 x.c)) = true) => by
    simp only [Args.ok, Bool.and_eq_true] at hw
    obtain ⟨⟨⟨⟨h0, hd⟩, ha⟩, hb⟩, hc⟩ := hw
    have hd := enc_dN 0xE8 (0) 1 x hd
    have ha := enc_aN 0xE8 (0) 1 x ha
    have hb := enc_bN 0xE8 (0) 1 x hb
    have hc := enc_cI 0xE8 (0) 1 x hc
    have h := enc_args 0xE8 (0) 1 x h0 (by simp [Raw.longOp])
    simp [decodeFullFields, opMem, decodeG7, enc_m0 0xE8 1 x, hd, ha, hb, hc, h]

theorem hret (x : Args) : Statement (.hret x) :=
  of_full (md := 0) (x := x) rfl rfl fun (hw : (x.ok false (n x.d) (n x.a) (n x.b) (imm 0 0 x.c)) = true) => by
    simp only [Args.ok, Bool.and_eq_true] at hw
    obtain ⟨⟨⟨⟨h0, hd⟩, ha⟩, hb⟩, hc⟩ := hw
    have hd := enc_dN 0xE9 (0) 1 x hd
    have ha := enc_aN 0xE9 (0) 1 x ha
    have hb := enc_bN 0xE9 (0) 1 x hb
    have hc := enc_cI 0xE9 (0) 1 x hc
    have h := enc_args 0xE9 (0) 1 x h0 (by simp [Raw.longOp])
    simp [decodeFullFields, opMem, decodeG7, enc_m0 0xE9 1 x, hd, ha, hb, hc, h]

theorem compactPairIssue (a1 : CInstr) (a2 : CInstr): Statement (.compactPairIssue a1 a2) := of_none rfl
theorem pickerCycle (a1 : Issuer): Statement (.pickerCycle a1) := of_none rfl
theorem meetingIssue (a1 : TRef): Statement (.meetingIssue a1) := of_none rfl
theorem yieldExpire (a1 : TRef): Statement (.yieldExpire a1) := of_none rfl
theorem napExpire (a1 : Actor): Statement (.napExpire a1) := of_none rfl
theorem longLatencyWriteback (a1 : Actor) (a2 : Nat): Statement (.longLatencyWriteback a1 a2) := of_none rfl
theorem waitaWake (a1 : Actor): Statement (.waitaWake a1) := of_none rfl
theorem waitaHostPoll (a1 : Actor): Statement (.waitaHostPoll a1) := of_none rfl
theorem futureFill (a1 : Nat): Statement (.futureFill a1) := of_none rfl
theorem l1Writeback (a1 : Nat) (a2 : Nat) (a3 : Nat) (a4 : Bool): Statement (.l1Writeback a1 a2 a3 a4) := of_none rfl
theorem faultRecordPush (a1 : Nat): Statement (.faultRecordPush a1) := of_none rfl
theorem replayItemProceed (a1 : Nat): Statement (.replayItemProceed a1) := of_none rfl
theorem trapEntry (a1 : TRef): Statement (.trapEntry a1) := of_none rfl
theorem handlerWatchdog (a1 : TRef): Statement (.handlerWatchdog a1) := of_none rfl
theorem singleStep (a1 : TRef): Statement (.singleStep a1) := of_none rfl
theorem softError (a1 : Actor) (a2 : SoftErr): Statement (.softError a1 a2) := of_none rfl
theorem launchAccept (a1 : Nat): Statement (.launchAccept a1) := of_none rfl
theorem launchComplete (a1 : Nat): Statement (.launchComplete a1) := of_none rfl
theorem crewPlace (a1 : Nat) (a2 : Nat): Statement (.crewPlace a1 a2) := of_none rfl
theorem crewSteal (a1 : Nat) (a2 : Nat): Statement (.crewSteal a1 a2) := of_none rfl
theorem preemptCrew (a1 : Nat): Statement (.preemptCrew a1) := of_none rfl
theorem restoreCrew (a1 : Nat) (a2 : Nat): Statement (.restoreCrew a1 a2) := of_none rfl
theorem contextDepart (a1 : Nat): Statement (.contextDepart a1) := of_none rfl
theorem crewScratchRelease (a1 : Nat): Statement (.crewScratchRelease a1) := of_none rfl
theorem roleArm (a1 : Nat): Statement (.roleArm a1) := of_none rfl
theorem jobStart (a1 : Nat): Statement (.jobStart a1) := of_none rfl
theorem jobTransferUnit (a1 : Nat) (a2 : Nat): Statement (.jobTransferUnit a1 a2) := of_none rfl
theorem completionAction (a1 : Nat): Statement (.completionAction a1) := of_none rfl
theorem emptyJobFinish (a1 : Nat): Statement (.emptyJobFinish a1) := of_none rfl
theorem copyIssueDeadlock (a1 : Nat): Statement (.copyIssueDeadlock a1) := of_none rfl
theorem matrixStepExecute (a1 : Nat): Statement (.matrixStepExecute a1) := of_none rfl
theorem mbxdoneStore (a1 : Nat): Statement (.mbxdoneStore a1) := of_none rfl
theorem basinCommand (a1 : Nat): Statement (.basinCommand a1) := of_none rfl
theorem basinWaiterAnswer (a1 : Nat): Statement (.basinWaiterAnswer a1) := of_none rfl
theorem basinRefill (a1 : Nat): Statement (.basinRefill a1) := of_none rfl
theorem queueRelease (a1 : Nat): Statement (.queueRelease a1) := of_none rfl
theorem valeService (a1 : Nat): Statement (.valeService a1) := of_none rfl
theorem pendingHandlePush (a1 : Nat): Statement (.pendingHandlePush a1) := of_none rfl
theorem taskDispatch (a1 : Nat) (a2 : Nat): Statement (.taskDispatch a1 a2) := of_none rfl
theorem taskCommit (a1 : Nat): Statement (.taskCommit a1) := of_none rfl
theorem deferredFaultReissue (a1 : TRef): Statement (.deferredFaultReissue a1) := of_none rfl
theorem relaunch (a1 : Nat): Statement (.relaunch a1) := of_none rfl
theorem relaunchCompare (a1 : Nat): Statement (.relaunchCompare a1) := of_none rfl
theorem pageMigrate (a1 : Nat) (a2 : Nat) (a3 : Nat): Statement (.pageMigrate a1 a2 a3) := of_none rfl
theorem windowPush (a1 : Nat) (a2 : Nat): Statement (.windowPush a1 a2) := of_none rfl
theorem windowPop (a1 : Nat) (a2 : Nat): Statement (.windowPop a1 a2) := of_none rfl
theorem serviceReplay (a1 : Nat): Statement (.serviceReplay a1) := of_none rfl
theorem serviceFail (a1 : Nat): Statement (.serviceFail a1) := of_none rfl
theorem snapshot (a1 : Nat): Statement (.snapshot a1) := of_none rfl
theorem write (a1 : Nat): Statement (.write a1) := of_none rfl
theorem attest (a1 : Nat): Statement (.attest a1) := of_none rfl
theorem recoveryImageWrite (a1 : List Byte): Statement (.recoveryImageWrite a1) := of_none rfl
theorem launchQueueRegister (a1 : Nat) (a2 : Nat) (a3 : Nat): Statement (.launchQueueRegister a1 a2 a3) := of_none rfl
theorem launchQueueUnregister (a1 : Nat): Statement (.launchQueueUnregister a1) := of_none rfl
theorem slotBind (a1 : Nat) (a2 : Nat) (a3 : Nat): Statement (.slotBind a1 a2 a3) := of_none rfl
theorem slotUnbind (a1 : Nat) (a2 : Nat): Statement (.slotUnbind a1 a2) := of_none rfl
theorem traversalEnable (a1 : Nat): Statement (.traversalEnable a1) := of_none rfl
theorem traversalDisable (a1 : Nat): Statement (.traversalDisable a1) := of_none rfl
theorem traceEnable (a1 : Nat): Statement (.traceEnable a1) := of_none rfl
theorem traceRestart (a1 : Nat): Statement (.traceRestart a1) := of_none rfl
theorem traceSyncPeriodic (a1 : Nat): Statement (.traceSyncPeriodic a1) := of_none rfl
theorem traceSample (a1 : Nat): Statement (.traceSample a1) := of_none rfl
theorem plimitWrite (a1 : Word): Statement (.plimitWrite a1) := of_none rfl
theorem counterClear (a1 : Nat): Statement (.counterClear a1) := of_none rfl
theorem mgmtRegisterWrite (a1 : Nat) (a2 : Nat) (a3 : Dword): Statement (.mgmtRegisterWrite a1 a2 a3) := of_none rfl
theorem boot : Statement (.boot) := of_none rfl
theorem thermalThrottle (a1 : Nat) (a2 : Nat): Statement (.thermalThrottle a1 a2) := of_none rfl
theorem thermalShutdown (a1 : Nat): Statement (.thermalShutdown a1) := of_none rfl
theorem linkFlitReplay (a1 : Nat): Statement (.linkFlitReplay a1) := of_none rfl
theorem portDown (a1 : Nat): Statement (.portDown a1) := of_none rfl
theorem moduleUnreachable (a1 : Nat): Statement (.moduleUnreachable a1) := of_none rfl
theorem pcieLinkTrain (a1 : Nat) (a2 : Nat): Statement (.pcieLinkTrain a1 a2) := of_none rfl
theorem easelStreamResume (a : Nat) (b : Option Dword) : Statement (.easelStreamResume a b) := of_none rfl
theorem jenahPeerRequest (a1 : Nat) (a2 : Nat) (a3 : Nat) (a4 : PeerOp): Statement (.jenahPeerRequest a1 a2 a3 a4) := of_none rfl
theorem memoryScrub (a1 : Nat) (a2 : Nat) (a3 : ScrubFind): Statement (.memoryScrub a1 a2 a3) := of_none rfl
theorem vfEnable (a1 : Nat): Statement (.vfEnable a1) := of_none rfl
theorem windowEntryWrite (a1 : Nat) (a2 : Nat) (a3 : Nat) (a4 : Word): Statement (.windowEntryWrite a1 a2 a3 a4) := of_none rfl

theorem idp4 (x : Args) (t : IntTy) (s : Bool) (bb : Idp4B) : Statement (.idp4 x t s bb) :=
  of_full (md := imod bb.code s t) (x := x) rfl rfl fun (hw : (!t.wide && x.ok false (dch x.d) (ch x.a) (ch x.b) (ri 0 255 x.c)) = true) => by
    simp only [Args.ok, Bool.and_eq_true] at hw
    obtain ⟨hp0, ⟨⟨⟨⟨h0, hd⟩, ha⟩, hb⟩, hc⟩⟩ := hw
    have hc : (encRaw 0x18 (imod bb.code s t) 1 x).cWRI false = some x.c := enc_cWRI 0x18 (imod bb.code s t) 1 x hc
    have h := enc_args 0x18 (imod bb.code s t) 1 x h0 (by simp)
    have ht : ((if s = true then 4 else 0) + t.code) % 4 = t.code := by have := t.code_lt; split <;> omega
    have hs : decide (4 ≤ (if s = true then 4 else 0) + t.code) = s := by have := t.code_lt; cases s <;> simp; omega
    simp [decodeFullFields, opMem, decodeG0, enc_imod_hi3 0x18 1 x bb.code bb.code_lt s t, enc_lo3_sat 0x18 1 x bb.code s t,
      enc_dC 0x18 (imod bb.code s t) 1 x hd, enc_aC 0x18 (imod bb.code s t) 1 x ha, enc_bC 0x18 (imod bb.code s t) 1 x hb, hc, h,
      ht, hs, hp0]

theorem movsw (x : Args) : Statement (.movsw x) :=
  of_full (md := 0) (x := x) rfl rfl fun (hw : (x.ok false (n x.d) (w (x.c == .imm 0x32) x.a) (n x.b) (imm 0 255 x.c)) = true) => by
    simp only [Args.ok, Bool.and_eq_true] at hw
    obtain ⟨⟨⟨⟨h0, hd⟩, ha⟩, hb⟩, hc⟩ := hw
    have ha := enc_aW 0x1F 0 1 x ha
    have h := enc_args 0x1F 0 1 x h0 (by simp)
    have hv : ((encRaw 0x1F 0 1 x).c == 0x32) = (x.c == .imm 0x32) := by
      obtain ⟨v, hv⟩ : ∃ v, x.c = .imm v := by
        cases hx : x.c <;> simp [hx, imm] at hc ⊢
      rw [enc_c_imm 0x1F 0 1 x hv, hv, Bool.eq_iff_iff]
      simp
    rw [← hv] at ha
    simp only [BitVec.ofNat_eq_ofNat] at ha
    simp [decodeFullFields, opMem, decodeG0, enc_m0 0x1F 1 x, enc_dN 0x1F 0 1 x hd, enc_bN 0x1F 0 1 x hb, enc_cI 0x1F 0 1 x hc, h, ha]

theorem fcmp (x : Args) (t : FTy) (r : Rel) : Statement (.fcmp x t r) :=
  of_full (md := fmod r.code t) (x := x) rfl rfl fun (hw : ((t == .f32 || t == .f64) && x.ok false (q x.d) (w t.wide x.a) (w t.wide x.b) (n x.c)) = true) => by
    simp only [Args.ok, Bool.and_eq_true] at hw
    obtain ⟨hp0, ⟨⟨⟨⟨h0, hd⟩, ha⟩, hb⟩, hc⟩⟩ := hw
    have hd := enc_dQ 0x26 (fmod r.code t) 1 x hd
    have ha := enc_aW 0x26 (fmod r.code t) 1 x ha
    have hb := enc_bW 0x26 (fmod r.code t) 1 x hb
    have hc := enc_cN 0x26 (fmod r.code t) 1 x hc
    have h := enc_args 0x26 (fmod r.code t) 1 x h0 (by simp)
    simp [decodeFullFields, opMem, decodeG12, enc_fmod_hi3 0x26 1 x r.code_lt t, enc_fmod_lo3 0x26 1 x r.code t, hd, ha, hb, hc, h, hp0]

theorem famax (x : Args) (t : FTy) : Statement (.famax x t) :=
  of_full (md := fmod 0 t) (x := x) rfl rfl fun (hw : (t != .f64 && x.ok false (r x.d) (ch x.a) (n x.b) (q x.c || imm 0 0 x.c)) = true) => by
    simp only [Args.ok, Bool.and_eq_true, Bool.or_eq_true] at hw
    obtain ⟨hp0, ⟨⟨⟨⟨h0, hd⟩, ha⟩, hb⟩, hc⟩⟩ := hw
    have h := enc_args 0x35 (fmod 0 t) 1 x h0 (by simp)
    obtain hc | hc := hc
    · simp [decodeFullFields, opMem, decodeG12, enc_fty0 0x35 1 x t, enc_dR 0x35 (fmod 0 t) 1 x hd, enc_aC 0x35 (fmod 0 t) 1 x ha,
        enc_bN 0x35 (fmod 0 t) 1 x hb, enc_cQ 0x35 (fmod 0 t) 1 x hc, enc_cimm_of_q 0x35 (fmod 0 t) 1 x hc, h, hp0]
    · simp [decodeFullFields, opMem, decodeG12, enc_fty0 0x35 1 x t, enc_dR 0x35 (fmod 0 t) 1 x hd, enc_aC 0x35 (fmod 0 t) 1 x ha,
        enc_bN 0x35 (fmod 0 t) 1 x hb, enc_cI 0x35 (fmod 0 t) 1 x hc, enc_cimm_of_imm 0x35 (fmod 0 t) 1 x hc, h, hp0]

/-- The two operand forms of a bit field's position and length (R127). -/
theorem bf_forms {x : Args} (h : ((ch x.b && r x.c) || (imm 0 255 x.b && imm 0 255 x.c)) = true) :
    (bfVar x = 0 ∧ ch x.b = true ∧ r x.c = true) ∨ (bfVar x = 1 ∧ imm 0 255 x.b = true ∧ imm 0 255 x.c = true) := by
  simp only [Bool.or_eq_true, Bool.and_eq_true] at h
  obtain ⟨h1, h2⟩ | ⟨h1, h2⟩ := h
  · refine .inl ⟨?_, h1, h2⟩
    cases hx : x.c <;> simp_all [bfVar, r]
  · refine .inr ⟨?_, h1, h2⟩
    cases hx : x.c <;> simp_all [bfVar, imm]

theorem bfx (x : Args) (t : IntTy) : Statement (.bfx x t) :=
  of_full (md := imod (bfVar x) false t) (x := x) rfl rfl fun (hw : (x.ok false (dw t.wide x.d) (w t.wide x.a) ((ch x.b && r x.c) || (imm 0 255 x.b && imm 0 255 x.c)) true) = true) => by
    simp only [Args.ok, Bool.and_true, Bool.and_eq_true] at hw
    obtain ⟨⟨⟨h0, hd⟩, ha⟩, hf⟩ := hw
    obtain ⟨hv, hb, hc⟩ | ⟨hv, hb, hc⟩ := bf_forms hf
    · rw [hv]
      have h := enc_args 0x15 (imod 0 false t) 1 x h0 (by simp)
      simp [decodeFullFields, opMem, decodeG0, enc_ityV 0x15 1 x 0 t, enc_imod_hi3 0x15 1 x 0 (by decide) false t,
        enc_dW 0x15 (imod 0 false t) 1 x hd, enc_aW 0x15 (imod 0 false t) 1 x ha, enc_bC 0x15 (imod 0 false t) 1 x hb,
        enc_cR 0x15 (imod 0 false t) 1 x hc, h]
    · rw [hv]
      have h := enc_args 0x15 (imod 1 false t) 1 x h0 (by simp)
      simp [decodeFullFields, opMem, decodeG0, enc_ityV 0x15 1 x 1 t, enc_imod_hi3 0x15 1 x 1 (by decide) false t,
        enc_dW 0x15 (imod 1 false t) 1 x hd, enc_aW 0x15 (imod 1 false t) 1 x ha, enc_bX 0x15 (imod 1 false t) 1 x hb,
        enc_cI 0x15 (imod 1 false t) 1 x hc, h]

theorem bfi (x : Args) (t : IntTy) : Statement (.bfi x t) :=
  of_full (md := imod (bfVar x) false t) (x := x) rfl rfl fun (hw : (!t.signed && x.ok false (wr t.wide x.d) (w t.wide x.a) ((ch x.b && r x.c) || (imm 0 255 x.b && imm 0 255 x.c)) true) = true) => by
    simp only [Args.ok, Bool.and_true, Bool.and_eq_true] at hw
    obtain ⟨hs, ⟨⟨h0, hd⟩, ha⟩, hf⟩ := hw
    obtain ⟨hv, hb, hc⟩ | ⟨hv, hb, hc⟩ := bf_forms hf
    · rw [hv]
      have h := enc_args 0x16 (imod 0 false t) 1 x h0 (by simp)
      simp [decodeFullFields, opMem, decodeG0, enc_ityV 0x16 1 x 0 t, enc_imod_hi3 0x16 1 x 0 (by decide) false t,
        enc_dWR 0x16 (imod 0 false t) 1 x hd, enc_aW 0x16 (imod 0 false t) 1 x ha, enc_bC 0x16 (imod 0 false t) 1 x hb,
        enc_cR 0x16 (imod 0 false t) 1 x hc, h, hs]
    · rw [hv]
      have h := enc_args 0x16 (imod 1 false t) 1 x h0 (by simp)
      simp [decodeFullFields, opMem, decodeG0, enc_ityV 0x16 1 x 1 t, enc_imod_hi3 0x16 1 x 1 (by decide) false t,
        enc_dWR 0x16 (imod 1 false t) 1 x hd, enc_aW 0x16 (imod 1 false t) 1 x ha, enc_bX 0x16 (imod 1 false t) 1 x hb,
        enc_cI 0x16 (imod 1 false t) 1 x hc, h, hs]

/-- A format code in C. -/
theorem imm_of {o : Opnd} {f : BitVec 8 → Bool} (h : (match o with | .imm c => f c | _ => false) = true) : ∃ v, o = .imm v ∧ f v = true := by
  cases o <;> simp_all

/-- The code of an immediate C in its bounds. -/
theorem cI_of (op md lc : Nat) (x : Args) {v : BitVec 8} {lo hi : Nat} (h : x.c = .imm v) (h1 : lo ≤ v.toNat) (h2 : v.toNat ≤ hi) :
    (encRaw op md lc x).cI lo hi = some (.imm v) := by
  rw [← h]
  exact enc_cI op md lc x (lo := lo) (hi := hi) (by simp [h, imm, h1, h2])

theorem cvt (x : Args) (m : Rnd) : Statement (.cvt x m) :=
  of_full (md := fmod m.code .f32) (x := x) rfl rfl fun (hw : (m != .sr && (match x.c with
      | .imm c => c.toNat % 16 < 8 && c.toNat / 16 < 8 &&
        x.ok false (dw ([3, 6, 7].contains (c.toNat % 16)) x.d) (w ([3, 6, 7].contains (c.toNat / 16)) x.a) (n x.b) true
      | _ => false)) = true) => by
    rw [Bool.and_eq_true] at hw
    obtain ⟨hm, hw⟩ := hw
    obtain ⟨v, hv, hw⟩ := imm_of hw
    simp only [Args.ok, Bool.and_true, Bool.and_eq_true, decide_eq_true_eq] at hw
    obtain ⟨⟨h1, h2⟩, ⟨⟨h0, hd⟩, ha⟩, hb⟩ := hw
    have hd := enc_dW 0x40 (fmod m.code .f32) 1 x hd
    have ha := enc_aW 0x40 (fmod m.code .f32) 1 x ha
    have h := enc_args 0x40 (fmod m.code .f32) 1 x h0 (by simp [Raw.longOp])
    rw [hv] at h
    have hk (k : Nat) : [3, 6, 7].contains k = (k == 3 || k == 6 || k == 7) := by
      cases h3 : k == 3 <;> cases h6 : k == 6 <;> cases h7 : k == 7 <;> simp [List.contains, List.elem, h3, h6, h7]
    rw [hk] at hd ha
    simp [decodeFullFields, opMem, decodeG12, enc_ftyRnd 0x40 1 x hm, enc_c_imm 0x40 (fmod m.code .f32) 1 x hv, h1, h2, hd, ha,
      enc_bN 0x40 (fmod m.code .f32) 1 x hb, cI_of 0x40 (fmod m.code .f32) 1 x hv (Nat.zero_le _) (by omega : v.toNat ≤ 255), h]

theorem cvtn (x : Args) (t : FTy) (m : Rnd) : Statement (.cvtn x t m) :=
  of_full (md := fmod m.code t) (x := x) rfl rfl fun (hw : (match x.c with
      | .imm c => 1 ≤ c.toNat && c.toNat ≤ 9 && !(m == .sr && c.toNat ≤ 4) &&
        x.ok (m == .sr) (dch x.d) (run (packRun (packElems c.toNat) t) x.a) (imm 0 255 x.b) true
      | _ => false) = true) => by
    obtain ⟨v, hv, hw⟩ := imm_of hw
    simp only [Args.ok, Bool.and_true, Bool.and_eq_true, decide_eq_true_eq] at hw
    obtain ⟨⟨⟨h1, h2⟩, h3⟩, ⟨⟨h0, hd⟩, ha⟩, hb⟩ := hw
    have h := enc_args 0x41 (fmod m.code t) 1 x h0 (by
      intro hm
      obtain rfl : m = .sr := by simpa using hm
      simp [Raw.longOp, enc_fmod_hi3 0x41 1 x (by decide : 4 < 8) t, Rnd.code])
    rw [hv] at h
    rw [Bool.not_and] at h3
    simp [decodeFullFields, opMem, decodeG12, enc_fmod_hi3 0x41 1 x m.code_lt t, enc_fmod_lo3 0x41 1 x m.code t,
      enc_c_imm 0x41 (fmod m.code t) 1 x hv, cI_of 0x41 (fmod m.code t) 1 x hv h1 h2, h3, enc_dC 0x41 (fmod m.code t) 1 x hd,
      enc_aRun 0x41 (fmod m.code t) 1 x ha, enc_bX 0x41 (fmod m.code t) 1 x hb, h]

theorem cvtw (x : Args) (t : FTy) : Statement (.cvtw x t) :=
  of_full (md := fmod 0 t) (x := x) rfl rfl fun (hw : (match x.c with
      | .imm c => 1 ≤ c.toNat && c.toNat ≤ 9 && !(t == .f16x2 && c == 9) && !(t == .bf16x2 && c == 8) &&
        x.ok false (run (packRun (packElems c.toNat) t) x.d) (ch x.a) (n x.b) true
      | _ => false) = true) => by
    obtain ⟨v, hv, hw⟩ := imm_of hw
    simp only [Args.ok, Bool.and_true, Bool.and_eq_true, decide_eq_true_eq] at hw
    obtain ⟨⟨⟨⟨h1, h2⟩, h3⟩, h4⟩, ⟨⟨h0, hd⟩, ha⟩, hb⟩ := hw
    have h := enc_args 0x42 (fmod 0 t) 1 x h0 (by simp [Raw.longOp])
    rw [hv] at h
    rw [Bool.not_and] at h3 h4
    simp only [BitVec.ofNat_eq_ofNat] at h3 h4
    simp [decodeFullFields, opMem, decodeG12, enc_fty0 0x42 1 x t, enc_c_imm 0x42 (fmod 0 t) 1 x hv,
      cI_of 0x42 (fmod 0 t) 1 x hv h1 h2, h3, h4, enc_dRun 0x42 (fmod 0 t) 1 x hd, enc_aC 0x42 (fmod 0 t) 1 x ha,
      enc_bN 0x42 (fmod 0 t) 1 x hb, h]

theorem qnt (x : Args) (t : FTy) (m : Rnd) : Statement (.qnt x t m) :=
  of_full (md := fmod m.code t) (x := x) rfl rfl fun (hw : (m != .sr && t != .f64 && (match x.c with
      | .imm c => 1 ≤ c.toNat && c.toNat ≤ 4 && x.ok false (dch x.d) (run (packRun (packElems c.toNat) t) x.a) (r x.b) true
      | _ => false)) = true) => by
    rw [Bool.and_eq_true, Bool.and_eq_true] at hw
    obtain ⟨⟨hm, ht⟩, hw⟩ := hw
    obtain ⟨v, hv, hw⟩ := imm_of hw
    simp only [Args.ok, Bool.and_true, Bool.and_eq_true, decide_eq_true_eq] at hw
    obtain ⟨⟨h1, h2⟩, ⟨⟨h0, hd⟩, ha⟩, hb⟩ := hw
    have h := enc_args 0x43 (fmod m.code t) 1 x h0 (by simp [Raw.longOp])
    rw [hv] at h
    simp [decodeFullFields, opMem, decodeG12, enc_ftyRnd 0x43 1 x hm t, ht, enc_c_imm 0x43 (fmod m.code t) 1 x hv,
      cI_of 0x43 (fmod m.code t) 1 x hv h1 h2, enc_dC 0x43 (fmod m.code t) 1 x hd, enc_aRun 0x43 (fmod m.code t) 1 x ha,
      enc_bR 0x43 (fmod m.code t) 1 x hb, h]

theorem dqnt (x : Args) (t : FTy) (m : Rnd) : Statement (.dqnt x t m) :=
  of_full (md := fmod m.code t) (x := x) rfl rfl fun (hw : (m != .sr && t != .f64 && (match x.c with
      | .imm c => 1 ≤ c.toNat && c.toNat ≤ 4 && x.ok false (run (packRun (packElems c.toNat) t) x.d) (ch x.a) (r x.b) true
      | _ => false)) = true) => by
    rw [Bool.and_eq_true, Bool.and_eq_true] at hw
    obtain ⟨⟨hm, ht⟩, hw⟩ := hw
    obtain ⟨v, hv, hw⟩ := imm_of hw
    simp only [Args.ok, Bool.and_true, Bool.and_eq_true, decide_eq_true_eq] at hw
    obtain ⟨⟨h1, h2⟩, ⟨⟨h0, hd⟩, ha⟩, hb⟩ := hw
    have h := enc_args 0x44 (fmod m.code t) 1 x h0 (by simp [Raw.longOp])
    rw [hv] at h
    simp [decodeFullFields, opMem, decodeG12, enc_ftyRnd 0x44 1 x hm t, ht, enc_c_imm 0x44 (fmod m.code t) 1 x hv,
      cI_of 0x44 (fmod m.code t) 1 x hv h1 h2, enc_dRun 0x44 (fmod m.code t) 1 x hd, enc_aC 0x44 (fmod m.code t) 1 x ha,
      enc_bR 0x44 (fmod m.code t) 1 x hb, h]

/-- The parts of a record whose operand fields are all zero. -/
theorem zzzz_parts {x : Args} (h : x.zzzz = true) : x.headOk false = true ∧ x.d = .none ∧ x.a = .none ∧ x.b = .none ∧ x.c = .none := by
  simp only [Args.zzzz, Args.ok, Bool.and_eq_true] at h
  obtain ⟨⟨⟨⟨h0, hd⟩, ha⟩, hb⟩, hc⟩ := h
  refine ⟨h0, ?_, ?_, ?_, ?_⟩
  · cases hx : x.d <;> simp_all [n]
  · cases hx : x.a <;> simp_all [n]
  · cases hx : x.b <;> simp_all [n]
  · cases hx : x.c <;> simp_all [n]

/-- Fields laid over A, B and D. -/
def lay (r : Raw) (d a b : BitVec 8) : Raw :=
  ⟨r.md, r.la, r.cimm, r.c, r.bpop, r.bch, b, r.apop, r.ach, a, r.dch, d, r.gneg, r.grd, r.op, r.lc⟩

/-- What a record with fields laid over A, B and D reads back as (R143, R147). -/
theorem lay_fields (op : Nat) (x : Args) (h : x.zzzz = true) (d a b : BitVec 8) :
    branchOff (lay (encRaw op 0 1 x) d a b) = some (b ++ a ++ d) ∧ (lay (encRaw op 0 1 x) d a b).m0 = some () ∧
      (lay (encRaw op 0 1 x) d a b).cN = some .none ∧
      (lay (encRaw op 0 1 x) d a b).args .none .none .none .none = some x ∧
      (lay (encRaw op 0 1 x) 0 a b).dN = some .none ∧
      (lay (encRaw op 0 1 x) d a b).ach = false ∧ (lay (encRaw op 0 1 x) d a b).apop = false ∧
      (lay (encRaw op 0 1 x) d a b).bch = false ∧ (lay (encRaw op 0 1 x) d a b).bpop = false := by
  obtain ⟨h0, hd, ha, hb, hc⟩ := zzzz_parts h
  obtain ⟨g, la, xd, xa, xb, xc⟩ := x
  simp only at hd ha hb hc
  subst hd ha hb hc
  simp only [Args.headOk, Bool.and_eq_true, Bool.or_eq_true, decide_eq_true_eq, beq_iff_eq, Bool.not_eq_true'] at h0
  obtain ⟨hg, h2⟩ := h0
  have hla : la = 0 := by
    obtain ((h | h) | h) | h := h2
    · exact h
    all_goals simp at h
  refine ⟨rfl, by simp [Raw.m0, lay], rfl, ?_, rfl, rfl, rfl, rfl, rfl⟩
  have : (lay (encRaw op 0 1 ⟨g, la, .none, .none, .none, .none⟩) d a b).head = some (g, la) := by
    simp only [Raw.head]
    rw [if_pos]
    · rfl
    · exact ⟨hg, .inl hla⟩
  simp only [Raw.args, this]

/-- A record's parcels decode by its fields. -/
theorem of_fields {i : Instr} {r : Raw} (he : encode i = some r.parcels) (hl : r.lc = 1) (ha : opAssigned r.op.toNat = true)
    (h : i.wf = true → decodeFullFields r = some i) : Statement i := by
  intro ws hw h'
  rw [he] at h'
  cases h'
  have hp : parcelsOf (r.toBits.extractLsb' 0 32) = 2 := by
    rw [parcelsOf, parcel_lc, hl]; rfl
  simp only [decodeWords, Raw.parcels, decode, hp, rawOf_parcels, ha, h hw, if_true]

theorem off_parts (o : BitVec 24) : o.extractLsb' 16 8 ++ o.extractLsb' 8 8 ++ o.extractLsb' 0 8 = o := by
  rw [← BitVec.toNat_inj]
  simp only [BitVec.toNat_append, BitVec.extractLsb'_toNat, Nat.shiftRight_eq_div_pow]
  rw [← Nat.shiftLeft_add_eq_or_of_lt (by omega), ← Nat.shiftLeft_add_eq_or_of_lt (by omega)]
  simp only [Nat.shiftLeft_eq]
  omega

theorem bra (x : Args) (o : BitVec 24) : Statement (.bra x o) :=
  of_fields (r := lay (encRaw 0x60 0 1 x) (o.extractLsb' 0 8) (o.extractLsb' 8 8) (o.extractLsb' 16 8)) rfl (by simp [lay])
    (by simp [lay]; rfl) fun (hw : x.zzzz = true) => by
      obtain ⟨h1, h2, h3, h4, -⟩ := lay_fields 0x60 x hw (o.extractLsb' 0 8) (o.extractLsb' 8 8) (o.extractLsb' 16 8)
      have hop : (lay (encRaw 0x60 0 1 x) (o.extractLsb' 0 8) (o.extractLsb' 8 8) (o.extractLsb' 16 8)).op = 0x60 := by simp [lay]
      rw [off_parts] at h1
      simp [decodeFullFields, opMem, decodeG3, hop, h1, h2, h3, h4]

theorem call (x : Args) (o : BitVec 24) : Statement (.call x o) :=
  of_fields (r := lay (encRaw 0x62 0 1 x) (o.extractLsb' 0 8) (o.extractLsb' 8 8) (o.extractLsb' 16 8)) rfl (by simp [lay])
    (by simp [lay]; rfl) fun (hw : x.zzzz = true) => by
      obtain ⟨h1, h2, h3, h4, -⟩ := lay_fields 0x62 x hw (o.extractLsb' 0 8) (o.extractLsb' 8 8) (o.extractLsb' 16 8)
      have hop : (lay (encRaw 0x62 0 1 x) (o.extractLsb' 0 8) (o.extractLsb' 8 8) (o.extractLsb' 16 8)).op = 0x62 := by simp [lay]
      rw [off_parts] at h1
      simp [decodeFullFields, opMem, decodeG3, hop, h1, h2, h3, h4]

theorem id_parts (o : BitVec 16) : o.extractLsb' 8 8 ++ o.extractLsb' 0 8 = o := by
  rw [← BitVec.toNat_inj]
  simp only [BitVec.toNat_append, BitVec.extractLsb'_toNat, Nat.shiftRight_eq_div_pow]
  rw [← Nat.shiftLeft_add_eq_or_of_lt (by omega)]
  simp only [Nat.shiftLeft_eq]
  omega

theorem mark (x : Args) (id : BitVec 16) : Statement (.mark x id) := by
  intro ws hw
  have hl := lay_fields 0x72 x hw 0 (id.extractLsb' 0 8) (id.extractLsb' 8 8)
  have he : encode (.mark x id) = some (lay (encRaw 0x72 0 1 x) 0 (id.extractLsb' 0 8) (id.extractLsb' 8 8)).parcels := by
    clear hl
    obtain ⟨-, hd, ha, hb, hc⟩ := zzzz_parts hw
    obtain ⟨g, la, xd, xa, xb, xc⟩ := x
    simp only at hd ha hb hc
    subst hd ha hb hc
    rfl
  have hop : (lay (encRaw 0x72 0 1 x) 0 (id.extractLsb' 0 8) (id.extractLsb' 8 8)).op = 0x72 := by simp [lay]
  have hlc : (lay (encRaw 0x72 0 1 x) 0 (id.extractLsb' 0 8) (id.extractLsb' 8 8)).lc = 1 := by simp [lay]
  have hb : (lay (encRaw 0x72 0 1 x) 0 (id.extractLsb' 0 8) (id.extractLsb' 8 8)).b ++
      (lay (encRaw 0x72 0 1 x) 0 (id.extractLsb' 0 8) (id.extractLsb' 8 8)).a = id := id_parts id
  revert hl he hop hlc hb
  generalize lay (encRaw 0x72 0 1 x) 0 (id.extractLsb' 0 8) (id.extractLsb' 8 8) = r
  rintro ⟨-, h2, h3, h4, h5, h6, h7, h8, h9⟩ he hop hlc hb
  refine of_fields he hlc (by simp [hop]; rfl) (fun _ => ?_) ws hw
  simp [decodeFullFields, decodeG3, hop, opMem, h2, h3, h4, h5, h6, h7, h8, h9, hb]

theorem yield (x : Args) : Statement (.yield x) :=
  of_full (md := 0) (x := x) rfl rfl fun (hw : (x.zzzz) = true) => by
    have h := enc_zzzz 0x66 0 1 x hw
    have h1 : (encRaw 0x66 0 1 x).try? = some false := enc_try 0x66 1 x false
    simp [decodeFullFields, opMem, decodeG3, h1, h]

theorem yieldRole (x : Args) : Statement (.yieldRole x) :=
  of_full (md := 8) (x := x) rfl rfl fun (hw : (x.zzzz) = true) => by
    have h := enc_zzzz 0x66 8 1 x hw
    have h1 : (encRaw 0x66 8 1 x).try? = some true := enc_try 0x66 1 x true
    simp [decodeFullFields, opMem, decodeG3, h1, h]

theorem pmov (x : Args) : Statement (.pmov x) :=
  of_full (md := pmovVar x * 8) (x := x) rfl rfl fun (hw : (x.ok false (dch x.d) (n x.a) (n x.b) (n x.c) || x.ok false (n x.d) (ch x.a) (ch x.b) (n x.c)) = true) => by
    simp only [Args.ok, Bool.or_eq_true, Bool.and_eq_true] at hw
    obtain ⟨⟨⟨⟨h0, hd⟩, ha⟩, hb⟩, hc⟩ | ⟨⟨⟨⟨h0, hd⟩, ha⟩, hb⟩, hc⟩ := hw
    · have hv : pmovVar x = 0 := by cases hx : x.d <;> simp_all [pmovVar, dch]
      rw [hv]
      have h := enc_args 0x69 (0 * 8) 1 x h0 (by simp)
      simp only [Nat.zero_mul] at h ⊢
      simp [decodeFullFields, opMem, decodeG3, encRaw_lo3 0x69 0 1 x, encRaw_hi3 0x69 0 1 x, enc_dC 0x69 0 1 x hd,
        enc_aN 0x69 0 1 x ha, enc_bN 0x69 0 1 x hb, enc_cN 0x69 0 1 x hc, h]
    · have hv : pmovVar x = 1 := by cases hx : x.d <;> simp_all [pmovVar, n]
      rw [hv]
      have h := enc_args 0x69 (1 * 8) 1 x h0 (by simp)
      simp only [Nat.one_mul] at h ⊢
      simp [decodeFullFields, opMem, decodeG3, encRaw_lo3 0x69 8 1 x, encRaw_hi3 0x69 8 1 x, enc_dN 0x69 8 1 x hd,
        enc_aC 0x69 8 1 x ha, enc_bC 0x69 8 1 x hb, enc_cN 0x69 8 1 x hc, h]

theorem vote (x : Args) (k : VoteKind) : Statement (.vote x k) :=
  of_full (md := k.code * 8) (x := x) rfl rfl fun (hw : (x.headOk false && (if k == .ballot then dch x.d else q x.d) && q x.a && s false x.b x.c) = true) => by
    simp only [Bool.and_eq_true] at hw
    obtain ⟨⟨⟨h0, hd⟩, ha⟩, hs⟩ := hw
    have ha := enc_aQ 0x6A (k.code * 8) 1 x ha
    have hs := enc_s 0x6A (k.code * 8) 1 x hs
    have h := enc_args 0x6A (k.code * 8) 1 x h0 (by simp)
    cases k with
    | ballot =>
      have hd := enc_dC 0x6A (VoteKind.ballot.code * 8) 1 x hd
      simp [decodeFullFields, opMem, decodeG3, enc_hi3' 0x6A 1 x (VoteKind.code_lt _), enc_lo3' 0x6A 1 x, hd, ha, hs, h]
    | any =>
      have hd := enc_dQ 0x6A (VoteKind.any.code * 8) 1 x hd
      simp [decodeFullFields, opMem, decodeG3, enc_hi3' 0x6A 1 x (VoteKind.code_lt _), enc_lo3' 0x6A 1 x, hd, ha, hs, h]
    | all =>
      have hd := enc_dQ 0x6A (VoteKind.all.code * 8) 1 x hd
      simp [decodeFullFields, opMem, decodeG3, enc_hi3' 0x6A 1 x (VoteKind.code_lt _), enc_lo3' 0x6A 1 x, hd, ha, hs, h]

/-- The operation codes of REDUX and SCAN against a type (R155). -/
theorem red_need {o : RedOp} {t : RedTy} (h : (match t with | .int _ => true | .flt _ => !o.bitwise) = true) :
    (!(o.bitwise && decide (4 ≤ t.code))) = true := by
  cases t with
  | int t => cases t <;> cases o.bitwise <;> rfl
  | flt t => simp_all

theorem redux (x : Args) (o : RedOp) (t : RedTy) : Statement (.redux x o t) :=
  of_full (md := o.code * 8 + t.code) (x := x) rfl rfl fun (hw : ((match t with | .int _ => true | .flt _ => !o.bitwise) && x.das t.wide false) = true) => by
    rw [Bool.and_eq_true] at hw
    have h := enc_das 0x6C (o.code * 8 + t.code) 1 x hw.2
    have hn := red_need hw.1
    rw [Bool.not_and] at hn
    simp [decodeFullFields, opMem, decodeG3, enc_hi3 0x6C 1 x o.code_lt t.code_lt, enc_lo3 0x6C 1 x (a := o.code) t.code_lt, hn, h]

theorem scan (x : Args) (o : RedOp) (t : RedTy) : Statement (.scan x o t) :=
  of_full (md := o.code * 8 + t.code) (x := x) rfl rfl fun (hw : ((match t with | .int _ => true | .flt _ => !o.bitwise) && x.das t.wide false) = true) => by
    rw [Bool.and_eq_true] at hw
    have h := enc_das 0x6D (o.code * 8 + t.code) 1 x hw.2
    have hn := red_need hw.1
    rw [Bool.not_and] at hn
    simp [decodeFullFields, opMem, decodeG3, enc_hi3 0x6D 1 x o.code_lt t.code_lt, enc_lo3 0x6D 1 x (a := o.code) t.code_lt, hn, h]

theorem atomcas (x : Args) (w : Bool) (sc : Scope) : Statement (.atomcas x w sc) :=
  of_full (md := (if w then 8 else 0) + sc.code) (x := x) rfl rfl fun (hw : (memOk x true false (wr w x.d) .g (run (if w then 4 else 2) x.c)) = true) => by
    simp only [memOk, Args.ok, Bool.and_eq_true] at hw
    obtain ⟨⟨⟨⟨h0, hd⟩, ha⟩, hb⟩, hc⟩ := hw
    have hl := sc.code_lt
    cases w with
    | false =>
      have h := enc_args 0x85 (0 * 8 + sc.code) 1 x h0 (by simp [Raw.longOp])
      have h1 := enc_hi3 0x85 1 x (a := 0) (by decide) hl
      have h2 := enc_lo3 0x85 1 x (a := 0) hl
      have hd := enc_dWR 0x85 (0 * 8 + sc.code) 1 x hd
      have ha := enc_aP 0x85 (0 * 8 + sc.code) 1 x ha
      have hb := enc_memB 0x85 (0 * 8 + sc.code) 1 x (lit := false) hb
      have hc := enc_cRun 0x85 (0 * 8 + sc.code) 1 x hc
      simp only [Nat.zero_mul, Nat.zero_add, Bool.false_eq_true, if_false] at *
      simp [decodeFullFields, opMem, decodeMem, h1, h2, hd, ha, hb, hc, h]
    | true =>
      have h := enc_args 0x85 (1 * 8 + sc.code) 1 x h0 (by simp [Raw.longOp])
      have h1 := enc_hi3 0x85 1 x (a := 1) (by decide) hl
      have h2 := enc_lo3 0x85 1 x (a := 1) hl
      have hd := enc_dWR 0x85 (1 * 8 + sc.code) 1 x hd
      have ha := enc_aP 0x85 (1 * 8 + sc.code) 1 x ha
      have hb := enc_memB 0x85 (1 * 8 + sc.code) 1 x (lit := false) hb
      have hc := enc_cRun 0x85 (1 * 8 + sc.code) 1 x hc
      simp only [Nat.one_mul, if_true] at *
      simp [decodeFullFields, opMem, decodeMem, h1, h2, hd, ha, hb, hc, h]

theorem waita (x : Args) (ge : Bool) (sp : Space) : Statement (.waita x ge sp) :=
  of_full (md := (if ge then 8 else 0) + sp.code) (x := x) rfl rfl fun (hw : (sp != .pv && memOk x false false (r x.d) sp (r x.c)) = true) => by
    simp only [memOk, Args.ok, Bool.and_eq_true] at hw
    obtain ⟨hp, ⟨⟨⟨⟨h0, hd⟩, ha⟩, hb⟩, hc⟩⟩ := hw
    have hl : sp.code < 8 := Nat.lt_of_lt_of_le sp.code_lt (by decide)
    cases ge with
    | false =>
      have h := enc_args 0x8E (0 * 8 + sp.code) 1 x h0 (by simp)
      have h1 := enc_hi3 0x8E 1 x (a := 0) (by decide) hl
      have h2 := enc_spaceOf 0x8E 1 x 0 sp
      have hd := enc_dR 0x8E (0 * 8 + sp.code) 1 x hd
      have ha := enc_memA 0x8E (0 * 8 + sp.code) 1 x (sp := sp) ha
      have hb := enc_memB 0x8E (0 * 8 + sp.code) 1 x (lit := false) hb
      have hc := enc_cR 0x8E (0 * 8 + sp.code) 1 x hc
      simp only [Nat.zero_mul, Nat.zero_add, Bool.false_eq_true, if_false] at *
      simp [decodeFullFields, opMem, decodeMem, h1, h2, hd, ha, hb, hc, h, hp]
    | true =>
      have h := enc_args 0x8E (1 * 8 + sp.code) 1 x h0 (by simp)
      have h1 := enc_hi3 0x8E 1 x (a := 1) (by decide) hl
      have h2 := enc_spaceOf 0x8E 1 x 1 sp
      have hd := enc_dR 0x8E (1 * 8 + sp.code) 1 x hd
      have ha := enc_memA 0x8E (1 * 8 + sp.code) 1 x (sp := sp) ha
      have hb := enc_memB 0x8E (1 * 8 + sp.code) 1 x (lit := false) hb
      have hc := enc_cR 0x8E (1 * 8 + sp.code) 1 x hc
      simp only [Nat.one_mul, if_true] at *
      simp [decodeFullFields, opMem, decodeMem, h1, h2, hd, ha, hb, hc, h, hp]

theorem push (x : Args) (t : Bool) : Statement (.push x t) :=
  of_full (md := (if t then 8 else 0)) (x := x) rfl rfl fun (hw : (x.ok false (if t then q x.d else n x.d) (ch x.a) (n x.b) (run 0 x.c)) = true) => by
    simp only [Args.ok, Bool.and_eq_true] at hw
    obtain ⟨⟨⟨⟨h0, hd⟩, ha⟩, hb⟩, hc⟩ := hw
    cases t with
    | false =>
      have h := enc_args 0x91 0 1 x h0 (by simp)
      have ht : (encRaw 0x91 0 1 x).try? = some false := enc_try 0x91 1 x false
      simp [decodeFullFields, opMem, decodeG45, ht, enc_dN 0x91 0 1 x hd, enc_aC 0x91 0 1 x ha, enc_bN 0x91 0 1 x hb, enc_cRun 0x91 0 1 x hc, h]
    | true =>
      have h := enc_args 0x91 8 1 x h0 (by simp)
      have ht : (encRaw 0x91 8 1 x).try? = some true := enc_try 0x91 1 x true
      simp [decodeFullFields, opMem, decodeG45, ht, enc_dQ 0x91 8 1 x hd, enc_aC 0x91 8 1 x ha, enc_bN 0x91 8 1 x hb, enc_cRun 0x91 8 1 x hc, h]

theorem pop (x : Args) (t : Bool) : Statement (.pop x t) :=
  of_full (md := (if t then 8 else 0)) (x := x) rfl rfl fun (hw : (x.ok true (run 0 x.d) (ch x.a) (n x.b) (if t then q x.c else n x.c)) = true) => by
    simp only [Args.ok, Bool.and_eq_true] at hw
    obtain ⟨⟨⟨⟨h0, hd⟩, ha⟩, hb⟩, hc⟩ := hw
    cases t with
    | false =>
      have h := enc_args 0x92 0 1 x h0 (by simp [Raw.longOp])
      have ht : (encRaw 0x92 0 1 x).try? = some false := enc_try 0x92 1 x false
      simp [decodeFullFields, opMem, decodeG45, ht, enc_dRun 0x92 0 1 x hd, enc_aC 0x92 0 1 x ha, enc_bN 0x92 0 1 x hb, enc_cN 0x92 0 1 x hc, h]
    | true =>
      have h := enc_args 0x92 8 1 x h0 (by simp [Raw.longOp])
      have ht : (encRaw 0x92 8 1 x).try? = some true := enc_try 0x92 1 x true
      simp [decodeFullFields, opMem, decodeG45, ht, enc_dRun 0x92 8 1 x hd, enc_aC 0x92 8 1 x ha, enc_bN 0x92 8 1 x hb, enc_cQ 0x92 8 1 x hc, h]

theorem mbxpop (x : Args) (t : Bool) : Statement (.mbxpop x t) :=
  of_full (md := (if t then 8 else 0)) (x := x) rfl rfl fun (hw : (x.ok false (run 8 x.d) (n x.a) (n x.b) (if t then q x.c else n x.c)) = true) => by
    simp only [Args.ok, Bool.and_eq_true] at hw
    obtain ⟨⟨⟨⟨h0, hd⟩, ha⟩, hb⟩, hc⟩ := hw
    cases t with
    | false =>
      have h := enc_args 0xCB 0 1 x h0 (by simp)
      have ht : (encRaw 0xCB 0 1 x).try? = some false := enc_try 0xCB 1 x false
      simp [decodeFullFields, opMem, decodeG6, ht, enc_dRun 0xCB 0 1 x hd, enc_aN 0xCB 0 1 x ha, enc_bN 0xCB 0 1 x hb, enc_cN 0xCB 0 1 x hc, h]
    | true =>
      have h := enc_args 0xCB 8 1 x h0 (by simp)
      have ht : (encRaw 0xCB 8 1 x).try? = some true := enc_try 0xCB 1 x true
      simp [decodeFullFields, opMem, decodeG6, ht, enc_dRun 0xCB 8 1 x hd, enc_aN 0xCB 8 1 x ha, enc_bN 0xCB 8 1 x hb, enc_cQ 0xCB 8 1 x hc, h]

theorem chset (x : Args) : Statement (.chset x) :=
  of_full (md := 0) (x := x) rfl rfl fun (hw : (x.ok false (n x.d) (match x.c with
      | .imm c => if c.toNat / 16 = 1 ∨ c.toNat / 16 = 2 then r x.a else n x.a
      | _ => false) (n x.b) (imm 0 63 x.c)) = true) => by
    simp only [Args.ok, Bool.and_eq_true] at hw
    obtain ⟨⟨⟨⟨h0, hd⟩, ha⟩, hb⟩, hc⟩ := hw
    obtain ⟨v, hv, ha⟩ := imm_of ha
    have h := enc_args 0xA6 0 1 x h0 (by simp [Raw.longOp])
    have hc := enc_cI 0xA6 0 1 x hc
    have hk := enc_c_imm 0xA6 0 1 x hv
    by_cases hq : v.toNat / 16 = 1 ∨ v.toNat / 16 = 2
    · rw [if_pos hq] at ha
      simp [decodeFullFields, opMem, decodeG45, enc_m0 0xA6 1 x, enc_dN 0xA6 0 1 x hd, enc_bN 0xA6 0 1 x hb, hc, hk, hq,
        enc_aR 0xA6 0 1 x ha, h]
    · rw [if_neg hq] at ha
      simp [decodeFullFields, opMem, decodeG45, enc_m0 0xA6 1 x, enc_dN 0xA6 0 1 x hd, enc_bN 0xA6 0 1 x hb, hc, hk, hq,
        enc_aN 0xA6 0 1 x ha, h]

theorem drawk (x : Args) (k : DrawKind) : Statement (.drawk x k) :=
  of_full (md := k.code * 8) (x := x) rfl rfl fun (hw : (x.ok true (wr (k == .u64) x.d) (p x.a) (imm 0 7 x.b) (ri 0 255 x.c)) = true) => by
    simp only [Args.ok, Bool.and_eq_true] at hw
    obtain ⟨⟨⟨⟨h0, hd⟩, ha⟩, hb⟩, hc⟩ := hw
    obtain ⟨v, hv, hb7⟩ := imm_of (f := fun v => decide (0 ≤ v.toNat) && decide (v.toNat ≤ 7)) hb
    simp at hb7
    have h7 : v.toNat < 8 := by omega
    have hd := enc_dWR 0xE1 (k.code * 8) 1 x hd
    have hb := enc_bX 0xE1 (k.code * 8) 1 x hb
    have h := enc_args 0xE1 (k.code * 8) 1 x h0 (by simp [Raw.longOp])
    simp [decodeFullFields, opMem, decodeG7, enc_hi3' 0xE1 1 x k.code_lt, enc_lo3' 0xE1 1 x, enc_b_imm 0xE1 (k.code * 8) 1 x hv, h7,
      hd, enc_aP 0xE1 (k.code * 8) 1 x ha, hb, enc_cRI 0xE1 (k.code * 8) 1 x hc, h]

/-- An immediate C between bounds, in wider bounds. -/
theorem imm_at {o : Opnd} {lo hi : Nat} (h : imm lo hi o = true) : ∃ v, o = .imm v ∧ lo ≤ v.toNat ∧ v.toNat ≤ hi := by
  cases o <;> simp_all [imm]

theorem replay (x : Args) : Statement (.replay x) :=
  of_full (md := 0) (x := x) rfl rfl fun (hw : (x.ok false (n x.d) (p x.a) (r x.b) (imm 0 0 x.c || imm 2 2 x.c) ||
    x.ok false (n x.d) (r x.a) (n x.b) (imm 1 1 x.c || imm 3 3 x.c)) = true) => by
    simp only [Args.ok, Bool.or_eq_true, Bool.and_eq_true] at hw
    obtain ⟨⟨⟨⟨h0, hd⟩, ha⟩, hb⟩, hc⟩ | ⟨⟨⟨⟨h0, hd⟩, ha⟩, hb⟩, hc⟩ := hw
    · obtain ⟨v, hv, h1, h2⟩ : ∃ v, x.c = .imm v ∧ v.toNat ≤ 3 ∧ v.toNat % 2 = 0 := by
        obtain hc | hc := hc
        · obtain ⟨v, hv, h1, h2⟩ := imm_at hc; exact ⟨v, hv, by omega, by omega⟩
        · obtain ⟨v, hv, h1, h2⟩ := imm_at hc; exact ⟨v, hv, by omega, by omega⟩
      have h := enc_args 0xEA 0 1 x h0 (by simp)
      rw [hv] at h
      simp [decodeFullFields, opMem, decodeG7, enc_m0 0xEA 1 x, enc_dN 0xEA 0 1 x hd, enc_aP 0xEA 0 1 x ha, enc_bR 0xEA 0 1 x hb,
        cI_of 0xEA 0 1 x hv (Nat.zero_le _) h1, enc_c_imm 0xEA 0 1 x hv, h2, h]
    · obtain ⟨v, hv, h1, h2⟩ : ∃ v, x.c = .imm v ∧ v.toNat ≤ 3 ∧ v.toNat % 2 = 1 := by
        obtain hc | hc := hc
        · obtain ⟨v, hv, h1, h2⟩ := imm_at hc; exact ⟨v, hv, by omega, by omega⟩
        · obtain ⟨v, hv, h1, h2⟩ := imm_at hc; exact ⟨v, hv, by omega, by omega⟩
      have h := enc_args 0xEA 0 1 x h0 (by simp)
      rw [hv] at h
      simp [decodeFullFields, opMem, decodeG7, enc_m0 0xEA 1 x, enc_dN 0xEA 0 1 x hd, enc_aR 0xEA 0 1 x ha, enc_bN 0xEA 0 1 x hb,
        cI_of 0xEA 0 1 x hv (Nat.zero_le _) h1, enc_c_imm 0xEA 0 1 x hv, h2, h]

theorem tlbinv (x : Args) : Statement (.tlbinv x) :=
  of_full (md := 0) (x := x) rfl rfl fun (hw : (x.ok false (n x.d) (p x.a) (r x.b) (imm 0 0 x.c) || x.ok false (n x.d) (n x.a) (r x.b) (imm 1 1 x.c) ||
    x.ok false (n x.d) (n x.a) (n x.b) (imm 2 2 x.c)) = true) => by
    simp only [Args.ok, Bool.or_eq_true, Bool.and_eq_true] at hw
    obtain (⟨⟨⟨⟨h0, hd⟩, ha⟩, hb⟩, hc⟩ | ⟨⟨⟨⟨h0, hd⟩, ha⟩, hb⟩, hc⟩) | ⟨⟨⟨⟨h0, hd⟩, ha⟩, hb⟩, hc⟩ := hw
    · obtain ⟨v, hv, h1, h2⟩ := imm_at hc
      obtain rfl : v = 0 := BitVec.eq_of_toNat_eq (by simp; omega)
      have h := enc_args 0xEB 0 1 x h0 (by simp)
      rw [hv] at h
      simp only [BitVec.ofNat_eq_ofNat] at h
      simp [decodeFullFields, opMem, decodeG7, enc_m0 0xEB 1 x, enc_dN 0xEB 0 1 x hd, enc_aP 0xEB 0 1 x ha, enc_bR 0xEB 0 1 x hb,
        cI_of 0xEB 0 1 x hv (Nat.zero_le _) (by decide : _ ≤ 2), enc_c_imm 0xEB 0 1 x hv, h]
    · obtain ⟨v, hv, h1, h2⟩ := imm_at hc
      obtain rfl : v = 1 := BitVec.eq_of_toNat_eq (by simp; omega)
      have h := enc_args 0xEB 0 1 x h0 (by simp)
      rw [hv] at h
      simp only [BitVec.ofNat_eq_ofNat] at h
      simp [decodeFullFields, opMem, decodeG7, enc_m0 0xEB 1 x, enc_dN 0xEB 0 1 x hd, enc_aN 0xEB 0 1 x ha, enc_bR 0xEB 0 1 x hb,
        cI_of 0xEB 0 1 x hv (Nat.zero_le _) (by decide : _ ≤ 2), enc_c_imm 0xEB 0 1 x hv, h]
    · obtain ⟨v, hv, h1, h2⟩ := imm_at hc
      obtain rfl : v = 2 := BitVec.eq_of_toNat_eq (by simp; omega)
      have h := enc_args 0xEB 0 1 x h0 (by simp)
      rw [hv] at h
      simp only [BitVec.ofNat_eq_ofNat] at h
      simp [decodeFullFields, opMem, decodeG7, enc_m0 0xEB 1 x, enc_dN 0xEB 0 1 x hd, enc_aN 0xEB 0 1 x ha, enc_bN 0xEB 0 1 x hb,
        cI_of 0xEB 0 1 x hv (Nat.zero_le _) (by decide : _ ≤ 2), enc_c_imm 0xEB 0 1 x hv, h]

theorem lit_parts (o : BitVec 15) : o.extractLsb' 7 8 ++ o.extractLsb' 0 7 = o := by
  rw [← BitVec.toNat_inj]
  simp only [BitVec.toNat_append, BitVec.extractLsb'_toNat, Nat.shiftRight_eq_div_pow]
  rw [← Nat.shiftLeft_add_eq_or_of_lt (by omega)]
  simp only [Nat.shiftLeft_eq]
  omega

theorem coff_parts (o : BitVec 23) : o.extractLsb' 15 8 ++ o.extractLsb' 7 8 ++ o.extractLsb' 0 7 = o := by
  rw [← BitVec.toNat_inj]
  simp only [BitVec.toNat_append, BitVec.extractLsb'_toNat, Nat.shiftRight_eq_div_pow]
  rw [← Nat.shiftLeft_add_eq_or_of_lt (by omega), ← Nat.shiftLeft_add_eq_or_of_lt (by omega)]
  simp only [Nat.shiftLeft_eq]
  omega

/-- The fields of a compact parcel come back (R99). -/
theorem compact_fields (cop : Nat) (p : Bool) (d s : BitVec 8) (i : BitVec 7) :
    let v : Word := i ++ s ++ d ++ BitVec.ofNat 6 cop ++ BitVec.ofBool p ++ (0 : BitVec 2)
    v.extractLsb' 25 7 = i ∧ v.extractLsb' 17 8 = s ∧ v.extractLsb' 9 8 = d ∧ v.extractLsb' 3 6 = BitVec.ofNat 6 cop ∧
      bitAt v 2 = p ∧ v.extractLsb' 0 2 = 0 := by
  refine ⟨?_, ?_, ?_, ?_, ?_, ?_⟩
  all_goals first
    | (apply BitVec.eq_of_getLsbD_eq
       intro k hk
       simp (disch := omega) only [BitVec.getLsbD_extractLsb', BitVec.getLsbD_append, hk, decide_true, Bool.true_and, if_neg, if_pos]
       congr 1
       omega)
    | (simp only [bitAt]
       simp (disch := omega) only [BitVec.getLsbD_append, BitVec.getLsbD_ofBool, if_neg, if_pos]
       simp)

/-- A compact parcel decodes by its fields. -/
theorem of_compact {i : Instr} {cop : Nat} {p : Bool} {d s : BitVec 8} {im : BitVec 7} {c : CInstr}
    (he : encode i = some (encCompact cop p d s im)) (hi : i = c.toInstr p)
    (h : i.wf = true → decodeCompact (im ++ s ++ d ++ BitVec.ofNat 6 cop ++ BitVec.ofBool p ++ (0 : BitVec 2)) = .ok c) :
    Statement i := by
  intro ws hw h'
  rw [he] at h'
  cases h'
  obtain ⟨-, -, -, -, h5, h6⟩ := compact_fields cop p d s im
  have hp : parcelsOf (im ++ s ++ d ++ BitVec.ofNat 6 cop ++ BitVec.ofBool p ++ (0 : BitVec 2)) = 1 := by
    rw [parcelsOf, h6]; rfl
  simp only [decodeWords, encCompact, decode, hp, h hw, h5, hi]

theorem atomcasLong (x : Args) (w : Bool) (sc : Scope) (l : Word) : Statement (.atomcasLong x w sc l) :=
  of_long (md := (if w then 8 else 0) + sc.code) (x := x) rfl rfl fun (hw : (memOk x true true (wr w x.d) .g (run (if w then 4 else 2) x.c)) = true) => by
    simp only [memOk, Args.ok, Bool.and_eq_true] at hw
    obtain ⟨⟨⟨⟨h0, hd⟩, ha⟩, hb⟩, hc⟩ := hw
    have hl := sc.code_lt
    cases w with
    | false =>
      have h := enc_args 0x85 (0 * 8 + sc.code) 2 x h0 (by simp [Raw.longOp])
      have h1 := enc_hi3 0x85 2 x (a := 0) (by decide) hl
      have h2 := enc_lo3 0x85 2 x (a := 0) hl
      have hd := enc_dWR 0x85 (0 * 8 + sc.code) 2 x hd
      have ha := enc_aP 0x85 (0 * 8 + sc.code) 2 x ha
      have hb := enc_memB 0x85 (0 * 8 + sc.code) 2 x (lit := true) hb
      have hc := enc_cRun 0x85 (0 * 8 + sc.code) 2 x hc
      simp only [Nat.zero_mul, Nat.zero_add, Bool.false_eq_true, if_false] at *
      simp [decodeLongFields, opMem, decodeMem, h1, h2, hd, ha, hb, hc, h]
    | true =>
      have h := enc_args 0x85 (1 * 8 + sc.code) 2 x h0 (by simp [Raw.longOp])
      have h1 := enc_hi3 0x85 2 x (a := 1) (by decide) hl
      have h2 := enc_lo3 0x85 2 x (a := 1) hl
      have hd := enc_dWR 0x85 (1 * 8 + sc.code) 2 x hd
      have ha := enc_aP 0x85 (1 * 8 + sc.code) 2 x ha
      have hb := enc_memB 0x85 (1 * 8 + sc.code) 2 x (lit := true) hb
      have hc := enc_cRun 0x85 (1 * 8 + sc.code) 2 x hc
      simp only [Nat.one_mul, if_true] at *
      simp [decodeLongFields, opMem, decodeMem, h1, h2, hd, ha, hb, hc, h]

theorem waitaLong (x : Args) (ge : Bool) (sp : Space) (l : Word) : Statement (.waitaLong x ge sp l) :=
  of_long (md := (if ge then 8 else 0) + sp.code) (x := x) rfl rfl fun (hw : (sp != .pv && memOk x false true (r x.d) sp (r x.c)) = true) => by
    simp only [memOk, Args.ok, Bool.and_eq_true] at hw
    obtain ⟨hp, ⟨⟨⟨⟨h0, hd⟩, ha⟩, hb⟩, hc⟩⟩ := hw
    have hl : sp.code < 8 := Nat.lt_of_lt_of_le sp.code_lt (by decide)
    cases ge with
    | false =>
      have h := enc_args 0x8E (0 * 8 + sp.code) 2 x h0 (by simp)
      have h1 := enc_hi3 0x8E 2 x (a := 0) (by decide) hl
      have h2 := enc_spaceOf 0x8E 2 x 0 sp
      have hd := enc_dR 0x8E (0 * 8 + sp.code) 2 x hd
      have ha := enc_memA 0x8E (0 * 8 + sp.code) 2 x (sp := sp) ha
      have hb := enc_memB 0x8E (0 * 8 + sp.code) 2 x (lit := true) hb
      have hc := enc_cR 0x8E (0 * 8 + sp.code) 2 x hc
      simp only [Nat.zero_mul, Nat.zero_add, Bool.false_eq_true, if_false] at *
      simp [decodeLongFields, opMem, decodeMem, h1, h2, hd, ha, hb, hc, h, hp]
    | true =>
      have h := enc_args 0x8E (1 * 8 + sp.code) 2 x h0 (by simp)
      have h1 := enc_hi3 0x8E 2 x (a := 1) (by decide) hl
      have h2 := enc_spaceOf 0x8E 2 x 1 sp
      have hd := enc_dR 0x8E (1 * 8 + sp.code) 2 x hd
      have ha := enc_memA 0x8E (1 * 8 + sp.code) 2 x (sp := sp) ha
      have hb := enc_memB 0x8E (1 * 8 + sp.code) 2 x (lit := true) hb
      have hc := enc_cR 0x8E (1 * 8 + sp.code) 2 x hc
      simp only [Nat.one_mul, if_true] at *
      simp [decodeLongFields, opMem, decodeMem, h1, h2, hd, ha, hb, hc, h, hp]

theorem nopC (p : Bool) : Statement (.nopC p) :=
  of_compact (c := .nop) (cop := 0) (d := 0) (s := 0) (im := 0) rfl rfl fun _ => by
    obtain ⟨h1, h2, h3, h4, -, -⟩ := compact_fields 0 p 0 0 0
    rw [decodeCompact, h1, h2, h3, h4]
    rfl

theorem movC (p : Bool) (d s : BitVec 8) : Statement (.movC p d s) :=
  of_compact (c := .mov d s) (cop := 1) (d := d) (s := s) (im := 0) rfl rfl fun _ => by
    obtain ⟨h1, h2, h3, h4, -, -⟩ := compact_fields 1 p d s 0
    rw [decodeCompact, h1, h2, h3, h4]
    rfl

theorem iaddC (p : Bool) (d s : BitVec 8) : Statement (.iaddC p d s) :=
  of_compact (c := .iadd d s) (cop := 2) (d := d) (s := s) (im := 0) rfl rfl fun _ => by
    obtain ⟨h1, h2, h3, h4, -, -⟩ := compact_fields 2 p d s 0
    rw [decodeCompact, h1, h2, h3, h4]
    rfl

theorem isubC (p : Bool) (d s : BitVec 8) : Statement (.isubC p d s) :=
  of_compact (c := .isub d s) (cop := 3) (d := d) (s := s) (im := 0) rfl rfl fun _ => by
    obtain ⟨h1, h2, h3, h4, -, -⟩ := compact_fields 3 p d s 0
    rw [decodeCompact, h1, h2, h3, h4]
    rfl

theorem andC (p : Bool) (d s : BitVec 8) : Statement (.andC p d s) :=
  of_compact (c := .and d s) (cop := 4) (d := d) (s := s) (im := 0) rfl rfl fun _ => by
    obtain ⟨h1, h2, h3, h4, -, -⟩ := compact_fields 4 p d s 0
    rw [decodeCompact, h1, h2, h3, h4]
    rfl

theorem orC (p : Bool) (d s : BitVec 8) : Statement (.orC p d s) :=
  of_compact (c := .or d s) (cop := 5) (d := d) (s := s) (im := 0) rfl rfl fun _ => by
    obtain ⟨h1, h2, h3, h4, -, -⟩ := compact_fields 5 p d s 0
    rw [decodeCompact, h1, h2, h3, h4]
    rfl

theorem xorC (p : Bool) (d s : BitVec 8) : Statement (.xorC p d s) :=
  of_compact (c := .xor d s) (cop := 6) (d := d) (s := s) (im := 0) rfl rfl fun _ => by
    obtain ⟨h1, h2, h3, h4, -, -⟩ := compact_fields 6 p d s 0
    rw [decodeCompact, h1, h2, h3, h4]
    rfl

theorem shlC (p : Bool) (d : BitVec 8) (i : BitVec 7) : Statement (.shlC p d i) :=
  of_compact (c := .shl d i) (cop := 7) (d := d) (s := 0) (im := i) rfl rfl fun (hw : sh7 i = true) => by
    obtain ⟨h1, h2, h3, h4, -, -⟩ := compact_fields 7 p d 0 i
    have hw : i.toNat < 32 := by simpa [sh7] using hw
    rw [decodeCompact, h1, h2, h3, h4]
    simp [hw]

theorem shrC (p : Bool) (d : BitVec 8) (i : BitVec 7) : Statement (.shrC p d i) :=
  of_compact (c := .shr d i) (cop := 8) (d := d) (s := 0) (im := i) rfl rfl fun (hw : sh7 i = true) => by
    obtain ⟨h1, h2, h3, h4, -, -⟩ := compact_fields 8 p d 0 i
    have hw : i.toNat < 32 := by simpa [sh7] using hw
    rw [decodeCompact, h1, h2, h3, h4]
    simp [hw]

theorem sarC (p : Bool) (d : BitVec 8) (i : BitVec 7) : Statement (.sarC p d i) :=
  of_compact (c := .sar d i) (cop := 9) (d := d) (s := 0) (im := i) rfl rfl fun (hw : sh7 i = true) => by
    obtain ⟨h1, h2, h3, h4, -, -⟩ := compact_fields 9 p d 0 i
    have hw : i.toNat < 32 := by simpa [sh7] using hw
    rw [decodeCompact, h1, h2, h3, h4]
    simp [hw]

theorem iaddiC (p : Bool) (d : BitVec 8) (i : BitVec 7) : Statement (.iaddiC p d i) :=
  of_compact (c := .iaddi d i) (cop := 10) (d := d) (s := 0) (im := i) rfl rfl fun _ => by
    obtain ⟨h1, h2, h3, h4, -, -⟩ := compact_fields 10 p d 0 i
    rw [decodeCompact, h1, h2, h3, h4]
    rfl

theorem moviC (p : Bool) (d : BitVec 8) (l : BitVec 15) : Statement (.moviC p d l) :=
  of_compact (c := .movi d l) (cop := 11) (d := d) (s := (l.extractLsb' 7 8)) (im := (l.extractLsb' 0 7)) rfl rfl fun _ => by
    obtain ⟨h1, h2, h3, h4, -, -⟩ := compact_fields 11 p d (l.extractLsb' 7 8) (l.extractLsb' 0 7)
    rw [decodeCompact, h1, h2, h3, h4]
    simp [lit_parts]

theorem faddC (p : Bool) (d s : BitVec 8) : Statement (.faddC p d s) :=
  of_compact (c := .fadd d s) (cop := 12) (d := d) (s := s) (im := 0) rfl rfl fun _ => by
    obtain ⟨h1, h2, h3, h4, -, -⟩ := compact_fields 12 p d s 0
    rw [decodeCompact, h1, h2, h3, h4]
    rfl

theorem fmulC (p : Bool) (d s : BitVec 8) : Statement (.fmulC p d s) :=
  of_compact (c := .fmul d s) (cop := 13) (d := d) (s := s) (im := 0) rfl rfl fun _ => by
    obtain ⟨h1, h2, h3, h4, -, -⟩ := compact_fields 13 p d s 0
    rw [decodeCompact, h1, h2, h3, h4]
    rfl

theorem fmaxC (p : Bool) (d s : BitVec 8) : Statement (.fmaxC p d s) :=
  of_compact (c := .fmax d s) (cop := 14) (d := d) (s := s) (im := 0) rfl rfl fun _ => by
    obtain ⟨h1, h2, h3, h4, -, -⟩ := compact_fields 14 p d s 0
    rw [decodeCompact, h1, h2, h3, h4]
    rfl

theorem fminC (p : Bool) (d s : BitVec 8) : Statement (.fminC p d s) :=
  of_compact (c := .fmin d s) (cop := 15) (d := d) (s := s) (im := 0) rfl rfl fun _ => by
    obtain ⟨h1, h2, h3, h4, -, -⟩ := compact_fields 15 p d s 0
    rw [decodeCompact, h1, h2, h3, h4]
    rfl

theorem imulC (p : Bool) (d s : BitVec 8) : Statement (.imulC p d s) :=
  of_compact (c := .imul d s) (cop := 16) (d := d) (s := s) (im := 0) rfl rfl fun _ => by
    obtain ⟨h1, h2, h3, h4, -, -⟩ := compact_fields 16 p d s 0
    rw [decodeCompact, h1, h2, h3, h4]
    rfl

theorem iminC (p : Bool) (d s : BitVec 8) : Statement (.iminC p d s) :=
  of_compact (c := .imin d s) (cop := 17) (d := d) (s := s) (im := 0) rfl rfl fun _ => by
    obtain ⟨h1, h2, h3, h4, -, -⟩ := compact_fields 17 p d s 0
    rw [decodeCompact, h1, h2, h3, h4]
    rfl

theorem imaxC (p : Bool) (d s : BitVec 8) : Statement (.imaxC p d s) :=
  of_compact (c := .imax d s) (cop := 18) (d := d) (s := s) (im := 0) rfl rfl fun _ => by
    obtain ⟨h1, h2, h3, h4, -, -⟩ := compact_fields 18 p d s 0
    rw [decodeCompact, h1, h2, h3, h4]
    rfl

theorem ldC (p : Bool) (d s : BitVec 8) (i : BitVec 7) : Statement (.ldC p d s i) :=
  of_compact (c := .ld d s i) (cop := 19) (d := d) (s := s) (im := i) rfl rfl fun _ => by
    obtain ⟨h1, h2, h3, h4, -, -⟩ := compact_fields 19 p d s i
    rw [decodeCompact, h1, h2, h3, h4]
    rfl

theorem stC (p : Bool) (d s : BitVec 8) (i : BitVec 7) : Statement (.stC p d s i) :=
  of_compact (c := .st d s i) (cop := 20) (d := d) (s := s) (im := i) rfl rfl fun _ => by
    obtain ⟨h1, h2, h3, h4, -, -⟩ := compact_fields 20 p d s i
    rw [decodeCompact, h1, h2, h3, h4]
    rfl

theorem braC (p : Bool) (o : BitVec 23) : Statement (.braC p o) :=
  of_compact (c := .bra o) (cop := 21) (d := (o.extractLsb' 15 8)) (s := (o.extractLsb' 7 8)) (im := (o.extractLsb' 0 7)) rfl rfl fun _ => by
    obtain ⟨h1, h2, h3, h4, -, -⟩ := compact_fields 21 p (o.extractLsb' 15 8) (o.extractLsb' 7 8) (o.extractLsb' 0 7)
    rw [decodeCompact, h1, h2, h3, h4]
    simp [coff_parts]

end Sys2Proof.Laws.RoundTrip
end

