-- ==== Sys2Proof/Safety.lean ====
section
/-! DEFINITION. What a safe run is, and the terms the statements use: an instruction that its thread issues, and the state in which
it leaves the machine when it completes. -/

namespace Sys2Proof.Safety

open Sys2Proof.Machine

/-- The machine goes on from a state. -/
def goesOn (s : State) : Prop := ∃ t, step s = .next t

/-- Thread `t` of actor `a` acts and issues the instruction that `p` describes: the decode checks of R118 pass (`chk` is what the
instruction's own entry adds to them), its guard is true (R106), the scoreboard and its windows let it issue (R114), its channels are
ready (R109), and a speculative task does not hold it (R384). `v` are its captured operands, `d` its destination, `u` the state in
which its effect takes place: sources popped, a channel place reserved, an open region closed where it closes one (R109, R164). -/
structure Issues (s : State) (p : Iss) (chk : Option Cause) (a : Actor) (t : Thread) (v : Vals) (d : Dest) (u : State) : Prop where
  who : s.grp.who = some a
  thread : s.thread? a = some t
  legal : decodeCheck a t p chk = none
  guard : guardOn t p.x.guard = true
  ready : s.ready a t p = true
  gate : s.chanGate a t p = .go
  free : ((p.irrev || s.usesOuterChan a p.x) && s.speculative a) = false
  begun : s.begin a t p = (v, d, u)

/-- The state in which a completed instruction leaves the machine: its result words stand in its destination and the program counter
is past it; in the long-latency class its result is outstanding, its window open (R113, R114). -/
def retires (u : State) (a : Actor) (t : Thread) (p : Iss) (d : Dest) (v : Vals) (ws : List Word) : State :=
  if p.isLong then (u.issued a p.count (t.pc + dword p.len)).launchFlight a t p d v.all (.value ws) true none
  else (u.writeDest a d ws).issued a p.count (t.pc + dword p.len)

/-- Whenever it issues, the instruction completes with result words computed from its operands, and does nothing else. -/
def Completes (i : Instr) (f : Vals → List Word) : Prop :=
  ∀ (s : State) (a : Actor) (t : Thread) (v : Vals) (d : Dest) (u : State), Issues s (issOf i) none a t v d u →
    exec i s = .next (retires u a t (issOf i) d v (f v))

/-- Whenever it issues and `eff` gives it result words `ws` and the state `w`, the instruction completes with them. -/
def CompletesIf (i : Instr) (eff : Actor → Thread → Vals → State → List Word → State → Prop) : Prop :=
  ∀ (s : State) (a : Actor) (t : Thread) (v : Vals) (d : Dest) (u : State) (ws : List Word) (w : State),
    Issues s (issOf i) none a t v d u → eff a t v u ws w → exec i s = .next (retires w a t (issOf i) d v ws)

/-- As `CompletesIf`, for an instruction whose operand record `p` depends on the state and whose entry adds the check `chk` at
decode. -/
def CompletesAs (i : Instr) (p : State → Iss) (chk : State → Actor → Thread → Option Cause)
    (eff : Actor → Thread → Vals → State → List Word → State → Prop) : Prop :=
  ∀ (s : State) (a : Actor) (t : Thread) (v : Vals) (d : Dest) (u : State) (ws : List Word) (w : State),
    Issues s (p s) (chk s a t) a t v d u → eff a t v u ws w → exec i s = .next (retires w a t (p s) d v ws)

/-- The state in which an instruction leaves the machine whose result comes with work `k`: the program counter is past it. -/
def flies (w : State) (a : Actor) (t : Thread) (p : Iss) (d : Dest) (v : Vals) (k : Work) : State :=
  (w.issued a p.count (t.pc + dword p.len)).launchFlight a t p d v.all k p.isLong none

/-- Whenever it issues and `eff` gives it work `k` and the state `w`, the instruction completes with that work outstanding: the
program counter is past it, and its result comes with the work. -/
def SendsIf (i : Instr) (p : State → Iss) (eff : Actor → Thread → Vals → State → Work → State → Prop) : Prop :=
  ∀ (s : State) (a : Actor) (t : Thread) (v : Vals) (d : Dest) (u : State) (k : Work) (w : State),
    Issues s (p s) none a t v d u → eff a t v u k w →
    exec i s = .next (flies w a t (p s) d v k)

/-- Whenever it issues and `eff` gives it a target and the state `w`, the instruction completes with the program counter there. -/
def JumpsIf (i : Instr) (chk : Actor → Thread → Option Cause) (eff : Actor → Thread → Vals → State → Dword → State → Prop) : Prop :=
  ∀ (s : State) (a : Actor) (t : Thread) (v : Vals) (d : Dest) (u : State) (pc : Dword) (w : State),
    Issues s (issOf i) (chk a t) a t v d u → eff a t v u pc w → exec i s = .next (w.issued a (issOf i).count pc)

/-- Whenever it issues, the instruction completes in the state that `f` makes of the state its effect takes place in. -/
def LeavesIn (i : Instr) (f : Actor → Thread → Vals → Dest → State → State) : Prop :=
  ∀ (s : State) (a : Actor) (t : Thread) (v : Vals) (d : Dest) (u : State), Issues s (issOf i) none a t v d u →
    exec i s = .next (f a t v d u)

/-- Whenever it issues and `eff` gives it a next state `w`, the instruction completes in it. -/
def EndsIf (i : Instr) (eff : Actor → Thread → Vals → Dest → State → State → Prop) : Prop :=
  ∀ (s : State) (a : Actor) (t : Thread) (v : Vals) (d : Dest) (u w : State), Issues s (issOf i) none a t v d u →
    eff a t v d u w → exec i s = .next w

/-- Arrival at a collective with a mask (R36, R37): the thread waits with its captured operands, and the squad's waiting
collectives are checked next. -/
def Arrives (i : Instr) (mask : Vals → Word) : Actor → Thread → Vals → Dest → State → State → Prop :=
  fun a t v d u w => maskCause (laneOf a) (u.tileSize (squadKey a)) (mask v) = none ∧
    w = (u.arriveWait a 1 (.meeting ⟨i, t.pc, mask v, v.all, d⟩)).checkMeetings (squadKey a)

/-- A step of the matrix engine is posted (R307-R311): no step fault is pending, the queue has room, and the step's checks pass. -/
def PostsStep (mk : Vals → StepOp × Nat × List Word) : Actor → Thread → Vals → State → List Word → State → Prop :=
  fun a t v u ws w => ws = [] ∧ ∃ k, a = .easel k ∧ (u.engine k).pending = none ∧ (u.engine k).queue.length < 16 ∧
    let st := u.stepFor k t.ctx (mk v)
    let boxes := stepBoxes st (u.engine k).epiNext
    stepChecks st (u.palEntry t.ctx) (u.engine k).epiNext = none ∧ u.stepScratch (u.engine k).cur (epiScratch st (u.palEntry t.ctx)) boxes = none ∧
    w = u.postStep k t.ctx st boxes

/-- A copy enters its crew's streamer (R229, R268, R273): the checks pass, the squad finds a slot, and the thread's earlier writes to its
footprint are performed. -/
def EntersJob (k : JobKind) (id : Nat) : Actor → Thread → Vals → State → List Word → State → Prop :=
  fun a t v u ws w => ws = [] ∧
    copyChecks id ((v.b.headD 0).toNat % 256) (v.b.headD 0) (v.b.getD 3 0) (u.jobOf k a t id v) (u.isLoader a)
      (u.footprint (crewOf a)) = none ∧ u.slotFree (u.coreOf a) (squadKey a) = true ∧
      u.copyBehind a (u.jobOf k a t id v) = false ∧ w = u.enterJob a (u.jobOf k a t id v)

/-- A command to Basin queue `q` on its way, and the work that waits for its answer (R223, R351). -/
def cmdSent (a : Actor) (ctx q : Nat) (op : QOp) (tr : Bool) (tp : Option Nat) (u : State) : Work × State :=
  (.basin u.next tp, { u with next := u.next + 1, qcmds := u.qcmds ++
    [{ id := u.next, q := q, sender := .actor a, ctx := ctx, op := op, try' := tr, flight := some (u.next + 1) }] })

/-- A command to a Basin queue is sent; it is the work the instruction leaves outstanding (R223, R351). -/
def SendsCmd (op : Vals → QOp) (tr : Bool) (tp : Option Nat) : Actor → Thread → Vals → State → Work → State → Prop :=
  fun a t v u k w => let q := (v.a.headD 0).toNat % 65536
    u.queueOk t.ctx q = true ∧ (k, w) = cmdSent a t.ctx q (op v) tr tp u

/-! ### What memory instructions do where their access gets through (R199) -/

/-- A load of `n` bytes: the value at the scratch offset, the management offset or the address and home that the checks give. -/
def Loads (sp : Space) (n : Nat) (sg : Bool) (off : Int) : Actor → Thread → Vals → State → List Word → State → Prop :=
  fun a t v u ws w =>
    (∃ o, u.reach a t .load sp (memEa sp v.a off) n = (.scratch o, w) ∧ w.scratchFails (crewOf a) o n = false ∧
      ws = loadWords n sg (w.scratchRead (crewOf a) o n)) ∨
    (∃ o, u.reach a t .load sp (memEa sp v.a off) n = (.mgmt o, w) ∧ ws = loadWords n sg (w.mgRead o n)) ∨
    (∃ ea pa u' x, u.reach a t .load sp (memEa sp v.a off) n = (.go ea pa, u') ∧
      u'.gRead (u'.portOf a t.ctx sp) ea pa n = (x, false, w) ∧ ws = loadWords n sg x)

/-- A store of the low `n` bytes of C. -/
def Stores (sp : Space) (n : Nat) (off : Int) : Actor → Thread → Vals → State → List Word → State → Prop :=
  fun a t v u ws w => ws = [] ∧
    ((∃ o u', u.reach a t .store sp (memEa sp v.a off) n = (.scratch o, u') ∧
        w = u'.scratchWrite (crewOf a) o n ((dw (v.c.headD 0) (v.c.getD 1 0)).toNat % 2 ^ (8 * n))) ∨
     (∃ o u', u.reach a t .store sp (memEa sp v.a off) n = (.mgmt o, u') ∧
        w = u'.mgWrite o n ((dw (v.c.headD 0) (v.c.getD 1 0)).toNat % 2 ^ (8 * n))) ∨
     (∃ ea pa u', u.reach a t .store sp (memEa sp v.a off) n = (.go ea pa, u') ∧
        w = u'.gWrite (u'.portOf a t.ctx sp) ea pa n ((dw (v.c.headD 0) (v.c.getD 1 0)).toNat % 2 ^ (8 * n))))

/-- An atomic of `n` bytes: D receives the old value `x`, and the home holds `f` of it, as one operation (R206). -/
def Atomics (n : Nat) (atRoot : Bool) (sc : Scope) (off : Int) (f : Vals → Nat → Nat) :
    Actor → Thread → Vals → State → List Word → State → Prop :=
  fun a t v u ws w => u.strictCause t.ctx sc = none ∧ (rootRefuses (memEa .g v.a off) n atRoot && !u.speculative a) = false ∧
    ∃ ea pa u' x u'', u.reach a t .atomic .g (memEa .g v.a off) n = (.go ea pa, u') ∧
      u'.gReadHome (u'.portOf a t.ctx .g) ea pa n = (x, false, u'') ∧
      ws = (if n = 8 then [word x, word (x / 2 ^ 32)] else [word x]) ∧
      w = (u''.gWriteHome (u'.portOf a t.ctx .g) ea pa n (f v x)).demote t.ctx sc

/-- The rows that only compute result words from their operands: the integer, logic, compare and floating-point rows, the conversions
but CVTN, PSET, and NOP and PREF, which have no result. -/
def registerOnly : Instr → Bool
  | .nop _ | .iadd _ _ _ | .isub _ _ _ | .imul _ _ _ | .imulhi _ _ | .imad _ _ _ | .imin _ _ | .imax _ _ | .iabs _ _ _
  | .and _ _ | .or _ _ | .xor _ _ | .andn _ _ | .lop3 _ _ | .shl _ _ | .shr _ _ | .sar _ _ | .rotl _ _ | .popc _ _ | .clz _ _
  | .brev _ _ | .bfx _ _ | .bfi _ _ | .prmt _ | .idp4 _ _ _ _ | .lea _ _ | .icmp _ _ _ | .sel _ _ | .mov _ _ | .movi _ _ _
  | .pset _ _ | .fadd _ _ _ | .fsub _ _ _ | .fmul _ _ _ | .ffma _ _ _ | .fmin _ _ | .fmax _ _ | .fcmp _ _ _ | .fclass _ _
  | .fdiv _ _ _ | .fsqrt _ _ _ | .frcp _ _ _ | .frsq _ | .fexp2 _ | .flog2 _ | .fsinpi _ | .fcospi _ | .ftanh _
  | .fscale _ _ _ | .fdot2 _ _ _ | .welf _ _ | .wmerge _ _ | .famax _ _ | .cvt _ _ | .cvtw _ _ | .qnt _ _ _ | .dqnt _ _ _
  | .pref _ | .prefLong _ _ => true
  | _ => false

/-- Registers `n` and `m` of a thread belong to one LOCAL ring: an ordinary write of one leaves the other unspecified (R108). -/
def sharesRing (t : Thread) (n m : Nat) : Prop :=
  ∃ e ∈ t.chans, ∃ base depth, e.2.kind = .loc base depth ∧ base ≤ n ∧ n < base + depth ∧ base ≤ m ∧ m < base + depth

/-- The registers of thread `b`, in state `x`, that a write to destination `d` of actor `a` may change: those that it names, with the
whole of a ring one of them belongs to (R108), or for a push the ring's registers in the entry's owner. -/
def MayChange (s : State) (a : Actor) (d : Dest) (b : Actor) (x : Thread) (c : Nat) : Prop :=
  (b = a ∧ (c ∈ d.codes ∨ ∃ r ∈ d.codes, sharesRing x r c)) ∨
  ∃ ch p, d = .chan ch p ∧ b = s.chanOwner a ch ∧ ∃ j, c = (s.chan a ch).regOf j

/-- From `s` to `w` no squad and no management register changes; of a thread neither draw nor rounding counters nor the trap record nor the
WID; every thread but `a` keeps its program counter and predicates, `a` the predicates that `d` does not name, and every thread the
registers that a write to `d` leaves alone. -/
def SameRegisters (s w : State) (a : Actor) (d : Dest) : Prop :=
  w.squads = s.squads ∧ w.mgmt = s.mgmt ∧ ∀ b x, s.thread? b = some x → ∃ y, w.thread? b = some y ∧
    y.dcount = x.dcount ∧ y.rcount = x.rcount ∧ y.trap = x.trap ∧ y.wid = x.wid ∧ y.inHandler = x.inHandler ∧ y.exited = x.exited ∧
    (b ≠ a → y.pc = x.pc ∧ y.preds = x.preds) ∧
    (∀ c, ¬MayChange s a d b x c → cget 0 y.regs c = cget 0 x.regs c) ∧
    ∀ n, n < 24 → 256 + n ∉ d.codes → y.preds.getLsbD n = x.preds.getLsbD n

/-- A compact form and its full form read the same operands into the same destination and give the same result words. -/
def SameWords (c i : Instr) : Prop :=
  (issOf c).x = (issOf i).x ∧ ∃ f g, Completes c f ∧ Completes i g ∧
    ∀ v : Vals, v.a.length = (issOf i).x.a.words → v.b.length = (issOf i).x.b.words → f v = g v

/-- The registers of a thread that leaves its handler: v0-v7 below the register count as they were saved (R440). -/
def restored (t : Thread) : Cells Word :=
  (List.range 8).foldl (fun r i => if i < t.nregs then cset 0 r i (cget 0 t.trap.savev i) else r) t.regs

/-- The table of R207: the new word of an old one and C, in 32 bits. -/
def atomSpec (op : AtomOp) (x c : Nat) : Nat :=
  let sgn (n : Nat) : Int := if n < 2 ^ 31 then n else (n : Int) - 2 ^ 32
  match op with
  | .add => (x + c) % 2 ^ 32
  | .exch => c
  | .and => x &&& c
  | .or => x ||| c
  | .minS => if sgn x ≤ sgn c then x else c
  | .maxS => if sgn x ≤ sgn c then c else x
  | .minU => min x c
  | .maxU => max x c

/-! ### What result words hold -/

/-- The least and the greatest value of an integer type (R112). -/
def lowest (t : IntTy) : Int := if t.signed then -(2 ^ (IntTy.w t - 1)) else 0
def highest (t : IntTy) : Int := if t.signed then 2 ^ (IntTy.w t - 1) - 1 else 2 ^ IntTy.w t - 1

/-- The number of words a result of a type's width takes (R120). -/
def sized (wide : Bool) (ws : List Word) : Prop := ws.length = if wide then 2 else 1

/-- The relation of ICMP (R131) holds of two numbers. -/
def holds (r : Rel) (x y : Int) : Bool :=
  match r with
  | .eq => decide (x = y)
  | .ne => decide (x ≠ y)
  | .lt => decide (x < y)
  | .le => decide (x ≤ y)
  | .gt => decide (y < x)
  | .ge => decide (y ≤ x)

/-- Result words hold the exact result `x` as R122 delivers it: modulo 2^w, or with SAT the nearest value of the type. -/
def Delivers (t : IntTy) (sat : Bool) (x : Int) (ws : List Word) : Prop :=
  sized t.wide ws ∧ (sat = false → (natOf ws : Int) = x % 2 ^ IntTy.w t) ∧
  (sat = true → intVal t (natOf ws) = max (lowest t) (min x (highest t)))

/-- Result words of a type's width hold the bits `p`. -/
def HasBits (t : IntTy) (p : Nat → Bool) (ws : List Word) : Prop :=
  sized t.wide ws ∧ ∀ i, i < IntTy.w t → (natOf ws).testBit i = p i

end Sys2Proof.Safety
end

