-- ==== Sys2Proof/Certificates/Slice0/Obligations.lean ====
section
/-! DEFINITION. The statements for the provers, from the rules of the spec file by file. `Issues`, `Completes` and the other terms they
are written in are those of Sys2Proof.Safety. -/

open Sys2Proof Sys2Proof.Machine Sys2Proof.Safety

/-- IADD, ISUB, IMUL, IMULHI, IMAD, IMIN, IMAX and IABS complete whenever they issue, for every operand form, with result words
that hold the exact result of R122's table, the sources read as the type says: modulo 2^w without SAT, and the nearest value
of the type with it. (R122, R120, R119) -/
def Obligations.IntegerArithmeticResults : Prop :=
  (∀ x t sat, ∃ f, Completes (.iadd x t sat) f ∧ ∀ v, Delivers t sat (intVal t (natOf v.a) + srcS t x.c v.b) (f v)) ∧
  (∀ x t sat, ∃ f, Completes (.isub x t sat) f ∧ ∀ v, Delivers t sat (intVal t (natOf v.a) - srcS t x.c v.b) (f v)) ∧
  (∀ x t sat, ∃ f, Completes (.imul x t sat) f ∧ ∀ v, Delivers t sat (intVal t (natOf v.a) * srcS t x.c v.b) (f v)) ∧
  (∀ x t, ∃ f, Completes (.imulhi x t) f ∧
    ∀ v, Delivers t false (intVal t (natOf v.a) * srcS t x.c v.b / 2 ^ IntTy.w t) (f v)) ∧
  (∀ x t sat, ∃ f, Completes (.imad x t sat) f ∧
    ∀ v, Delivers t sat (intVal t (natOf v.a) * intVal t (natOf v.b) + srcC t x.c v.c) (f v)) ∧
  (∀ x t, ∃ f, Completes (.imin x t) f ∧ ∀ v, Delivers t false (min (intVal t (natOf v.a)) (srcS t x.c v.b)) (f v)) ∧
  (∀ x t, ∃ f, Completes (.imax x t) f ∧ ∀ v, Delivers t false (max (intVal t (natOf v.a)) (srcS t x.c v.b)) (f v)) ∧
  (∀ x t sat, ∃ f, Completes (.iabs x t sat) f ∧ ∀ v, Delivers t sat (intVal t (natOf v.a)).natAbs (f v))

/-- AND, OR, XOR and ANDN complete whenever they issue, each bit of the result the named function of the bits of A and S; LOP3
completes with bit i of the result the bit of the function table F in C whose index has A's bit i lowest, then B's, and the
old D's highest. (R123, R125, R119, R120) -/
def Obligations.LogicResults : Prop :=
  (∀ x t, ∃ f, Completes (.and x t) f ∧
    ∀ v, HasBits t (fun i => (natOf v.a).testBit i && (srcN x.c v.b).testBit i) (f v)) ∧
  (∀ x t, ∃ f, Completes (.or x t) f ∧
    ∀ v, HasBits t (fun i => (natOf v.a).testBit i || (srcN x.c v.b).testBit i) (f v)) ∧
  (∀ x t, ∃ f, Completes (.xor x t) f ∧
    ∀ v, HasBits t (fun i => (natOf v.a).testBit i != (srcN x.c v.b).testBit i) (f v)) ∧
  (∀ x t, ∃ f, Completes (.andn x t) f ∧
    ∀ v, HasBits t (fun i => (natOf v.a).testBit i && !(srcN x.c v.b).testBit i) (f v)) ∧
  (∀ x t, ∃ f, Completes (.lop3 x t) f ∧
    ∀ v, HasBits t (fun i => (srcN x.c []).testBit
      (b2n ((natOf v.a).testBit i) + 2 * b2n ((natOf v.b).testBit i) + 4 * b2n ((natOf v.d).testBit i))) (f v))

/-- SHL, SHR, SAR and ROTL complete whenever they issue, with n the whole value of S taken as unsigned: SHL and SHR move bits by
n with zeros in, so that n of w or more gives 0; SAR copies bit w-1 in, so that n of w or more gives all bits equal to bit
w-1 of A; ROTL rotates left by n mod w. (R124) -/
def Obligations.ShiftAmounts : Prop :=
  (∀ x t, ∃ f, Completes (.shl x t) f ∧ ∀ v, natOf v.a < 2 ^ IntTy.w t →
    HasBits t (fun i => decide (srcN x.c v.b ≤ i) && (natOf v.a).testBit (i - srcN x.c v.b)) (f v)) ∧
  (∀ x t, ∃ f, Completes (.shr x t) f ∧ ∀ v, natOf v.a < 2 ^ IntTy.w t →
    HasBits t (fun i => decide (i + srcN x.c v.b < IntTy.w t) && (natOf v.a).testBit (i + srcN x.c v.b)) (f v)) ∧
  (∀ x t, ∃ f, Completes (.sar x t) f ∧ ∀ v, natOf v.a < 2 ^ IntTy.w t →
    HasBits t (fun i => (natOf v.a).testBit (min (i + srcN x.c v.b) (IntTy.w t - 1))) (f v)) ∧
  (∀ x t, ∃ f, Completes (.rotl x t) f ∧ ∀ v, natOf v.a < 2 ^ IntTy.w t →
    HasBits t (fun i => (natOf v.a).testBit ((i + IntTy.w t - srcN x.c v.b % IntTy.w t) % IntTy.w t)) (f v))

/-- POPC, CLZ, BREV, BFX and BFI complete whenever they issue: POPC with the number of 1 bits of A, CLZ with the number of 0 bits
above its highest 1 bit (w for 0), BREV with bit i moved to bit w-1-i; BFX with the field of min(L, w-P) bits at P, its top
bit copied up for a signed type, 0 where P is w or more or L is 0; BFI with bits P to P+L-1 of the old D replaced by the low
bits of A. (R126, R127) -/
def Obligations.CountAndFieldResults : Prop :=
  (∀ x t, ∃ f, Completes (.popc x t) f ∧
    ∀ v, natOf (f v) = (List.range (IntTy.w t)).countP (fun i => (natOf v.a).testBit i)) ∧
  (∀ x t, ∃ f, Completes (.clz x t) f ∧ ∀ v, natOf v.a < 2 ^ IntTy.w t → natOf (f v) ≤ IntTy.w t ∧
    natOf v.a < 2 ^ (IntTy.w t - natOf (f v)) ∧ (natOf v.a ≠ 0 → 2 ^ (IntTy.w t - natOf (f v)) ≤ 2 * natOf v.a) ∧
    (natOf v.a = 0 → natOf (f v) = IntTy.w t)) ∧
  (∀ x t, ∃ f, Completes (.brev x t) f ∧ ∀ v, HasBits t (fun i => (natOf v.a).testBit (IntTy.w t - 1 - i)) (f v)) ∧
  (∀ x t, ∃ f, Completes (.bfx x t) f ∧ ∀ v, natOf v.a < 2 ^ IntTy.w t →
    HasBits t (fun i => decide (bfPos x v < IntTy.w t) && decide (bfLen x v ≠ 0) &&
      (if i < min (bfLen x v) (IntTy.w t - bfPos x v) then (natOf v.a).testBit (bfPos x v + i)
       else t.signed && (natOf v.a).testBit (bfPos x v + min (bfLen x v) (IntTy.w t - bfPos x v) - 1))) (f v)) ∧
  (∀ x t, ∃ f, Completes (.bfi x t) f ∧ ∀ v,
    HasBits t (fun i => if bfPos x v ≤ i ∧ i < bfPos x v + bfLen x v then (natOf v.a).testBit (i - bfPos x v)
      else (natOf v.d).testBit i) (f v))

/-- PRMT completes with byte n of its result the byte of B:A that selector n of C names, zero where its zero mask bit stands, and
where its fill bit stands 0xFF or 0 by the top bit of the result byte below (of itself for byte 0). IDP4 completes with C
plus the four byte products, wrapped or saturated. LEA completes with B plus the extended A shifted by C, modulo 2^64. (R128,
R129, R130) -/
def Obligations.ByteAndAddressResults : Prop :=
  (∀ x, ∃ f, Completes (.prmt x) f ∧ ∀ v, let c := natOf v.c; let r := natOf (f v); let all := natOf v.a + 2 ^ 32 * natOf v.b;
    let pick := fun n => if c.testBit (12 + n) then 0 else all / 2 ^ (8 * (c / 2 ^ (3 * n) % 8)) % 256;
    sized false (f v) ∧ ∀ n, n < 4 → r / 2 ^ (8 * n) % 256 =
      if c.testBit (16 + n) then
        (if 128 ≤ (if n = 0 then pick 0 else r / 2 ^ (8 * (n - 1)) % 256) then 255 else 0)
      else pick n) ∧
  (∀ x t sat bb, t.wide = false → ∃ f, Completes (.idp4 x t sat bb) f ∧ ∀ v, let sb := (match bb with
      | .same => t.signed
      | .u8 => false
      | .s8 => true);
    Delivers t sat (srcC t x.c v.c + ((List.range 4).map (fun n => byteVal t.signed (natOf v.a) n * byteVal sb (natOf v.b) n)).sum) (f v)) ∧
  (∀ x t, ∃ f, Completes (.lea x t) f ∧ ∀ v, sized true (f v) ∧
    (natOf (f v) : Int) = ((natOf v.b : Int) + intVal t (natOf v.a) * 2 ^ srcN x.c []) % 2 ^ 64)

/-- ICMP completes with 1 where the relation of A and S in the type holds and 0 otherwise; SEL with A where predicate C is 1 and
B otherwise; MOV with A; MOVI with the literal, sign-extended for s64 and zero-extended for u64; PSET with the negated
combination of its predicates; NOP with no result. (R131, R132, R133, R134, R135, R149) -/
def Obligations.ComparesAndMoves : Prop :=
  (∀ x t rel, ∃ f, Completes (.icmp x t rel) f ∧ ∀ v, f v = [if holds rel (intVal t (natOf v.a)) (srcS t x.c v.b) then 1 else 0]) ∧
  (∀ x t, Completes (.sel x t) (fun v => if (v.c.headD 0).getLsbD 0 then v.a else v.b)) ∧
  (∀ x t, Completes (.mov x t) (fun v => v.a)) ∧
  (∀ x t l, ∃ f, Completes (.movi x t l) f ∧ ∀ v, sized t.wide (f v) ∧
    natOf (f v) = (if t = .s64 then (l.signExtend 64).toNat else l.toNat)) ∧
  (∀ x op k, x.c = .imm k → ∃ f, Completes (.pset x op) f ∧ ∀ v, let p := (v.a.headD 0).getLsbD 0 != k.getLsbD 0;
    let q := (v.b.headD 0).getLsbD 0 != k.getLsbD 1;
    f v = [if ((match op with
      | .and => p && q
      | .or => p || q
      | .xor => p != q) != k.getLsbD 2) then 1 else 0]) ∧
  (∀ x, Completes (.nop x) (fun _ => []))

/-- FADD, FSUB, FMUL, FFMA, FSCALE and FDOT2 complete whenever they issue, each element the exact value of its formula rounded
once in the mode; FMIN, FMAX and FAMAX with their picks; FCMP with 1 where the numeric relation holds, a NaN operand making
.ne alone hold; FCLASS with the one bit of its class; WELF and WMERGE, whose accumulators begin at a multiple of 4, with the
three rounded outputs of their formulas. FDIV, FSQRT, FRCP, FRSQ, FEXP2, FLOG2, FSINPI, FCOSPI and FTANH complete whenever
they issue: the program counter moves on, a window of the lookahead count opens, and the rounded result words are
outstanding. CVT, CVTW, QNT and DQNT complete whenever they issue, with every element converted as R187 and R192-R195 say.
CVTN without .sr completes with the packed elements and captures the magnitudes in the Palette entry B names; with .sr its
conversion is outstanding, with the nibbles from RCOUNT plus those its earlier conversions will take. In the .amax form the
entry must have a format code 0x01-0x0C. That FEXP2, FLOG2, FSINPI, FCOSPI and FTANH round what their 448-bit computation gives is the
model's choice (assumption log 17, transcendentals), and so are the sign of DQNT's zeros (log 18, DQNT zero) and of the zero
differences and sums in WELF and WMERGE (log 63, zero difference). (R113, R114, R173, R174, R175, R176, R177, R178, R179, R180, R181,
R182, R183, R184, R187, R188, R189, R191, R192, R193, R194, R195) -/
def Obligations.FloatAndConversionResults : Prop :=
  ((∀ x t m, Completes (.fadd x t m) (fun v =>
    fMap2 t (fun p q => (FTy.fmt t).round m (((FTy.fmt t).decode p).add m ((FTy.fmt t).decode q))) v.a v.b)) ∧
  (∀ x t m, Completes (.fsub x t m) (fun v =>
    fMap2 t (fun p q => (FTy.fmt t).round m (((FTy.fmt t).decode p).sub m ((FTy.fmt t).decode q))) v.a v.b)) ∧
  (∀ x t m, Completes (.fmul x t m) (fun v =>
    fMap2 t (fun p q => (FTy.fmt t).round m (((FTy.fmt t).decode p).mul ((FTy.fmt t).decode q))) v.a v.b)) ∧
  (∀ x t m, Completes (.ffma x t m) (fun v => fPack t (List.zipWith (fun p c => (FTy.fmt t).round m
    ((((FTy.fmt t).decode p.1).mul ((FTy.fmt t).decode p.2)).add m ((FTy.fmt t).decode c)))
    ((fElems t v.a).zip (fElems t v.b)) (fElems t v.c)))) ∧
  (∀ x t m, Completes (.fscale x t m) (fun v =>
    fMap1 t (fun e => (FTy.fmt t).round m (e.scale (fscaleN x v))) v.a)) ∧
  (∀ x t m, Completes (.fdot2 x t m) (fdot2Words t m)) ∧
  (∀ x t, Completes (.fmin x t) (fun v => fMap2 t (fMin (FTy.fmt t)) v.a v.b)) ∧
  (∀ x t, Completes (.fmax x t) (fun v => fMap2 t (fMax (FTy.fmt t)) v.a v.b)) ∧
  (∀ x t rel, Completes (.fcmp x t rel) (fun v => [if fRel rel ((FTy.fmt t).decode (natOf v.a)) ((FTy.fmt t).decode (natOf v.b))
    then 1 else 0])) ∧
  (∀ x t, Completes (.fclass x t) (fun v => [word (2 ^ fClass (FTy.fmt t) (natOf v.a))])) ∧
  (∀ x t, Completes (.famax x t) (famaxWords t)) ∧
  (∀ x m, accumCheck x = none → Completes (.welf x m) (fun v => welfWords m v.d (v.a.headD 0))) ∧
  (∀ x m, accumCheck x = none → Completes (.wmerge x m) (fun v => wmergeWords m v.d v.a))) ∧
  ((∀ x t m, Completes (.fdiv x t m) (fun v => fMap2 t (fDiv (FTy.fmt t) m) v.a v.b) ∧ (issOf (.fdiv x t m)).isLong = true) ∧
  (∀ x t m, Completes (.fsqrt x t m) (fun v => fPack t ((fElems t v.a).map (fSqrt (FTy.fmt t) m))) ∧ (issOf (.fsqrt x t m)).isLong = true) ∧
  (∀ x t m, Completes (.frcp x t m) (fun v => fPack t ((fElems t v.a).map (fun p =>
    (FTy.fmt t).round m ((Exact.ofInt 1).div ((FTy.fmt t).decode p))))) ∧ (issOf (.frcp x t m)).isLong = true) ∧
  (∀ x, Completes (.frsq x) (fun v => [word (fRsq (natOf v.a))]) ∧ (issOf (.frsq x)).isLong = true) ∧
  (∀ x, Completes (.fexp2 x) (fun v => [word (fExp2 (natOf v.a))]) ∧ (issOf (.fexp2 x)).isLong = true) ∧
  (∀ x, Completes (.flog2 x) (fun v => [word (fLog2 (natOf v.a))]) ∧ (issOf (.flog2 x)).isLong = true) ∧
  (∀ x, Completes (.fsinpi x) (fun v => [word (fSinPi (natOf v.a))]) ∧ (issOf (.fsinpi x)).isLong = true) ∧
  (∀ x, Completes (.fcospi x) (fun v => [word (fCosPi (natOf v.a))]) ∧ (issOf (.fcospi x)).isLong = true) ∧
  (∀ x, Completes (.ftanh x) (fun v => [word (fTanh (natOf v.a))]) ∧ (issOf (.ftanh x)).isLong = true)) ∧
  ((∀ x m, Completes (.cvt x m) (fun v =>
    wordsOf (kindWide (srcN x.c [] % 16)) (cvtN m (srcN x.c [] % 16) (srcN x.c [] / 16) (natOf v.a)))) ∧
  (∀ x t m, m ≠ .sr → CompletesIf (.cvtn x t m) (fun _ th v u ws w =>
    (srcN x.b [] = 0 ∨ palOk (srcN x.b []) (u.palEntry th.ctx (srcN x.b [])) = true) ∧
    ws = [packWord (srcN x.c []) ((runValues t (packElems (srcN x.c [])) v.a).map (encodeCode (srcN x.c []) m 0))] ∧
    w = if srcN x.b [] = 0 then u else
      u.captureAmax th.ctx (srcN x.b []) (amaxAll (runValues t (packElems (srcN x.c [])) v.a)))) ∧
  (∀ x t, SendsIf (.cvtn x t .sr) (fun _ => issOf (.cvtn x t .sr)) (fun a th v u k w =>
    (srcN x.b [] = 0 ∨ palOk (srcN x.b []) (u.palEntry th.ctx (srcN x.b [])) = true) ∧ w = u ∧
    k = .sr [cvtnWord (srcN x.c []) .sr (fun i => nibble (u.pktOf th) th.wid (th.rcount.toNat + u.srPending a + i))
      (runValues t (packElems (srcN x.c [])) v.a)] (packElems (srcN x.c [])) (srcN x.b [])
      (amaxAll (runValues t (packElems (srcN x.c [])) v.a)))) ∧
  (∀ x t, Completes (.cvtw x t) (fun v => fPack t ((unpackWord (srcN x.c []) (v.a.headD 0)).map (fun c =>
    (FTy.fmt t).round .rne (decodeCode (srcN x.c []) c))))) ∧
  (∀ x t m, Completes (.qnt x t m) (fun v => [packWord (srcN x.c []) ((runValues t (packElems (srcN x.c [])) v.a).map (fun e =>
    wrapTo ((codeInt (srcN x.c [])).getD (false, 8)).2 (qntCode ((codeInt (srcN x.c [])).getD (false, 8)).1
      ((codeInt (srcN x.c [])).getD (false, 8)).2 m (groupS (v.b.headD 0)) (groupZ (v.b.headD 0)) e)))])) ∧
  (∀ x t m, Completes (.dqnt x t m) (fun v => fPack t ((unpackWord (srcN x.c []) (v.a.headD 0)).map (fun c =>
    (FTy.fmt t).round m ((groupS (v.b.headD 0)).mul (Exact.ofInt ((if ((codeInt (srcN x.c [])).getD (false, 8)).1
      then sint ((codeInt (srcN x.c [])).getD (false, 8)).2 c else (c : Int)) - groupZ (v.b.headD 0)))))))))

/-- Every element of a result of FADD, FSUB, FMUL, FFMA, FMIN, FMAX, FSCALE, FDIV, FSQRT, FRCP, and of FRSQ, FEXP2, FLOG2,
FSINPI, FCOSPI and FTANH in FP32, that is a NaN is the canonical quiet NaN of its format, whatever the operands were. (R78,
R77) -/
def Obligations.CanonicalNans : Prop :=
  ∀ (i : Instr) (t : FTy),
  ((∃ x m, i = .fadd x t m ∨ i = .fsub x t m ∨ i = .fmul x t m ∨ i = .ffma x t m ∨ i = .fscale x t m ∨ i = .fdiv x t m ∨
      i = .fsqrt x t m ∨ i = .frcp x t m) ∨ (∃ x, i = .fmin x t ∨ i = .fmax x t) ∨
    (t = .f32 ∧ ∃ x, i = .frsq x ∨ i = .fexp2 x ∨ i = .flog2 x ∨ i = .fsinpi x ∨ i = .fcospi x ∨ i = .ftanh x)) →
  ∃ f, Completes i f ∧ ∀ v p, p ∈ fElems t (f v) → ((FTy.fmt t).decode p).isNan = true → p = (FTy.fmt t).nanPat

/-- BRA completes with the program counter at its own address plus four times its offset, and BRX at the aligned 64-bit address
in A. CALL and CALLX, where v1 is a multiple of 8 and at least 8 and the access gets through, complete with the private dword
at v1 - 8 holding the address of the next instruction and v1 less by 8; RET, where v1 + 8 is inside the window, with v1 more
by 8 and the aligned dword at v1 as the program counter. EXIT ends its thread; YIELD marks it yielded, and the role form
offers its squad for reassignment first; CRBAR arrives at its barrier and releases the crew's threads where all have arrived;
MARK sets the last-block identifier and, on a vector core, notes a record; PMOV copies the predicates to a register, or under
the mask in B from one. (R34, R44, R143, R144, R145, R146, R147, R150, R161, R162) -/
def Obligations.ControlInstructions : Prop :=
  ((∀ x off, JumpsIf (.bra x off) (fun _ _ => none) (fun _ t _ u pc w => pc = t.pc + BitVec.ofInt 64 (4 * off.toInt) ∧ w = u)) ∧
  (∀ x, JumpsIf (.brx x) (fun _ _ => none) (fun _ _ v u pc w => pc = dw (v.a.headD 0) (v.a.getD 1 0) ∧ pc.toNat % 4 = 0 ∧ w = u)) ∧
  (∀ x off, JumpsIf (.call x off) stackCheck (fun a t _ u pc w => ∃ sp ea pa u', sp = u.reg a t 1 ∧ sp.toNat % 8 = 0 ∧
    8 ≤ sp.toNat ∧ u.reach a t .store .pv (dword (sp.toNat - 8)) 8 = (.go ea pa, u') ∧ pc = t.pc + BitVec.ofInt 64 (4 * off.toInt) ∧
    w = (u'.gWrite (u'.portOf a t.ctx .pv) ea pa 8 (t.pc + 8).toNat).writeReg a 1 (sp - 8))) ∧
  (∀ x, JumpsIf (.callx x) stackCheck (fun a t v u pc w => ∃ sp ea pa u', sp = u.reg a t 1 ∧ sp.toNat % 8 = 0 ∧
    8 ≤ sp.toNat ∧ u.reach a t .store .pv (dword (sp.toNat - 8)) 8 = (.go ea pa, u') ∧
    pc = dw (v.a.headD 0) (v.a.getD 1 0) ∧ pc.toNat % 4 = 0 ∧
    w = (u'.gWrite (u'.portOf a t.ctx .pv) ea pa 8 (t.pc + 8).toNat).writeReg a 1 (sp - 8))) ∧
  (∀ x, JumpsIf (.ret x) stackCheck (fun a t _ u pc w => ∃ sp ea pa u' x u'', sp = u.reg a t 1 ∧ sp.toNat % 8 = 0 ∧
    sp.toNat + 8 ≤ t.privSize ∧ u.reach a t .load .pv (dword sp.toNat) 8 = (.go ea pa, u') ∧
    u'.gRead (u'.portOf a t.ctx .pv) ea pa 8 = (x, false, u'') ∧ pc = dword x ∧ pc.toNat % 4 = 0 ∧
    w = u''.writeReg a 1 (sp + 8)))) ∧
  ((∀ x, EndsIf (.exit x) (fun a _ _ _ u w => w = u.exitThread a)) ∧
  (∀ x, CompletesIf (.yield x) (fun a _ _ u ws w => ws = [] ∧ w = u.yieldNow a)) ∧
  (∀ x, CompletesIf (.yieldRole x) (fun a _ _ u ws w => ws = [] ∧ w = (if isVector a then u.reassign a else u).yieldNow a)) ∧
  (∀ x, EndsIf (.crbar x) (fun a _ _ _ u w => w = (u.arriveWait a 1 (.crbar (immC x))).releaseBarrier (crewOf a))) ∧
  (∀ x id, CompletesIf (.mark x id) (fun a t _ u ws w => ws = [] ∧ let u := u.updThread a (fun t => { t with lastBlock := id });
    w = if isVector a then { u with grp := { u.grp with marks := u.grp.marks ++ [(u.coreOf a, squadKey a, laneOf a, id, t.lastBlock)] } } else u)) ∧
  (∀ x, x.d ≠ .none → CompletesIf (.pmov x) (fun _ t _ u ws w => ws = [t.preds.setWidth 32] ∧ w = u)) ∧
  (∀ x, x.d = .none → CompletesIf (.pmov x) (fun a _ v u ws w => ws = [] ∧ (v.b.headD 0).toNat < 2 ^ 24 ∧ ∃ f : BitVec 24 → BitVec 24,
    (∀ p i, i < 24 → (f p).getLsbD i = if (v.b.headD 0).getLsbD i then (v.a.headD 0).getLsbD i else p.getLsbD i) ∧
    w = u.updThread a (fun t => { t with preds := f t.preds }))))

/-- NAP takes n from the low 16 bits of register B, or the immediate 0-255. With n = 0 it completes without waiting. Otherwise it
completes with its thread waiting, and the wait does not end before n core cycles of the core it issued on have passed; once they have,
NAP_EXPIRE lets the thread of a resident crew go on past the instruction. That a saved thread's cycles are those of the core it napped
on is the model's choice (assumption log 48, NAP). (R148) -/
def Obligations.NapWaits : Prop :=
  (∀ x (s : State) (a : Actor) t v d u, Issues s (issOf (.nap x)) none a t v d u →
    let n := (match x.c with
      | .imm i => i.toNat
      | _ => (v.b.headD 0).toNat % 2 ^ 16);
    (n = 0 → exec (.nap x) s = .next (retires u a t (issOf (.nap x)) d v [])) ∧
    (n ≠ 0 → exec (.nap x) s = .next (u.arriveWait a 1 (.nap (u.issuerOf a) (u.cycle (u.issuerOf a) + n))))) ∧
  (∀ (s : State) (a : Actor) t i k, s.thread? a = some t → t.wait = .nap i k → s.cycle i < k → exec (.napExpire a) s = .next s) ∧
  (∀ (s : State) (a : Actor) t i k, s.thread? a = some t → t.wait = .nap i k → k ≤ s.cycle i → s.resident a = true →
    ∃ w t', exec (.napExpire a) s = .next w ∧ w.thread? a = some t' ∧ t'.wait = s.restWait a ∧ t'.pc = t.pc + 8)

/-- REGB has every operand field zero. While a long-latency result of the thread is outstanding it does not issue and its thread
stays where it is; otherwise it completes, closes the open region, opens one, and records the start address and the nine
counters. (R163) -/
def Obligations.RegionBegins : Prop :=
  (∀ ws x, decodeWords ws = .ok (.regb x) → x.d = .none ∧ x.a = .none ∧ x.b = .none ∧ x.c = .none ∧ x.la = 0) ∧
  (∀ x (s : State) (a : Actor) t v d u, Issues s (issOf (.regb x)) none a t v d u → (u.flightsOf a).any (·.long) = true →
    exec (.regb x) s = .next (s.stall a .none)) ∧
  (∀ x, CompletesIf (.regb x) (fun a t _ u ws w => ws = [] ∧ (u.flightsOf a).any (·.long) = false ∧
    w = u.updThread a (fun u => { u with region := some ⟨t.pc, t.dcount, t.rcount⟩, written := [] })))

/-- A decoded BKPT has an immediate code in C. Whenever a thread of a vector core that is neither in its handler nor of a task
behind the frontier issues it, it completes with cause BREAKPOINT, DETAIL the code and EPC the address of the next
instruction: entered, with the program counter at the handler entry, where the thread's outstanding results are written or
parked, and else pending until they are. (R166) -/
def Obligations.Breakpoints : Prop :=
  (∀ ws x, decodeWords ws = .ok (.bkpt x) → ∃ k, x.c = .imm k) ∧
  (∀ x k (s : State) r t v d u, x.c = .imm k → Issues s (issOf (.bkpt x)) none (.thread r) t v d u → t.inHandler = false → t.reissuing = false →
    u.speculative (.thread r) = false → ∃ w t', exec (.bkpt x) s = .next w ∧ w.thread? (.thread r) = some t' ∧
    (u.settled (.thread r) = true → t'.inHandler = true ∧ t'.pc = (u.pktOf t).hentry ∧ t'.trap.cause = 0xA0 ∧
      t'.trap.detail = k.setWidth 64 ∧ t'.trap.epc = t.pc + 8) ∧
    (u.settled (.thread r) = false → t'.wait = .trap ∧ ∃ c q, t'.pending = some (c, q) ∧ q.cause = 0xA0 ∧
      q.detail = k.setWidth 64 ∧ q.epc = t.pc + 8))

/-- A decoded TRAP has an immediate below 16 in C. Whenever a thread of a vector core that is neither in its handler nor of a
task behind the frontier issues it with its results settled, it completes in the handler: the trap record holds cause 0x30 +
n, the EPC after the TRAP, the WID, the address of the TRAP and the low predicates and registers; the program counter is the
packet's handler entry, and no region is open. (R167, R436, R437, R438) -/
def Obligations.TrapsTaken : Prop :=
  (∀ ws x, decodeWords ws = .ok (.trap x) → ∃ k, x.c = .imm k ∧ k.toNat < 16) ∧
  (∀ x k (s : State) r t v d u, x.c = .imm k → Issues s (issOf (.trap x)) none (.thread r) t v d u → t.inHandler = false → t.reissuing = false →
    u.speculative (.thread r) = false → u.settled (.thread r) = true → ∃ w t', exec (.trap x) s = .next w ∧
    w.thread? (.thread r) = some t' ∧ t'.inHandler = true ∧ t'.pc = (u.pktOf t).hentry ∧ t'.region = none ∧
    t'.trap.cause = 0x30 + k.toNat ∧ t'.trap.epc = t.pc + 8 ∧ t'.trap.ewid = t.wid ∧ t'.trap.fpc = t.pc ∧
    t'.trap.savep = word (t.preds.toNat % 256) ∧ (∀ i, i < 8 → i < t.nregs → cget 0 t'.trap.savev i = cget 0 t.regs i) ∧
    t'.regs = t.regs ∧ t'.preds = t.preds ∧ w.mem = s.mem)

/-- VOTE, SHFL, REDUX, SCAN, MATCH and SQBAR, whose mask names the own lane and only lanes of its tile, and PART with a code 1-5,
complete their issue with the thread waiting at the collective with its captured operands, its program counter unmoved, and
every waiting collective of the squad checked next. MEETING_ISSUE of a waiting resident lane whose named lanes are all
unexited and wait at the same program counter with the same instruction and mask completes with their meeting formed; of a
lane at PART, where every live lane waits at PART with one code and no other meeting can issue, the same. Of a lane of a formed
meeting that stands in the issue group and whose members' earlier instructions have taken their effect, it completes with
the whole meeting issued, and PART sets PART to its code. That PARTs at different program counters meet is the model's choice
(assumption log 25, meetings). (R28, R36, R37, R40, R151, R152, R159) -/
def Obligations.CollectivesIssue : Prop :=
  ((∀ x k, EndsIf (.vote x k) (Arrives (.vote x k) (meetMask x))) ∧
  (∀ x k t, EndsIf (.shfl x k t) (Arrives (.shfl x k t) (shflMask x))) ∧
  (∀ x op t, EndsIf (.redux x op t) (Arrives (.redux x op t) (meetMask x))) ∧
  (∀ x op t, EndsIf (.scan x op t) (Arrives (.scan x op t) (meetMask x))) ∧
  (∀ x t, EndsIf (.matchL x t) (Arrives (.matchL x t) (meetMask x))) ∧
  (∀ x, EndsIf (.sqbar x) (Arrives (.sqbar x) (meetMask x))) ∧
  (∀ x, EndsIf (.part x) (fun a t v d u w => 1 ≤ (meetMask x v).toNat ∧ (meetMask x v).toNat ≤ 5 ∧
    w = (u.arriveWait a 1 (.meeting ⟨.part x, t.pc, word (u.liveMask (squadKey a)), v.all, d⟩)).checkMeetings (squadKey a)))) ∧
  ((∀ (s : State) t m ms, (s.thread? (.thread t)).bind (·.met) = none → s.resident (.thread t) = true →
    s.memberAt (t.crew, t.squad, t.shadow) t.lane = some m → isPart m.arr.instr = false →
    (lanesOf m.arr.mask.toNat).find? (s.laneExited (t.crew, t.squad, t.shadow)) = none →
    s.meetingOf (t.crew, t.squad, t.shadow) m.arr.mask.toNat = some ms → ms.all (agree m) = true →
    exec (.meetingIssue t) s = .next (s.formMeeting m.arr.mask.toNat ms)) ∧
  (∀ (s : State) t m ms, t.lane < 32 → (s.thread? (.thread t)).bind (·.met) = none → s.resident (.thread t) = true →
    s.memberAt (t.crew, t.squad, t.shadow) t.lane = some m → isPart m.arr.instr = true →
    s.meetingOf (t.crew, t.squad, t.shadow) (s.liveMask (t.crew, t.squad, t.shadow)) = some ms →
    s.goodOther (t.crew, t.squad, t.shadow) = false → ms.all (agreePart m) = true →
    exec (.meetingIssue t) s = .next (s.formMeeting (s.liveMask (t.crew, t.squad, t.shadow)) ms)) ∧
  (∀ (s : State) t y, (s.thread? (.thread t)).bind (·.met) = some y → s.grp.members.contains (.thread t) = true →
    s.meetingReady t = true →
    exec (.meetingIssue t) s = .next (s.issueMeeting (t.crew, t.squad, t.shadow) (s.formedWith t)) ∧
    ∀ m r x q, s.formedWith t = m :: r → m.arr.instr = .part x → s.squad? (t.crew, t.squad, t.shadow) = some q →
      ∃ q', (s.issueMeeting (t.crew, t.squad, t.shadow) (m :: r)).squad? (t.crew, t.squad, t.shadow) = some q' ∧
        q'.part = (meetMask x m.vals).toNat))

/-- In a meeting, VOTE.ballot gives bit j where member lane j captured 1, .any and .all whether some or every member did; MATCH
the members whose value equals the own one, the own bit among them; SHFL the value of the member at the source position of
the tile, else the own; REDUX the tree over the tile with identities at absent positions, and SCAN the position's inclusive
prefix, a NaN of a floating type in its canonical pattern. (R153, R154, R156, R157, R158, R39, R78) -/
def Obligations.MeetingResults : Prop :=
  ∀ (ms : List Member) (k : Nat) (m : Member), k ≤ 5 → m ∈ ms → (∀ u ∈ ms, u.ref.lane < 32) →
  (∀ u ∈ ms, ∀ w ∈ ms, u.ref.lane = w.ref.lane → u = w) →
  (∀ x, m.arr.instr = .vote x .ballot → ∃ r, memberWords ms (2 ^ k) m = [r] ∧
    ∀ j, j < 32 → (r.getLsbD j = true ↔ ∃ u ∈ ms, u.ref.lane = j ∧ u.a % 2 = 1)) ∧
  (∀ x, m.arr.instr = .vote x .any → memberWords ms (2 ^ k) m = [if ∃ u ∈ ms, u.a % 2 = 1 then 1 else 0]) ∧
  (∀ x, m.arr.instr = .vote x .all → memberWords ms (2 ^ k) m = [if ∀ u ∈ ms, u.a % 2 = 1 then 1 else 0]) ∧
  (∀ x t, m.arr.instr = .matchL x t → ∃ r, memberWords ms (2 ^ k) m = [r] ∧ r.getLsbD m.ref.lane = true ∧
    ∀ j, j < 32 → (r.getLsbD j = true ↔ ∃ u ∈ ms, u.ref.lane = j ∧ u.a = m.a)) ∧
  (∀ x h t, m.arr.instr = .shfl x h t → ∃ q, q < 2 ^ k ∧
    q = (match h with
      | .idx => (m.vals.b.headD 0).toNat
      | .up => m.ref.lane % 2 ^ k + 2 ^ k - (m.vals.b.headD 0).toNat % 2 ^ k
      | .down => m.ref.lane % 2 ^ k + (m.vals.b.headD 0).toNat
      | .xorl => m.ref.lane % 2 ^ k ^^^ (m.vals.b.headD 0).toNat) % 2 ^ k ∧
    (∀ u ∈ ms, u.ref.lane = m.ref.lane / 2 ^ k * 2 ^ k + q → memberWords ms (2 ^ k) m = wordsOf t.wide u.a) ∧
    ((∀ u ∈ ms, u.ref.lane ≠ m.ref.lane / 2 ^ k * 2 ^ k + q) → memberWords ms (2 ^ k) m = wordsOf t.wide m.a)) ∧
  (∀ x op t, m.arr.instr = .redux x op t → memberWords ms (2 ^ k) m = wordsOf t.wide (treeOf (redApply op t) k
    ((List.range (2 ^ k)).map (fun i => ((ms.find? (fun u => u.ref.lane == m.ref.lane / 2 ^ k * 2 ^ k + i)).map Member.a).getD
      (redIdentity op t))))) ∧
  (∀ x op t, m.arr.instr = .scan x op t → memberWords ms (2 ^ k) m = canonWords t (wordsOf t.wide ((scanOf (redApply op t) k 1
    ((List.range (2 ^ k)).map (fun i => ((ms.find? (fun u => u.ref.lane == m.ref.lane / 2 ^ k * 2 ^ k + i)).map Member.a).getD
      (redIdentity op t)))).getD (m.ref.lane % 2 ^ k) 0)))

/-- A decoded SQBAR has no operand but the mask in S. When the formed meeting of an SQBAR in the issue group issues, every member
goes on past it (unless a Basin command of its own still waits, it waits on nothing), and no register, predicate, channel or special
register of any thread, no squad or crew, and no byte of memory changes; every other thread of the machine is as before. (R160) -/
def Obligations.SquadBarrier : Prop :=
  (∀ ws x, decodeWords ws = .ok (.sqbar x) → x.d = .none ∧ x.a = .none) ∧
  (∀ (s : State) t y ms, (s.thread? (.thread t)).bind (·.met) = some y → s.grp.members.contains (.thread t) = true →
    s.meetingReady t = true → s.formedWith t = ms → (∀ u ∈ ms, (∃ x, u.arr.instr = .sqbar x) ∧ u.arr.dest = .none) →
    ∃ w, exec (.meetingIssue t) s = .next w ∧ w.mem = s.mem ∧ w.l1 = s.l1 ∧ w.squads = s.squads ∧ w.crews = s.crews ∧
      ∀ a b, s.thread? a = some b → ∃ b', w.thread? a = some b' ∧ b'.regs = b.regs ∧ b'.preds = b.preds ∧ b'.chans = b.chans ∧
        b'.dcount = b.dcount ∧ b'.rcount = b.rcount ∧ b'.trap = b.trap ∧
        (∀ u ∈ ms, a = .thread u.ref → b'.wait = s.restWait a ∧ b'.met = none ∧ b'.pc = u.arr.pc + 8) ∧
        ((∀ u ∈ ms, a ≠ .thread u.ref) → b' = b))

/-- Where the checks of R137 pass and no draw that a counter read or write waits for is pending, MOVS completes with the named
register: WID, LANE, SQUAD, CREW, PART, ROLE, SEED, DCOUNT, RCOUNT, CVBASE, BANKCONF, SHAPE, CAUSE, DETAIL, EPC and EWID as
stored, CORE as the core's place (off the management processor), TSKEY and LINEAGE as the halves of the task's key, 0 outside a
domain, FRONTIER as a key not above the frontier's and not below what the thread read before, all ones outside a domain; and MOVSW
with DCOUNT, RCOUNT or BANKCONF as written, EPC on a parcel boundary. A number outside the table and a write of a read-only number
raise RESERVED_FIELD, a handler-only number elsewhere PRIVILEGED, a write of DCOUNT or RCOUNT under RECORD or REPLAY too, a number
that a scalar core does not read WRONG_ENGINE there. A read of CLOCK gives a value of at least every value the
thread read before, at least the cycle counter of its core, and the thread remembers it; the cycle counter is 0 at reset.
That the thread remembers its last reading is the model's own (assumption log 8, CLOCK): the spec says only that two reads by
one thread never decrease; so, too, it remembers the last FRONTIER. (R23, R25, R26, R136, R137, R138, R139, R299, R366, R367) -/
def Obligations.SpecialRegisterMoves : Prop :=
  ((∀ x, CompletesAs (.movs x) (fun _ => issOf (.movs (movsArgs x))) (specialCheck (regNumber x) false)
    (fun a t _ u ws w => u.drawsPending a (regNumber x) = false ∧ u.readSpecial a t (regNumber x) = (ws, w))) ∧
  (∀ x, CompletesAs (.movsw x) (fun _ => issOf (.movsw x)) (specialCheck (regNumber x) true)
    (fun a _ v u ws w => u.drawsPending a (regNumber x) = false ∧ ws = [] ∧ w = u.writeSpecial a (regNumber x) v.a)) ∧
  (∀ (s : State) (a : Actor) t q, isVector a = true → s.squad? (squadKey a) = some q → let pk := s.pktOf t;
    s.readSpecial a t 0x00 = (wordsOf true t.wid.toNat, s) ∧ s.readSpecial a t 0x01 = ([word (t.wid.toNat % 32)], s) ∧
    s.readSpecial a t 0x02 = ([word (t.wid.toNat / 2 ^ 5 % 2 ^ pk.w1)], s) ∧
    s.readSpecial a t 0x03 = (wordsOf true (t.wid.toNat / 2 ^ (5 + pk.w1)), s) ∧
    s.readSpecial a t 0x05 = ([word q.part], s) ∧ s.readSpecial a t 0x06 = ([q.role.setWidth 32], s) ∧
    s.readSpecial a t 0x10 = (wordsOf true pk.seed.toNat, s) ∧ s.readSpecial a t 0x1A = (wordsOf true pk.cvbase.toNat, s) ∧
    s.readSpecial a t 0x19 = ([t.rcount], s) ∧ s.readSpecial a t 0x30 = ([word t.trap.cause], s) ∧
    s.readSpecial a t 0x31 = (wordsOf true t.trap.detail.toNat, s) ∧ s.readSpecial a t 0x32 = (wordsOf true t.trap.epc.toNat, s) ∧
    s.readSpecial a t 0x33 = (wordsOf true t.trap.ewid.toNat, s) ∧
    (∀ n, n < 8 → s.readSpecial a t (0x11 + n) = ([cget 0 t.dcount n], s) ∧ s.readSpecial a t (0x28 + n) = ([pk.shape.getD n 0], s))) ∧
  (∀ (s : State) (a : Actor) t c, s.crew? (crewOf a) = some c → s.readSpecial a t 0x20 = ([c.bankconf], s)) ∧
  (∀ (s : State) (a : Actor) t, a ≠ .mp → let k := s.coreOf a;
    s.readSpecial a t 0x04 = ([word (k % 4 + 4 * (k / 4 % 20) + 128 * (k / 80))], s) ∧ (isVector a = false → k % 4 = 0)) ∧
  (∀ (s : State) (a : Actor) t k, s.taskOf a = some k → s.readSpecial a t 0x08 = (wordsOf true (k.key / 2 ^ 64), s) ∧
    s.readSpecial a t 0x09 = (wordsOf true (k.key % 2 ^ 64), s)) ∧
  (∀ (s : State) (a : Actor) t, s.taskOf a = none → s.readSpecial a t 0x08 = ([0, 0], s) ∧ s.readSpecial a t 0x09 = ([0, 0], s) ∧
    (t.frontierSeen = none → (s.readSpecial a t 0x0A).1 = List.replicate 4 (BitVec.allOnes 32))) ∧
  (∀ (s : State) (a : Actor) t, s.thread? a = some t → let f := s.frontierKey a t; ∃ r t', (s.readSpecial a t 0x0A).1 = wordsOf true r ++
    wordsOf true (r / 2 ^ 64) ∧ (s.readSpecial a t 0x0A).2.thread? a = some t' ∧ t'.frontierSeen = some r ∧ r ≤ f ∧
    (∀ o, t.frontierSeen = some o → o ≤ f → o ≤ r) ∧ (t.frontierSeen = none → r = f)) ∧
  (∀ (s : State) (a : Actor) k l n t, s.taskOf a = some k → t.launch = some l → s.frontier l = some n → s.frontierKey a t = n) ∧
  (∀ (s : State) (a : Actor) t w, s.thread? a = some t → ∃ t', (s.writeSpecial a 0x32 w).thread? a = some t' ∧ t'.trap.epc = dword (natOf w / 4 * 4)) ∧
  (∀ (s : State) (a : Actor) t n w, s.thread? a = some t → n < 8 → (s.writeSpecial a (0x11 + n) w).thread? a =
    some { t with dcount := cset 0 t.dcount n (w.headD 0) }) ∧
  (∀ (s : State) (a : Actor) t w, s.thread? a = some t → (s.writeSpecial a 0x19 w).thread? a = some { t with rcount := w.headD 0 }) ∧
  (∀ (s : State) (a : Actor) c w, s.crew? (crewOf a) = some c → (s.writeSpecial a 0x20 w).crew? (crewOf a) =
    some { c with bankconf := w.headD 0 }) ∧
  (∀ (s : State) (a : Actor) t n, isVector a = true → 0x11 ≤ n → n ≤ 0x19 → ((s.pktOf t).record = true ∨ (s.pktOf t).replay = true) →
    specialCheck n true s a t = some { code := 0x08 }) ∧
  (∀ (s : State) (a : Actor) t n w, isVector a = false → scalarReads n = false → specialCheck n w s a t = some { code := 0x07 }) ∧
  (∀ (s : State) (a : Actor) t n, isVector a = true → n < 0x100 → (specialRegs n).isNone = true → specialCheck n false s a t = some { code := 0x03 }) ∧
  (∀ (s : State) (a : Actor) t n w, isVector a = true → 0x30 ≤ n → n ≤ 0x33 → t.inHandler = false → t.ctx ≠ 0 → specialCheck n w s a t = some { code := 0x08 }) ∧
  (∀ (s : State) (a : Actor) t n, isVector a = true → specialWritable n = false → n < 0x30 → specialCheck n true s a t = some { code := 0x03 })) ∧
  ((∀ i, State.reset.cycle i = 0) ∧
  (∀ (s : State) (a : Actor) t, s.thread? a = some t → ∃ k t', (s.readSpecial a t 0x21).1 = wordsOf true k ∧
    (s.readSpecial a t 0x21).2.thread? a = some t' ∧ t.clockSeen ≤ k ∧ s.cycle (s.issuerOf a) ≤ k ∧ t'.clockSeen = k ∧
    (k = t.clockSeen ∨ k = s.cycle (s.issuerOf a))))

/-- LD and ST, in both forms, complete where the checks of R199 let the access through: LD with the value of its width there,
extended as the width says, ST with the low bytes of C stored there. LDT and STT complete where the Palette entry has a format code
0x01-0x0C, every piece of every element inside the extents gets through and no limit of a task holds them: LDT with the packed
elements, STT with the elements written. The words of a loaded value of 1, 2, 4 or 8 bytes: one word, zero-extended for the unsigned
widths and sign-extended for the signed ones, two words with the low first for 8 bytes. (R7, R197, R198, R199, R203, R205) -/
def Obligations.LoadsAndStores : Prop :=
  ((∀ x k sp, CompletesIf (.ld x k sp) (Loads sp k.bytes (Width.sgn k) (offsetOf x))) ∧
  (∀ x k sp l, CompletesIf (.ldLong x k sp l) (Loads sp k.bytes (Width.sgn k) l.toInt)) ∧
  (∀ x k sp, CompletesIf (.st x k sp) (Stores sp k.bytes (offsetOf x))) ∧
  (∀ x k sp l, CompletesIf (.stLong x k sp l) (Stores sp k.bytes l.toInt)) ∧
  (∀ x (s : State) (a : Actor) t v d u l w, palOk (immOf x.c) (s.palEntry t.ctx (immOf x.c)) = true → let e := s.palEntry t.ctx (immOf x.c);
    let y := if palFormat e = 12 ∧ guardOn t x.guard = true then { x with d := Opnd.asPair x.d } else x;
    let p := { issOf (.ldt x) with x := y };
    Issues s p (if palFormat e = 12 ∧ x.d.isChan = true then some { code := 0x03 } else none) a t v d u →
    u.reachPieces a t .load (isScratchEnt e) (tensorPieces e v.a) = (.ok l, w) → w.limitPieces a t .load (isScratchEnt e) l = none →
    let r := w.readElems (crewOf a) (w.portOf a t.ctx .g) (isScratchEnt e) (codeWidth (palFormat e))
      (cutPieces (codeWidth (palFormat e)) (tensorBits e v.a) l);
    r.2.1 = false → exec (.ldt x) s = .next (retires
      (if isScratchEnt e then r.2.2.touchScratch (crewOf a) (tensorPieces e v.a) else r.2.2) a t p d v (tensorWords e r.1))) ∧
  (∀ x (s : State) (a : Actor) t v d u l w, palOk (immOf x.c) (s.palEntry t.ctx (immOf x.c)) = true → let e := s.palEntry t.ctx (immOf x.c);
    let y := if palFormat e = 12 ∧ guardOn t x.guard = true then { x with b := Opnd.asPair x.b } else x;
    let p := { issOf (.stt x) with x := y };
    Issues s p none a t v d u → u.reachPieces a t .store (isScratchEnt e) (tensorPieces e v.a) = (.ok l, w) →
    w.limitPieces a t (if codeWidth (palFormat e) < 8 then .atomic else .store) (isScratchEnt e) l = none →
    let r := w.writeElems (crewOf a) (w.portOf a t.ctx .g) (isScratchEnt e) (codeWidth (palFormat e))
      (dw (v.b.headD 0) (v.b.getD 1 0)).toNat (cutPieces (codeWidth (palFormat e)) (tensorBits e v.a) l);
    exec (.stt x) s = .next (retires (if isScratchEnt e then r.touchScratch (crewOf a) (tensorPieces e v.a) else r) a t p d v []))) ∧
  ((∀ x, x < 2 ^ 8 → natOf (loadWords 1 false x) = x ∧ loadWords 1 true x = [BitVec.ofInt 32 (sint 8 x)]) ∧
  (∀ x, x < 2 ^ 16 → natOf (loadWords 2 false x) = x ∧ loadWords 2 true x = [BitVec.ofInt 32 (sint 16 x)]) ∧
  (∀ x, x < 2 ^ 32 → natOf (loadWords 4 false x) = x ∧ (loadWords 4 false x).length = 1) ∧
  (∀ x, x < 2 ^ 64 → natOf (loadWords 8 false x) = x ∧ (loadWords 8 false x).length = 2))

/-- An access whose address is not a multiple of its size is MISALIGNED before any other cause; an aligned scratch access past the
crew's footprint is SCRATCH_RANGE, and inside it reaches that offset; a private access past the window is PROTECTION; each
with the address and the access in the cause, and nothing of the state changed. An access of a speculative task to host or peer memory is
held until the task is the frontier, before any of these. (R199, R384, R441) -/
def Obligations.AccessChecks : Prop :=
  (∀ (s : State) (a : Actor) t k sp ea n, 0 < n → ea.toNat % n ≠ 0 → (sp = .g → s.awaitsFrontier a ea = false) →
    s.reach a t k sp ea n = (.bad (memCause 0x43 ea k sp n), s)) ∧
  (∀ (s : State) (a : Actor) t k ea n, (ea.toNat / 2 ^ 56 = 4 ∨ ea.toNat / 2 ^ 56 = 5) → s.speculative a = true →
    s.reach a t k .g ea n = (.hold .frontier, s)) ∧
  (∀ (s : State) (a : Actor) t k ea n, ea.toNat % n = 0 → s.footprint (crewOf a) < ea.toNat + n → s.reach a t k .x ea n = (.bad (memCause 0x46 ea k .x n), s)) ∧
  (∀ (s : State) (a : Actor) t k ea n, ea.toNat % n = 0 → ea.toNat + n ≤ s.footprint (crewOf a) → s.reach a t k .x ea n = (.scratch ea.toNat, s)) ∧
  (∀ (s : State) (a : Actor) t k ea n, ea.toNat % n = 0 → t.privSize < ea.toNat + n → s.reach a t k .pv ea n = (.bad (memCause 0x41 ea k .pv n), s)) ∧
  (∀ (s : State) (a : Actor) t k ea n, ea.toNat % n = 0 → 6 ≤ ea.toNat / 2 ^ 56 → a ≠ .mp → s.parkedOn a t.ctx ea = false → s.ownEarlier a ea n = none →
    s.donePending a ea n = false →
    ∃ w, s.reach a t k .g ea n = (.bad (memCause 0x42 ea k .g n), w))

/-- ATOM, where its access gets through, completes with D the old word and the word at its home the named function of the old
word and C in 32 bits: the wrapped sum, C itself, the bitwise and or or, the signed or unsigned minimum or maximum. (R207) -/
def Obligations.AtomicOperations : Prop :=
  (∀ x op sc, ∃ f, CompletesIf (.atom x op sc) (Atomics 4 (AtomOp.atRoot op) sc (offsetOf x) f) ∧
    ∀ v x, x < 2 ^ 32 → f v x = atomSpec op x (v.c.headD 0).toNat) ∧
  (∀ x op sc l, ∃ f, CompletesIf (.atomLong x op sc l) (Atomics 4 (AtomOp.atRoot op) sc l.toInt f) ∧
    ∀ v x, x < 2 ^ 32 → f v x = atomSpec op x (v.c.headD 0).toNat)

/-- ATOMCAS, whose C is a run of 2, or of 4 in the 64-bit form, completes where its access gets through with D the old value; the
word becomes the new value where old equals the comparand bit for bit, and keeps its value otherwise. (R208) -/
def Obligations.CompareAndSwap : Prop :=
  (∀ ws x k sc, decodeWords ws = .ok (.atomcas x k sc) → ∃ c, x.c = .run c (if k then 4 else 2)) ∧
  (∀ ws x k sc l, decodeWords ws = .ok (.atomcasLong x k sc l) → ∃ c, x.c = .run c (if k then 4 else 2)) ∧
  (∀ x k sc, ∃ f, CompletesIf (.atomcas x k sc) (Atomics (if k then 8 else 4) true sc (offsetOf x) f) ∧
    ∀ v x, v.c.length = (if k then 4 else 2) → f v x =
      (if x = natOf (v.c.take (if k then 2 else 1)) then natOf (v.c.drop (if k then 2 else 1)) else x)) ∧
  (∀ x k sc l, ∃ f, CompletesIf (.atomcasLong x k sc l) (Atomics (if k then 8 else 4) true sc l.toInt f) ∧
    ∀ v x, v.c.length = (if k then 4 else 2) → f v x =
      (if x = natOf (v.c.take (if k then 2 else 1)) then natOf (v.c.drop (if k then 2 else 1)) else x))

/-- ATOMF, where its access gets through, completes with D the old word and the word combined with C: rounded FP32, FP16 or BF16
sums, or the picks of FMIN and FMAX. FENCE completes once the thread's earlier writes are performed, with the core's dirty
bytes of the context written back past CREW scope and its clean copies dropped; ACQ with the object read at the point of
coherence and the bound copies dropped; REL with the bound dirty bytes written back, then the object stored, or with both posted
behind earlier writes of the thread to the bound regions that are still to be performed; BIND with a new
binding added, or the table left as it is for length 0 or a binding it holds; PROMO with every core's dirty bytes of the
object and its regions written back. (R206, R209, R210, R211, R212, R214, R215, R216) -/
def Obligations.FencesAndReleases : Prop :=
  ((∀ x op sc, CompletesIf (.atomf x op sc) (Atomics 4 false sc (offsetOf x) (fun v x => atomfNew op x (v.c.headD 0).toNat))) ∧
  (∀ x op sc l, CompletesIf (.atomfLong x op sc l) (Atomics 4 false sc l.toInt (fun v x => atomfNew op x (v.c.headD 0).toNat)))) ∧
  ((∀ x sc, CompletesIf (.fence x sc) (fun a t _ u ws w => ws = [] ∧ u.strictCause t.ctx sc = none ∧ u.drained a = true ∧
    w = (if isVector a then u.fenceL1 (u.coreOf a) t.ctx sc else if sc = .crew then u else u.stampCopies).demote t.ctx sc)) ∧
  (∀ x sc, CompletesIf (.acq x sc) (fun a t v u ws w => u.strictCause t.ctx sc = none ∧ ∃ ea pa u' y u'',
    u.reach a t .load .g (memEa .g v.a (offsetOf x)) 8 = (.go ea pa, u') ∧
    (if sc = .crew then u'.gRead (u'.portOf a t.ctx .g) ea pa 8 else u'.gReadHome (u'.portOf a t.ctx .g) ea pa 8) = (y, false, u'') ∧
    ws = [word y, word (y / 2 ^ 32)] ∧ w = (u''.acquireObj a (u'.coreOf a) t.ctx ea sc).demote t.ctx sc)) ∧
  (∀ x sc l, CompletesIf (.acqLong x sc l) (fun a t v u ws w => u.strictCause t.ctx sc = none ∧ ∃ ea pa u' y u'',
    u.reach a t .load .g (memEa .g v.a l.toInt) 8 = (.go ea pa, u') ∧
    (if sc = .crew then u'.gRead (u'.portOf a t.ctx .g) ea pa 8 else u'.gReadHome (u'.portOf a t.ctx .g) ea pa 8) = (y, false, u'') ∧
    ws = [word y, word (y / 2 ^ 32)] ∧ w = (u''.acquireObj a (u'.coreOf a) t.ctx ea sc).demote t.ctx sc)) ∧
  (∀ x sc, SendsIf (.rel x sc) (fun _ => issOf (.rel x sc)) (fun a t v u k w => u.strictCause t.ctx sc = none ∧ ∃ ea pa u',
    u.reach a t .store .g (memEa .g v.a (offsetOf x)) 8 = (.go ea pa, u') ∧ u'.boundPending a t.ctx (u'.boundTo a t.ctx ea) u'.next = true ∧
    k = .rel ea (dw (v.c.headD 0) (v.c.getD 1 0)) sc (u'.boundTo a t.ctx ea) ∧ w = u')) ∧
  (∀ x sc, CompletesIf (.rel x sc) (fun a t v u ws w => ws = [] ∧ u.strictCause t.ctx sc = none ∧ ∃ ea pa u',
    u.reach a t .store .g (memEa .g v.a (offsetOf x)) 8 = (.go ea pa, u') ∧ u'.boundPending a t.ctx (u'.boundTo a t.ctx ea) u'.next = false ∧
    w = (((u'.releaseObj t.ctx (u'.boundTo a t.ctx ea) sc).relStore (u'.portOf a t.ctx .g) ea pa
      (dw (v.c.headD 0) (v.c.getD 1 0)).toNat sc).markReleased a u'.next).demote t.ctx sc)) ∧
  (∀ x sc l, SendsIf (.relLong x sc l) (fun _ => issOf (.relLong x sc l)) (fun a t v u k w => u.strictCause t.ctx sc = none ∧ ∃ ea pa u',
    u.reach a t .store .g (memEa .g v.a l.toInt) 8 = (.go ea pa, u') ∧ u'.boundPending a t.ctx (u'.boundTo a t.ctx ea) u'.next = true ∧
    k = .rel ea (dw (v.c.headD 0) (v.c.getD 1 0)) sc (u'.boundTo a t.ctx ea) ∧ w = u')) ∧
  (∀ x sc l, CompletesIf (.relLong x sc l) (fun a t v u ws w => ws = [] ∧ u.strictCause t.ctx sc = none ∧ ∃ ea pa u',
    u.reach a t .store .g (memEa .g v.a l.toInt) 8 = (.go ea pa, u') ∧ u'.boundPending a t.ctx (u'.boundTo a t.ctx ea) u'.next = false ∧
    w = (((u'.releaseObj t.ctx (u'.boundTo a t.ctx ea) sc).relStore (u'.portOf a t.ctx .g) ea pa
      (dw (v.c.headD 0) (v.c.getD 1 0)).toNat sc).markReleased a u'.next).demote t.ctx sc)) ∧
  (∀ x, CompletesIf (.bind x) (fun _ t v u ws w => ws = [] ∧ (memEa .g v.a (offsetOf x)).toNat % 8 = 0 ∧
    let b := (memEa .g v.a (offsetOf x), dw (v.d.headD 0) (v.d.getD 1 0), v.c.headD 0);
    (((v.c.headD 0 = 0 ∨ b ∈ (u.ctxOf t.ctx).bindings) ∧ w = u) ∨
     (v.c.headD 0 ≠ 0 ∧ b ∉ (u.ctxOf t.ctx).bindings ∧ (u.ctxOf t.ctx).bindings.length < 64 ∧
      w = u.updCtx t.ctx (fun c => { c with bindings := c.bindings ++ [b] }))))) ∧
  (∀ x l, CompletesIf (.bindLong x l) (fun _ t v u ws w => ws = [] ∧ (memEa .g v.a l.toInt).toNat % 8 = 0 ∧
    let b := (memEa .g v.a l.toInt, dw (v.d.headD 0) (v.d.getD 1 0), v.c.headD 0);
    (((v.c.headD 0 = 0 ∨ b ∈ (u.ctxOf t.ctx).bindings) ∧ w = u) ∨
     (v.c.headD 0 ≠ 0 ∧ b ∉ (u.ctxOf t.ctx).bindings ∧ (u.ctxOf t.ctx).bindings.length < 64 ∧
      w = u.updCtx t.ctx (fun c => { c with bindings := c.bindings ++ [b] }))))) ∧
  (∀ x sc, CompletesIf (.promo x sc) (fun a t v u ws w => ws = [] ∧ u.strictCause t.ctx sc = none ∧
    (memEa .g v.a (offsetOf x)).toNat % 8 = 0 ∧ w = (if sc = .crew then u else u.wbWhere (fun y =>
      u.inBound a t.ctx (memEa .g v.a (offsetOf x)) y || (y.ctx == t.ctx && y.gran == (memEa .g v.a (offsetOf x)).toNat / 8))).demote t.ctx sc)) ∧
  (∀ x sc l, CompletesIf (.promoLong x sc l) (fun a t v u ws w => ws = [] ∧ u.strictCause t.ctx sc = none ∧
    (memEa .g v.a l.toInt).toNat % 8 = 0 ∧ w = (if sc = .crew then u else u.wbWhere (fun y =>
      u.inBound a t.ctx (memEa .g v.a l.toInt) y || (y.ctx == t.ctx && y.gran == (memEa .g v.a l.toInt).toNat / 8))).demote t.ctx sc)))

/-- PREF in both forms completes whenever it issues, whatever its address, with nothing done beyond the advance past it. (R204) -/
def Obligations.PrefetchesOnlyAdvance : Prop :=
  (∀ x, CompletesIf (.pref x) (fun _ _ _ u ws w => ws = [] ∧ w = u)) ∧
  (∀ x l, CompletesIf (.prefLong x l) (fun _ _ _ u ws w => ws = [] ∧ w = u))

/-- UNBIND in both forms, of an object at a multiple of 8, completes with the bindings of its context that name the object gone,
every other binding and all of memory and the L1 copies as before, and the other threads of the context, which it is not ordered
before, keep those bindings; of any other object it raises MISALIGNED with the table unchanged. That they keep them until they exit
is the model's choice (assumption log 62, bindings). (R213, R247) -/
def Obligations.Unbinding : Prop :=
  (∀ x, ∃ f : Actor → Thread → Vals → Dest → State → State, LeavesIn (.unbind x) f ∧ ∀ a t v d u,
    (∀ c, ((f a t v d u).ctxOf c).bindings = if c = t.ctx ∧ (memEa .g v.a (offsetOf x)).toNat % 8 = 0
      then (u.ctxOf c).bindings.filter (fun b => b.1 != memEa .g v.a (offsetOf x)) else (u.ctxOf c).bindings) ∧
    (f a t v d u).mem = u.mem ∧ (f a t v d u).l1 = u.l1 ∧ ((memEa .g v.a (offsetOf x)).toNat % 8 = 0 → ∀ b y, b ≠ a →
      u.thread? b = some y → y.ctx = t.ctx → y.exited = false → ∃ z, (f a t v d u).thread? b = some z ∧
        ∀ p ∈ (u.ctxOf t.ctx).bindings, p.1 = memEa .g v.a (offsetOf x) → p ∈ z.kept) ∧
    ((memEa .g v.a (offsetOf x)).toNat % 8 ≠ 0 →
      f a t v d u = u.raise a (siteOf u t (issOf (.unbind x)) v.all d true)
        { code := 0x43, detail := memEa .g v.a (offsetOf x), faddr := memEa .g v.a (offsetOf x) })) ∧
  (∀ x l, ∃ f : Actor → Thread → Vals → Dest → State → State, LeavesIn (.unbindLong x l) f ∧ ∀ a t v d u,
    (∀ c, ((f a t v d u).ctxOf c).bindings = if c = t.ctx ∧ (memEa .g v.a l.toInt).toNat % 8 = 0
      then (u.ctxOf c).bindings.filter (fun b => b.1 != memEa .g v.a l.toInt) else (u.ctxOf c).bindings) ∧
    (f a t v d u).mem = u.mem ∧ (f a t v d u).l1 = u.l1 ∧ ((memEa .g v.a l.toInt).toNat % 8 = 0 → ∀ b y, b ≠ a →
      u.thread? b = some y → y.ctx = t.ctx → y.exited = false → ∃ z, (f a t v d u).thread? b = some z ∧
        ∀ p ∈ (u.ctxOf t.ctx).bindings, p.1 = memEa .g v.a l.toInt → p ∈ z.kept) ∧
    ((memEa .g v.a l.toInt).toNat % 8 ≠ 0 →
      f a t v d u = u.raise a (siteOf u t (issOf (.unbindLong x l)) v.all d true)
        { code := 0x43, detail := memEa .g v.a l.toInt, faddr := memEa .g v.a l.toInt }))

/-- WAITA completes with the word where it meets the condition, and the thread acquires; else it completes its issue with the thread
watching the word. FUTR completes with VALUE and the acquire where the future is full, and is registered where it is empty. FUTW
completes with the write-back done and the fill posted. FUTURE_FILL of a posted FUTW, its thread's earlier writes to the bound
regions performed, completes with those regions written back, the future full and every registered reader answered; WAITA_WAKE of a
met watch with D written and the thread past it; WAITA_HOST_POLL with the watch met where the host word meets it; L1_WRITEBACK with
the granule's dirty bytes written back, or its clean copy dropped; LONG_LATENCY_WRITEBACK of a ready result with it written. (R114,
R200, R217, R218, R219, R220) -/
def Obligations.WaitingOnWords : Prop :=
  ((∀ x ge sp, CompletesIf (.waita x ge sp) (fun a t v u ws w => ∃ y u', ws = [y] ∧ (if ge then v.c.headD 0 ≤ y else y ≠ v.c.headD 0) ∧
    ((∃ o, u.reach a t .load sp (memEa sp v.a (offsetOf x)) 4 = (.scratch o, u') ∧ u'.scratchFails (crewOf a) o 4 = false ∧
      y = word (u'.scratchRead (crewOf a) o 4) ∧ w = u'.waitaAcquire a t.ctx true) ∨
     (∃ ea pa x' u'', u.reach a t .load sp (memEa sp v.a (offsetOf x)) 4 = (.go ea pa, u'') ∧
      u''.gReadHome { u''.portOf a t.ctx sp with task := none } ea pa 4 = (x', false, u') ∧ y = word x' ∧
      w = u'.waitaAcquire a t.ctx false)))) ∧
  (∀ x ge sp, EndsIf (.waita x ge sp) (fun a t v _ u w => ∃ k y u', k.met y = false ∧ k.ge = ge ∧ k.cmp = v.c.headD 0 ∧ k.len = (issOf (.waita x ge sp)).len ∧
    k.hit = none ∧ k.group = u.grp.num ∧ k.dest = (match x.d with
      | .reg c => .reg c.toNat
      | _ => .none) ∧ w = u'.arriveWait a 1 (.addr k) ∧
    ((∃ o, u.reach a t .load sp (memEa sp v.a (offsetOf x)) 4 = (.scratch o, u') ∧ u'.scratchFails (crewOf a) o 4 = false ∧
      y = word (u'.scratchRead (crewOf a) o 4) ∧ k.scratch = true ∧ k.addr = dword o ∧ k.pa = 0) ∨
     (∃ ea pa x' u'', u.reach a t .load sp (memEa sp v.a (offsetOf x)) 4 = (.go ea pa, u'') ∧
      u''.gReadHome { u''.portOf a t.ctx sp with task := none } ea pa 4 = (x', false, u') ∧ y = word x' ∧
      k.scratch = false ∧ k.addr = ea ∧ k.pa = pa)))) ∧
  (∀ x ge sp l, CompletesIf (.waitaLong x ge sp l) (fun a t v u ws w => ∃ y u', ws = [y] ∧ (if ge then v.c.headD 0 ≤ y else y ≠ v.c.headD 0) ∧
    ((∃ o, u.reach a t .load sp (memEa sp v.a l.toInt) 4 = (.scratch o, u') ∧ u'.scratchFails (crewOf a) o 4 = false ∧
      y = word (u'.scratchRead (crewOf a) o 4) ∧ w = u'.waitaAcquire a t.ctx true) ∨
     (∃ ea pa x' u'', u.reach a t .load sp (memEa sp v.a l.toInt) 4 = (.go ea pa, u'') ∧
      u''.gReadHome { u''.portOf a t.ctx sp with task := none } ea pa 4 = (x', false, u') ∧ y = word x' ∧
      w = u'.waitaAcquire a t.ctx false)))) ∧
  (∀ x ge sp l, EndsIf (.waitaLong x ge sp l) (fun a t v _ u w => ∃ k y u', k.met y = false ∧ k.ge = ge ∧ k.cmp = v.c.headD 0 ∧ k.len = (issOf (.waitaLong x ge sp l)).len ∧
    k.hit = none ∧ k.group = u.grp.num ∧ k.dest = (match x.d with
      | .reg c => .reg c.toNat
      | _ => .none) ∧ w = u'.arriveWait a 1 (.addr k) ∧
    ((∃ o, u.reach a t .load sp (memEa sp v.a l.toInt) 4 = (.scratch o, u') ∧ u'.scratchFails (crewOf a) o 4 = false ∧
      y = word (u'.scratchRead (crewOf a) o 4) ∧ k.scratch = true ∧ k.addr = dword o ∧ k.pa = 0) ∨
     (∃ ea pa x' u'', u.reach a t .load sp (memEa sp v.a l.toInt) 4 = (.go ea pa, u'') ∧
      u''.gReadHome { u''.portOf a t.ctx sp with task := none } ea pa 4 = (x', false, u') ∧ y = word x' ∧
      k.scratch = false ∧ k.addr = ea ∧ k.pa = pa)))) ∧
  (∀ x sc, CompletesIf (.futr x sc) (fun a t v u ws w => u.strictCause t.ctx sc = none ∧ futCause (memEa .g v.a (offsetOf x)) .load = none ∧
    ∃ ea pa u' y u'', u.reach a t .load .g (memEa .g v.a (offsetOf x)) 8 = (.go ea pa, u') ∧
    u'.readFuture a (u'.portOf a t.ctx .g) ea pa sc = (some y, false, u'') ∧ ws = [y] ∧ w = u''.demote t.ctx sc)) ∧
  (∀ x sc, SendsIf (.futr x sc) (fun _ => issOf (.futr x sc)) (fun a t v u k w => u.strictCause t.ctx sc = none ∧ futCause (memEa .g v.a (offsetOf x)) .load = none ∧
    ∃ ea pa u' u'', u.reach a t .load .g (memEa .g v.a (offsetOf x)) 8 = (.go ea pa, u') ∧
    u'.readFuture a (u'.portOf a t.ctx .g) ea pa sc = (none, false, u'') ∧ k = .futr ea sc true ∧ w = u''.demote t.ctx sc)) ∧
  (∀ x sc l, CompletesIf (.futrLong x sc l) (fun a t v u ws w => u.strictCause t.ctx sc = none ∧ futCause (memEa .g v.a l.toInt) .load = none ∧
    ∃ ea pa u' y u'', u.reach a t .load .g (memEa .g v.a l.toInt) 8 = (.go ea pa, u') ∧
    u'.readFuture a (u'.portOf a t.ctx .g) ea pa sc = (some y, false, u'') ∧ ws = [y] ∧ w = u''.demote t.ctx sc)) ∧
  (∀ x sc l, SendsIf (.futrLong x sc l) (fun _ => issOf (.futrLong x sc l)) (fun a t v u k w => u.strictCause t.ctx sc = none ∧ futCause (memEa .g v.a l.toInt) .load = none ∧
    ∃ ea pa u' u'', u.reach a t .load .g (memEa .g v.a l.toInt) 8 = (.go ea pa, u') ∧
    u'.readFuture a (u'.portOf a t.ctx .g) ea pa sc = (none, false, u'') ∧ k = .futr ea sc true ∧ w = u''.demote t.ctx sc)) ∧
  (∀ x sc, SendsIf (.futw x sc) (fun _ => issOf (.futw x sc)) (fun a t v u k w => u.strictCause t.ctx sc = none ∧
    futCause (memEa .g v.a (offsetOf x)) .store = none ∧ ∃ ea pa u' u'', u.reach a t .store .g (memEa .g v.a (offsetOf x)) 8 = (.go ea pa, u') ∧
    k = .futw ea (v.c.headD 0) sc (u'.boundTo a t.ctx ea) ∧ u'' = (u'.releaseObj t.ctx (u'.boundTo a t.ctx ea) sc).demote t.ctx sc ∧
    w = if isVector a then u''.flushRange (u''.coreOf a) t.ctx ea 8 else u'')) ∧
  (∀ x sc l, SendsIf (.futwLong x sc l) (fun _ => issOf (.futwLong x sc l)) (fun a t v u k w => u.strictCause t.ctx sc = none ∧
    futCause (memEa .g v.a l.toInt) .store = none ∧ ∃ ea pa u' u'', u.reach a t .store .g (memEa .g v.a l.toInt) 8 = (.go ea pa, u') ∧
    k = .futw ea (v.c.headD 0) sc (u'.boundTo a t.ctx ea) ∧ u'' = (u'.releaseObj t.ctx (u'.boundTo a t.ctx ea) sc).demote t.ctx sc ∧
    w = if isVector a then u''.flushRange (u''.coreOf a) t.ctx ea 8 else u''))) ∧
  ((∀ (s : State) f x ea v sc l pa, s.flight? f = some x → x.work = .futw ea v sc l → x.park = none →
    s.boundPending x.owner x.ctx l x.id = false → s.placeOf x.ctx ea = some pa → let u := s.releaseObj x.ctx l sc;
    exec (.futureFill f) s = .next ((((if isVector x.owner then u.flushRange x.core x.ctx ea 8 else u).fillFuture pa v).markReleased x.owner f).delFlight f)) ∧
  (∀ (s : State) (a : Actor) t k v, s.thread? a = some t → t.wait = .addr k → k.hit = some v →
    exec (.waitaWake a) s = .next (((s.writeDestLate a k.group k.dest [v]).waitaAcquire a t.ctx k.scratch).wakePast a k.len)) ∧
  (∀ (s : State) (a : Actor) t k, s.thread? a = some t → t.wait = .addr k → k.scratch = false → k.addr.toNat / 2 ^ 56 = 4 → k.hit = none →
    k.met (word (s.homeRead k.pa 4)) = true → exec (.waitaHostPoll a) s =
      .next ((s.updThread a (fun u => { u with wait := .addr { k with hit := some (word (s.homeRead k.pa 4)) } })).wakeWatch a)) ∧
  (∀ (s : State) core c g, exec (.l1Writeback core c g true) s = .next (s.dropWhere (fun l => l.isAt core c g)) ∧
    exec (.l1Writeback core c g false) s = .next (s.wbWhere (fun l => l.isAt core c g))) ∧
  (∀ (s : State) op f ws t, s.flight? op = some f → f.orphan = false → f.park = none → f.work = .value ws → s.thread? f.owner = some t →
    exec (.longLatencyWriteback f.owner op) s = .next ((s.writeDestLate f.owner f.group f.dest ws).delFlight f.id)))

/-- PUSH and POP, with the entry run sized by the queue's entries, complete by sending a command to a usable queue of the context.
QCFG completes with the queue configured as its descriptor says, or its release begun; QSTAT with the snapshot of count, entries on
die, kind and entry size. BASIN_COMMAND of a sender's first command to a configured queue its context owns completes with a push
inserted and answered where there is room and no push waits, and a pop given the next entry, which a refill brings where it is
spilled, where none waits before it; a channel's reads of the queue, made by one instruction, as one command with all their entries,
and its reads of several channels together or not at all (in one step: log 53, the model's choice); BASIN_WAITER_ANSWER with the
oldest waiting pop answered, or, on the spawn queue of a launch, the oldest waiter rejected; BASIN_REFILL of a due queue with
entries moved on die; QUEUE_RELEASE of a queue being released with it gone. (R222, R223, R224, R225, R349, R351, R352, R353, R355)
-/
def Obligations.Queues : Prop :=
  ((∀ x tr, SendsIf (.push x tr) (fun s => issOf (.push { x with c := sizedRun (s.entryRegs x) x.c } tr))
    (SendsCmd (fun v => .push v.c) tr none)) ∧
  (∀ x tr, SendsIf (.pop x tr) (fun s => issOf (.pop { x with d := sizedRun (s.entryRegs x) x.d } tr))
    (SendsCmd (fun _ => .pop 1) tr (match x.c with
      | .pred n => some n.toNat
      | _ => none))) ∧
  (∀ x, CompletesIf (.qcfg x) (fun a t v u ws w => ws = [] ∧ let q := (v.a.headD 0).toNat % 65536;
    let y := descQueue q v.c (if t.inHandler then t.ctx else (v.c.getD 1 0).toNat % 65536);
    q < 2 ^ 15 ∧ u.sentTo a q = false ∧ u.descRefused y v.c = false ∧ y.kind ≠ 0 ∧ u.queue? q = none ∧ w = { u with queues := u.queues ++ [y] })) ∧
  (∀ x, CompletesIf (.qcfg x) (fun a t v u ws w => ws = [] ∧ let q := (v.a.headD 0).toNat % 65536;
    let y := descQueue q v.c (if t.inHandler then t.ctx else (v.c.getD 1 0).toNat % 65536); ∃ z, u.queue? q = some z ∧ z.releasing = false ∧
    q < 2 ^ 15 ∧ u.sentTo a q = false ∧ u.descRefused y v.c = false ∧ y.kind = 0 ∧ (t.inHandler = true → z.ctx = t.ctx) ∧
    u.spawnLive q = false ∧
    w = { (u.updQueue q (fun z => { z with releasing := true })) with agenda := u.agenda ++ [.queueRelease q] })) ∧
  (∀ x, CompletesIf (.qstat x) (fun a t v u ws w => let q := (v.a.headD 0).toNat % 65536; u.sentTo a q = false ∧ q < 2 ^ 15 ∧
    (∀ z, u.queue? q = some z → z.ctx = t.ctx) ∧ w = u ∧ ws = [lo32 (u.queueStat q), hi32 (u.queueStat q)])) ∧
  (∀ (s : State) q, s.queue? q = none → s.queueStat q = 0) ∧
  (∀ (s : State) q z, s.queue? q = some z → z.releasing = false → z.count < 2 ^ 32 → z.ondie.length < 64 → z.kind < 4 → z.esize < 4 →
    (s.queueStat q).toNat = z.count + 2 ^ 32 * z.ondie.length + 2 ^ 40 * z.kind + 2 ^ 42 * z.esize)) ∧
  ((∀ (s : State) k q ws, s.qcmds.find? (fun x => x.id == k.id) = some k → firstOf s.qcmds k = true → s.senderHere k = true →
    k.filled = true → s.pushReady k = true → s.queue? k.q = some q → q.releasing = false → s.senderOwns k q = true → k.op = .push ws →
    ws.length = 2 ^ q.esize →
    (s.pushRelease k).qcmds = s.qcmds ∧ (q.room = true → (∀ w ∈ q.waiters, w.op.isPop = true) → exec (.basinCommand k.id) s =
      .next ((State.qInsert { (s.pushRelease k) with qcmds := s.qcmds.filter (fun x => x.id != k.id) } q.id ws).answerPush k true))) ∧
  (∀ (s : State) k q e, s.qcmds.find? (fun x => x.id == k.id) = some k → firstOf s.qcmds k = true → s.senderHere k = true →
    k.filled = true → s.queue? k.q = some q → q.releasing = false → s.senderOwns k q = true → k.op = .pop 1 →
    s.sized k q = true → (∀ w ∈ q.waiters, w.op.isPop = false) → 1 ≤ q.count →
    let u := State.qFetch { s with qcmds := s.qcmds.filter (fun x => x.id != k.id) } q.id 1 1;
    (u.queue? q.id).bind (·.heads 1) = some [e] → exec (.basinCommand k.id) s = .next ((u.qTake q.id 1).answerPop k (some e))) ∧
  (∀ (s : State) k q a c need pops l es, s.qcmds.find? (fun x => x.id == k.id) = some k → firstOf s.qcmds k = true → s.senderHere k = true →
    k.filled = true → s.queue? k.q = some q → q.releasing = false → s.senderOwns k q = true → k.op = .read c need pops l →
    q.esize = 0 → s.readGroup k = [k] → k.sender = .actor a → k.try' = false → (∀ w ∈ q.waiters, w.op.isPop = false) → need ≤ q.count →
    let u := State.qFetch { s with qcmds := s.qcmds.filter (fun x => x.id != k.id) } q.id need need;
    u.awaits a k = true → (u.queue? q.id).bind (·.heads need) = some es → es ≠ [] → (∀ e ∈ es, e.bad = false) →
    exec (.basinCommand k.id) s = .next ((u.qTake q.id pops).answerRead a c (es.map (·.words.headD 0)))) ∧
  (∀ (s : State) k q, s.qcmds.find? (fun x => x.id == k.id) = some k → firstOf s.qcmds k = true → s.senderHere k = true →
    k.filled = true → s.queue? k.q = some q → q.releasing = false → s.senderOwns k q = true → s.sized k q = true →
    1 < (s.readGroup k).length → (∀ w, s.serveAll (s.readGroup k) = some w → exec (.basinCommand k.id) s = .next w) ∧
    (s.serveAll (s.readGroup k) = none → exec (.basinCommand k.id) s = .next s)) ∧
  (∀ (s : State) q x k, s.queue? q = some x → s.spawnLive q = true → x.waiters.head? = some k → exec (.basinWaiterAnswer q) s =
    .next (((s.updQueue q (fun y => { y with waiters := y.waiters.filter (fun w => w.id != k.id) })).queueChanged q).rejectCmd k)) ∧
  (∀ (s : State) q x k e, s.queue? q = some x → s.spawnLive q = false → x.waiters.find? (fun w => w.op.isPop) = some k → k.op = .pop 1 → 1 ≤ x.count →
    let u := State.qFetch (s.updQueue q (fun y => { y with waiters := y.waiters.filter (fun w => w.id != k.id) })) q 1 1;
    (u.queue? q).bind (·.heads 1) = some [e] → exec (.basinWaiterAnswer q) s = .next ((u.qTake q 1).answerPop k (some e))) ∧
  (∀ (s : State) q x, s.queue? q = some x → x.refillDue = true → exec (.basinRefill q) s = .next (s.qRefill q)) ∧
  (∀ (s : State) q x, s.queue? q = some x → x.releasing = true → ∃ w, exec (.queueRelease q) s = .next w ∧ w.queue? q = none))

/-- A copy whose checks pass and whose squad finds a slot completes with its job entered and unsealed, once the thread's earlier
writes to the job's bytes are performed; CSEAL with fewer than 8 batches open seals the thread's jobs as a batch; CWAIT completes
once at most its count of batches is open; CHSET installs the entry its descriptor gives, which register a LOCAL ring fills first
being free, CHSTAT reads its kind and counts; MXREQ posts the request once the thread's earlier writes are performed and written
back. A queued job that no earlier job orders starts, a CPYG with its index words read or, where their check fails, ended with
UNCORRECTABLE_DATA, and a CPYC as one action; a transfer unit whose elements move completes with it counted; once every unit has
moved and what it carries is performed the completion action is performed; a job with an empty box finishes once the earlier jobs
have started and those it overlaps have finished, a CPYC's version word compared and renewed first; a drained crew's allocation is
released once no job uses it; a crew is armed once its count reaches ROLETIME; the deadlock pattern of 65,536 cycles raises its
cause. That a CPYC is one action and that one with an empty box compares and renews its version word first are the model's reading
(assumption log 52, copies), and what a completion action waits for is log 9. (R229, R230, R231, R232, R233, R235, R236, R264, R267,
R269, R270, R276) -/
def Obligations.CopiesAndBatches : Prop :=
  ((∀ x, CompletesIf (.cpy x) (EntersJob .cpy (copyId x))) ∧
  (∀ x, CompletesIf (.cpyg x) (EntersJob .cpyg (copyId x))) ∧
  (∀ x, CompletesIf (.cpys x) (EntersJob .cpys (copyId x))) ∧
  (∀ x, CompletesIf (.cpyc x) (EntersJob .cpyc (copyId x))) ∧
  (∀ x, CompletesIf (.cseal x) (fun a t _ u ws w => ws = [] ∧ t.copyFaults = [] ∧ (u.openBatches t).length < 8 ∧
    let b := if t.unsealed.isEmpty then u.openBatches t else u.openBatches t ++ [t.unsealed];
    w = (u.sealJobs t.unsealed).updThread a (fun y => { y with unsealed := [], batches := b }))) ∧
  (∀ x, CompletesIf (.cwait x) (fun a t _ u ws w => ws = [] ∧ t.copyFaults = [] ∧ (u.openBatches t).length ≤ copyId x ∧
    w = u.updThread a (fun y => { y with batches := u.openBatches t }))) ∧
  (∀ x, CompletesAs (.chset x) (fun _ => issOf (.chset x)) (fun _ => chsetCheck (copyId x) false) (fun a t v u ws w => ws = [] ∧
    ∃ k, chanDesc t.nregs (copyId x / 16 % 4) (v.a.headD 0) = .ok k ∧ u.chanUnfilled a (copyId x % 16) = false ∧ ∃ n u1, u.freeNat = (n, u1) ∧
    w = (u1.setChan a (copyId x % 16) { kind := k, head := n % k.depth, places := [] }).armRestart (crewOf a))) ∧
  (∀ x l, CompletesAs (.chsetLong x l) (fun _ => issOf (.chsetLong x l))
    (fun _ => chsetCheck (copyId x) (l != 0 && (copyId x / 16 % 4 == 0 || copyId x / 16 % 4 == 3))) (fun a t _ u ws w => ws = [] ∧
    ∃ k, chanDesc t.nregs (copyId x / 16 % 4) l = .ok k ∧ u.chanUnfilled a (copyId x % 16) = false ∧ ∃ n u1, u.freeNat = (n, u1) ∧
    w = (u1.setChan a (copyId x % 16) { kind := k, head := n % k.depth, places := [] }).armRestart (crewOf a))) ∧
  (∀ x, CompletesIf (.chstat x) (fun a t _ u ws w => ws = [u.chanStat a t.ctx (copyId x)] ∧ w = u)) ∧
  (∀ x, CompletesIf (.mxreq x) (fun a t v u ws w => ws = [] ∧ u.mailboxAns a t.ctx = .go ∧
    u.writesDone a = true ∧
    w = (u.wbWhere (fun l => l.core == u.coreOf a && l.ctx == t.ctx)).postMailbox a v.a))) ∧
  ((∀ (s : State) n j, s.job? n = some j → j.st = .queued → j.dead = false → j.park = none → j.owner ≠ none → j.emptyBox = false → s.jobClear j = true →
    (j.kind = .cpyc → exec (.jobStart n) s = .next (s.runCpyc j)) ∧
    (j.kind = .cpyg → s.scratchFails j.crew j.idxOff (4 * j.n) = true →
      exec (.jobStart n) s = .next (s.failJob j (dataCause (dword j.idxOff) .copyRead .x 4))) ∧
    (j.kind ≠ .cpyc → (j.kind = .cpyg → s.scratchFails j.crew j.idxOff (4 * j.n) = false) → ∃ l, exec (.jobStart n) s = .next (s.updJob n (fun x => { x with st := .started, idx := l })) ∧
      (j.kind = .cpyg → l = (List.range j.n).map (fun k => word (s.scratchRead j.crew (j.idxOff + 4 * k) 4))))) ∧
  (∀ (s : State) n j k w, s.job? n = some j → j.st = .started → j.dead = false → j.park = none → k ∉ j.units → k ∈ j.unitKeys →
    s.moveElems j (j.unitElems k) = (none, w) → exec (.jobTransferUnit n k) s =
      .next (((w.chargeUnit j.crew (codeWidth (palFormat j.tile)) (j.unitElems k)).updJob n
        (fun x => { x with units := k :: x.units })).jobMoved j.crew)) ∧
  (∀ (s : State) n j, s.job? n = some j → j.st = .started → j.dead = false → j.park = none → s.actionReady j = true → (∀ k ∈ j.unitKeys, k ∈ j.units) →
    exec (.completionAction n) s = .next (s.completeJob j)) ∧
  (∀ (s : State) n j, s.job? n = some j → j.begun = false → j.owner ≠ none → j.emptyBox = true →
    (∀ i ∈ s.earlierJobs j, i.begun = true) → s.jobClear j = true → s.actionReady j = true →
    (j.kind ≠ .cpyc → exec (.emptyJobFinish n) s = .next (s.completeJob j)) ∧
    (j.kind = .cpyc → ∀ i, (s.runCpyc j).job? n = some i → i.st = .started →
      exec (.emptyJobFinish n) s = .next ((s.runCpyc j).completeJob i))) ∧
  (∀ (s : State) n c k, s.crew? n = some c → c.at' = .draining k → (∀ j ∈ s.jobs, j.crew ≠ n) →
    exec (.crewScratchRelease n) s = .next { s with crews := s.crews.filter (fun c => c.id != n) }) ∧
  (∀ (s : State) n c l, s.crew? n = some c → s.launch? c.launch = some l → l.pkt.rolelow ≠ 0 → l.pkt.deterministic = false → l.pkt.roletime ≤ c.armCount →
    exec (.roleArm n) s = .next (s.updCrew n (fun c => { c with armed := true }))) ∧
  (∀ (s : State) n c r t, s.crew? n = some c → 65536 ≤ c.deadlock → let w := s.updCrew n (fun c => { c with deadlock := 0 });
    w.deadlockTaker n = some r → w.thread? (.thread r) = some t →
    exec (.copyIssueDeadlock n) s = .next (w.raise (.thread r) (w.siteAt t) { code := 0x62 })))

/-- With no step fault pending, PALW completes with the entry written and PALR with it read, for an identifier that is not 0;
MXLA, MXLB, MXMM, MXEPI, MXTILE, CVZERO, CVLD and CVST with their checked step posted; MXSYNC once every earlier step has
finished; MBXPOP with a request taken, the oldest where its words have come, else the first of its thread whose words have, or in
the .try form without one; MBXDONE with its store posted behind the earlier steps and writes. MATRIX_STEP_EXECUTE of an owned
engine whose oldest step waits for nothing completes with the next transfer unit of its box moved, with the box left behind,
or, past the last box, with the operation's effect and the step done or at its next operation (or ended, where it reads what has
failed); MBXDONE_STORE, once the steps and writes before the oldest MBXDONE have finished, with its value at its home. That a later
thread's request overtakes one whose words are still to come is the model's choice (assumption log 53, mailbox), and so are the order of
the transfer units in a box, PALW's entry visible at once and the home MBXDONE's word is stored at (log 54, matrix engine); the copies
that its release makes stale are those of log 9 (L1). (R264, R292, R293, R297, R301, R303, R307, R308,
R309, R310) -/
def Obligations.EaselInstructions : Prop :=
  ((∀ x, CompletesIf (.palw x) (fun a t v u ws w => ws = [] ∧ palId x v ≠ 0 ∧ (∀ y ∈ v.a.drop 12, y = 0) ∧ entGroup v.a ≤ 3 ∧
    (∀ k, a = .easel k → (u.engine k).pending = none) ∧ w = u.setPal t.ctx (palId x v) v.a)) ∧
  (∀ x, CompletesIf (.palr x) (fun a t v u ws w => palId x v ≠ 0 ∧ (∀ k, a = .easel k → (u.engine k).pending = none) ∧
    ws = u.palEntry t.ctx (palId x v) ∧ w = u)) ∧
  (∀ x, CompletesIf (.mxla x) (PostsStep (fun v => (.mxla, palId x v, v.a)))) ∧
  (∀ x, CompletesIf (.mxlb x) (PostsStep (fun v => (.mxlb, palId x v, v.a)))) ∧
  (∀ x, CompletesIf (.mxepi x) (PostsStep (fun v => (.mxepi, 0, v.a)))) ∧
  (∀ x, CompletesIf (.mxtile x) (PostsStep (fun v => (.mxtile, 0, v.a)))) ∧
  (∀ x, CompletesIf (.cvld x) (PostsStep (fun v => (.cvld, palId x v, v.a)))) ∧
  (∀ x, CompletesIf (.cvst x) (PostsStep (fun v => (.cvst, palId x v, v.a)))) ∧
  (∀ x, CompletesIf (.cvzero x) (PostsStep (fun _ => (.cvzero, 0, [])))) ∧
  (∀ x, CompletesIf (.mxmm x) (PostsStep (fun v => (.mxmm (match x.c with
      | .imm i => i.toNat
      | _ => (v.c.headD 0).toNat), 0, [])))) ∧
  (∀ x, CompletesIf (.mxsync x) (fun a _ _ u ws w => ws = [] ∧ w = u ∧ ∃ k, a = .easel k ∧ (u.engine k).pending = none ∧ (u.engine k).queue = [])) ∧
  (∀ x tr, CompletesIf (.mbxpop x tr) (fun a _ _ u ws w => ∃ k r l, a = .easel k ∧ (u.engine k).pending = none ∧
    popRequest (u.engine k).mailbox [] = some (r, ws, l) ∧
    (let y := u.updEngine k (fun e => { e with mailbox := l, cur := some (crewOf r.owner) });
      w = match tr, x.c with
        | true, .pred n => y.updThread (.easel k) (fun t => t.setPred n.toNat true)
        | _, _ => y))) ∧
  (∀ x, CompletesIf (.mbxpop x true) (fun a _ _ u ws w => ∃ k, a = .easel k ∧ (u.engine k).pending = none ∧
    popRequest (u.engine k).mailbox [] = none ∧ ws = [] ∧ w = match x.c with
      | .pred n => u.updThread (.easel k) (fun t => t.setPred n.toNat false)
      | _ => u)) ∧
  (∀ x, CompletesIf (.mbxdone x) (fun a t v u ws w => ws = [] ∧ ∃ k ea pa u', a = .easel k ∧ (u.engine k).pending = none ∧
    u.reach (.easel k) t .store .g (memEa .g v.a (offsetOf x)) 4 = (.go ea pa, u') ∧ w = u'.updEngine k (fun e => { e with mbxdones :=
      e.mbxdones ++ [⟨((e.queue.getLast?).map (·.id)).getD 0, u'.next, ea, v.c.headD 0⟩] }))) ∧
  (∀ x l, CompletesIf (.mbxdoneLong x l) (fun a t v u ws w => ws = [] ∧ ∃ k ea pa u', a = .easel k ∧ (u.engine k).pending = none ∧
    u.reach (.easel k) t .store .g (memEa .g v.a l.toInt) 4 = (.go ea pa, u') ∧ w = u'.updEngine k (fun e => { e with mbxdones :=
      e.mbxdones ++ [⟨((e.queue.getLast?).map (·.id)).getD 0, u'.next, ea, v.c.headD 0⟩] })))) ∧
  ((∀ l r ws q, popRequest l [] = some (r, ws, q) → r.words = some ws ∧
    ∃ p t, l = p ++ r :: t ∧ q = p ++ t ∧ ∀ x ∈ p, x.owner ≠ r.owner) ∧
  (∀ r ws l, r.words = some ws → popRequest (r :: l) [] = some (r, ws, l)) ∧ popRequest [] [] = none ∧
  (∀ (s : State) k st r ctx, (s.engine k).queue = st :: r → (s.engine k).owner = some ctx → s.stepWaits k st = false →
    let m := st.micro (s.engine k).tilePass; let l := m.boxes st (s.engine k).epi;
    (l[st.phase]? = none → exec (.matrixStepExecute k) s = .next (s.endPart k ctx st m)) ∧
    (∀ b, l[st.phase]? = some b → let c := boxCut b.1 b.2.1;
      (c.find? (fun x => !st.units.contains x.2) = none → exec (.matrixStepExecute k) s = .next (s.updHead k (fun h => { h with
        phase := h.phase + 1, got := h.got ++ [(List.range b.2.1.length).map (fun i => aget st.codes i)], units := [], codes := [] }))) ∧
      (∀ y, c.find? (fun x => !st.units.contains x.2) = some y → ∀ d w, let es := (c.filter (fun x => x.2 == y.2)).map (·.1);
        (s.stepBegins st).moveBox k ctx st m b es = (.ok d, w) →
        let v := (w.chargeBox st b.1 es).updHead k (fun h => { h with units := y.2 :: h.units, codes := d });
        exec (.matrixStepExecute k) s = .next (match st.crew with
          | some n => v.jobMoved n
          | none => v)))) ∧
  (∀ (s : State) k m r ctx pa, (s.engine k).mbxdones = m :: r → (s.engine k).owner = some ctx → (∀ st ∈ (s.engine k).queue, m.after < st.id) →
    (∀ f ∈ s.flightsOf (.easel k), f.id < m.before → f.work.fenced = false) → s.placeOf ctx m.ea = some pa → exec (.mbxdoneStore k) s =
      .next ((((s.fixLoads pa 4).homeWrite pa 4 m.v.toNat).stampCopies).updEngine k (fun g => { g with mbxdones := r }))))

/-- Outside a recorded or replayed launch DRAW completes with its draw outstanding at the coordinate after the retired draws and
those under way, and with a block where its block accesses get through; DRAWK with the words its key, stream and index generate
outstanding; RESULT with the word and its mask bit stored in the thread's block, posted behind earlier accesses to the block, or
nothing without a block. A draw without a block, once no earlier one of its stream is outstanding, retires with the generated words
written and the stream's DCOUNT one more. SPAWN of a task with fewer than 255 spawns and depth below 7, a timestamp not below its
own and room in its domain completes with the child queued. MUTL, once the thread's earlier accesses are performed, completes with
the relaunch of a valid, aligned descriptor queued. TRACE of a handle and a vale inside the pools, of a record that is not refused
and a vale queue that is usable, completes by making the record QUEUED and sending the handle to the vale's queue. (R316, R317,
R319, R321, R322, R325, R335, R338, R369, R370, R396, R397) -/
def Obligations.DrawsTasksAndRays : Prop :=
  ((∀ x k (s : State) (a : Actor) t v d u, drawCheck k s a t = none → let p := { issOf (.draw x k) with logs := s.usesBlock }; Issues s p none a t v d u →
    let n := u.drawNext a t (immOf x.c); let y := u.drawGen t (immOf x.c) n;
    let g : Work := .draw (immOf x.c) n k y.1 y.2.1 (u.choice? a t);
    (u.choice? a t = none → exec (.draw x k) s = .next (flies u a t p d v g)) ∧
    (∀ b z w, u.choice? a t = some b → u.drawBlock (u.portOf a t.ctx .g) (u.parkedOn a t.ctx) b (immOf x.c) n.toNat y.1 = .word z w →
      exec (.draw x k) s = .next (flies { u with mtlb := w.mtlb, tick := w.tick } a t p d v g))) ∧
  (∀ x k, SendsIf (.drawk x k) (fun _ => issOf (.drawk x k)) (fun _ t v u g w => w = u ∧ let n : Word := (match x.c with
      | .imm i => i.setWidth 32
      | _ => v.c.headD 0);
    let r := gen (u.pktOf t) n 2 (immOf x.b) (dw (v.a.headD 0) (v.a.getD 1 0));
    g = .sr (drawWords k r.1 r.2.1) 0 0 0)) ∧
  (∀ x, CompletesAs (.result x) (fun s => { issOf (.result x) with logs := s.usesBlock }) (fun _ _ _ => none) (fun a t v u ws w => ws = [] ∧
    ((u.choice? a t = none ∧ w = u) ∨ ∃ b y, u.choice? a t = some b ∧ u.blockBefore a u.next = false ∧
      u.resultBlock (u.portOf a t.ctx .g) (u.parkedOn a t.ctx) b (immOf x.c) (v.a.headD 0) = .word y w))) ∧
  (∀ x, SendsIf (.result x) (fun s => { issOf (.result x) with logs := s.usesBlock }) (fun a t v u k w => ∃ b y z, u.choice? a t = some b ∧
    u.blockBefore a u.next = true ∧
    u.resultBlock (u.portOf a t.ctx .g) (u.parkedOn a t.ctx) b (immOf x.c) (v.a.headD 0) = .word y z ∧
    k = .result b (immOf x.c) (v.a.headD 0) ∧ w = { u with mtlb := z.mtlb, tick := z.tick })) ∧
  (∀ (u : State) p h (b : Block) n x e ep u1 m mp u2 y u3, u.blockReach p.ctx h .store (b.res n) 4 = (.go e ep, u1) →
    u1.blockReach p.ctx h .atomic b.mask 4 = (.go m mp, u2) → u2.gReadHome p m mp 4 = (y, false, u3) →
    u.resultBlock p h b n x = .word 0 ((u3.gWriteHome p e ep 4 x.toNat).gWriteHome p m mp 4 (y ||| 2 ^ n))) ∧
  (∀ (s : State) op f t st n k g0 g1, s.flight? op = some f → f.orphan = false → f.park = none → f.work = .draw st n k g0 g1 none →
    s.drawBefore f st = false → s.thread? f.owner = some t → exec (.longLatencyWriteback f.owner op) s =
      .next (((s.writeDestLate f.owner f.group f.dest (drawWords k g0 g1)).updThread f.owner
        (fun y => { y with dcount := cset 0 y.dcount st (n + 1) })).delFlight f.id))) ∧
  ((∀ x, CompletesIf (.spawn x) (fun a _ v u ws w => ws = [] ∧ ∃ k, u.taskOf a = some k ∧ k.calls ≠ 255 ∧ k.depth ≠ 7 ∧
    keyTs k.key ≤ (dw (v.a.headD 0) (v.a.getD 1 0)).toNat ∧ u.domainFull k.launch = false ∧
    w = u.addChild k (dw (v.a.headD 0) (v.a.getD 1 0)).toNat (v.b.headD 0) (v.b.getD 1 0) (match x.c with
      | .imm i => i.toNat
      | _ => 0))) ∧
  (∀ x, CompletesAs (.mutl x) (fun _ => { issOf (.mutl x) with logs := true }) (fun _ _ _ => none) (fun a t v u ws w => ws = [] ∧
    let ea := dw (v.a.headD 0) (v.a.getD 1 0); u.drained a = true ∧ ea.toNat % 64 = 0 ∧ ∃ w0 w1 u1 u2,
    (u.wbWhere (fun l => l.core == u.coreOf a && l.ctx == t.ctx)).descLine a t ea = (.ok w0, u1) ∧
    u1.descLine a t (ea + 64) = (.ok w1, u2) ∧ dAt (w0 ++ w1) 4 % 64 = 0 ∧ dAt (w0 ++ w1) 6 % 16 = 0 ∧ dAt (w0 ++ w1) 8 % 4 = 0 ∧
    descInvalid (u2.pktOf t) (w0 ++ w1) = false ∧ let r : Relaunch := { id := u2.next, launch := t.launch.getD 0, ctx := t.ctx, desc := w0 ++ w1, rc := ({ u2 with next := u2.next + 1 } : State).fw 60000 };
    w = { u2 with next := u2.next + 1, relaunches := u2.relaunches ++ [r] })) ∧
  (∀ x, SendsIf (.trace x) (fun _ => { issOf (.trace x) with logs := true }) (fun a t v u k w => let p := u.pktOf t; let h := v.a.headD 0;
    let n := (v.b.headD 0).toNat; p.raycount ≠ 0 ∧ h.toNat < p.raycount ∧ n < p.valecount ∧ u.drained a = true ∧ ∃ pa r u1 e pe u2 px u3,
    let u0 := u.wbWhere (fun l => l.core == u.coreOf a && l.ctx == t.ctx);
    (match u0.taskOf a with
      | some k => u0.flushTask k.launch k.key
      | none => u0).lineHome a t.ctx .load (dword (p.rayAt h.toNat)) = (.ok (pa, r), u1) ∧
    u1.lineHome a t.ctx .load (dword (p.valeAt n)) = (.ok (pe, e), u2) ∧ u2.valeQueueOk t.ctx e = true ∧
    u2.translate t.ctx .store (dword (p.rayAt h.toNat)) = (.ok px, u3) ∧ recordReason r = none ∧
    let y : Ray := { launch := t.launch.getD 0, handle := h, vale := n, q := wAt e 4 }; let z := u3.queueRay pa n;
    (k, w) = cmdSent a t.ctx (wAt e 4) (.push [h]) false none
      { z with rays := z.rays.filter (fun r => !(r.launch == t.launch.getD 0 && r.handle == h)) ++ [y] })))

/-- A SPAWN outside a task raises SPAWN_LIMIT with reason 4; in a task that has spawned 255 times reason 1; else at depth 7
reason 2; else with a timestamp below the task's own reason 3. Each takes the cause where the instruction stands, with
nothing queued: the trap is raised in the state its sources left. (R369, R370, R381) -/
def Obligations.SpawnLimits : Prop :=
  (∀ x (s : State) (a : Actor) t v d u, Issues s (issOf (.spawn x)) none a t v d u → 
    let r := fun n => exec (.spawn x) s = .next (u.raise a (siteOf u t (issOf (.spawn x)) v.all d true) { code := 0x25, detail := BitVec.ofNat 64 n });
    (u.taskOf a = none → r 4) ∧ (∀ k, u.taskOf a = some k → (k.calls = 255 → r 1) ∧ (k.calls ≠ 255 → k.depth = 7 → r 2) ∧
      (k.calls ≠ 255 → k.depth ≠ 7 → (dw (v.a.headD 0) (v.a.getD 1 0)).toNat < keyTs k.key → r 3)))

/-- TASK_DISPATCH of a domain's lowest queued task to a core that may take it completes with the task placed there. TASK_COMMIT
of a finished frontier task with nothing of its launch outstanding after an exit completes with its versions at their homes
and the task out of the domain. DEFERRED_FAULT_REISSUE of a resident thread of the frontier task ends its wait, so that it
issues its deferred instruction again from where it stands. RELAUNCH of a queued relaunch, the first of its target and its
target gone, completes with its proposal written and its crew made or its end fixed; RELAUNCH_COMPARE of one that has run
with its comparison made; VALE_SERVICE of a core whose traversal unit is on with the vale its die's scheduler chooses served;
PENDING_HANDLE_PUSH of the handle kept first for a queue with room and no waiting push with the handle pushed. (R339, R342,
R343, R372, R377, R378, R382, R386, R398, R399, R401) -/
def Obligations.TaskRelaunchAndRaySteps : Prop :=
  ((∀ (s : State) n core l t, s.launch? n = some l → s.lowestQueued n = some t → s.mayPlace (taskCrew l t) core = true →
    exec (.taskDispatch n core) s = .next (s.placeTask l t core)) ∧
  (∀ (s : State) n t, s.tasks.find? (fun t => t.launch == n && s.frontier n == some t.key) = some t → t.st = .finished →
    (∀ f ∈ s.flights, f.orphan = true → f.launch ≠ some n) → (∀ j ∈ s.jobs, j.task = some (n, t.key) → j.finished = true) →
    ∃ w, exec (.taskCommit n) s = .next w ∧
      let ctx := ((s.launch? n).map (·.ctx)).getD 0; w.mem = ((s.performVersions t).commitRelease ctx).mem ∧
      ((∀ l ∈ s.l1, l.ctx = ctx → 8 * l.gran / 2 ^ 56 < 4) → w.mem = t.vers.foldl (fun m c => memWrite m c.1 1 c.2.toNat) s.mem) ∧
      w.tasks = s.tasks.filter (fun u => !(u.launch == n && u.key == t.key)) ∧ w.crews = s.crews) ∧
  (∀ (s : State) r t, s.thread? (.thread r) = some t → t.wait = .deferred → s.resident (.thread r) = true → (s.taskOf (.thread r)).isSome = true →
    s.speculative (.thread r) = false → ∃ w t', exec (.deferredFaultReissue r) s = .next w ∧ w.thread? (.thread r) = some t' ∧
      t'.wait = w.restWait (.thread r) ∧ t'.pc = t.pc ∧ t'.reissuing = true ∧ t'.replay = t.replay ∧ t'.regs = t.regs ∧ w.mem = s.mem)) ∧
  ((∀ (s : State) n r l, s.relaunches.find? (fun r => r.id == n) = some r → s.launch? r.launch = some l → r.crew = none → r.park = none →
    r.invalid = none → r.fault = none → s.firstRelaunch r = true → s.targetGone r l.pkt = true →
    exec (.relaunch n) s = .next (s.startRelaunch r l)) ∧
  (∀ (s : State) n r l, s.relaunches.find? (fun r => r.id == n) = some r → s.launch? r.launch = some l → r.park = none → s.relaunchRan r = true →
    exec (.relaunchCompare n) s = .next (s.compareRelaunch r l.pkt)) ∧
  (∀ (s : State) core e l, core < 320 → (s.mg (coreBlock core)).getLsbD 1 = true → chooseVale (s.eligible (dieOfCore core)) = some e →
    s.launch? e.launch = some l → exec (.valeService core) s = .next (s.serve (dieOfCore core) e l)) ∧
  (∀ (s : State) n r k x, s.rays[n]? = some r → r.kept = some k → s.queue? r.q = some x → x.room = true → (∀ y ∈ x.waiters, y.op.isPop = true) →
    (∀ y ∈ s.rays, y.q = r.q → ∀ j, y.kept = some j → k ≤ j) → exec (.pendingHandlePush n) s =
      .next ((s.updRay r.launch r.handle (fun y => { y with kept := none })).qInsert r.q [r.handle])))

/-- The vale chosen among eligible ones is one of them. Where some eligible vale is over its age limit, no eligible vale is older
than the chosen one; where none is, no eligible vale has more waiting rays than the chosen one, and none with as many is
older. (R398, R399) -/
def Obligations.ValeChoice : Prop :=
  (∀ l, l ≠ [] → ∃ e, chooseVale l = some e) ∧
  (∀ l e, chooseVale l = some e → e ∈ l ∧ ((∃ x ∈ l, x.aged = true) → ∀ x ∈ l, e.seq ≤ x.seq) ∧
    ((∀ x ∈ l, x.aged = false) → ∀ x ∈ l, x.count ≤ e.count ∧ (x.count = e.count → e.seq ≤ x.seq)))

/-- HINSP of a number the trap record lists completes with that word, HPOKE of a writable one with it changed. REPLAY completes with
the parked items of the page or token marked to proceed, or in the failing forms to fail, and nothing else changed. TLBINV, once no
access translated through what it drops is still to be performed, completes with the kept translations of the page, of the context,
or all dropped, and the affected L1 lines written back and dropped. TRAP_ENTRY of a resident thread with a pending cause and settled
results enters the handler with v0-v7 and p0-p7 saved; HANDLER_WATCHDOG past HLIMIT ends the thread with a record; SINGLE_STEP
raises 0xA1; SOFT_ERROR in a register of a thread outside a region makes the thread raise SOFT_ERROR next; REPLAY_ITEM_PROCEED lets
the first free replayed item go on; FAULT_RECORD_PUSH moves a record to a FAULTQ with room; PAGE_MIGRATE moves the frame of a page,
which no second entry maps, and its entry, and gives the old frame to its stack's queue where that has room. Which accesses TLBINV
awaits and which lines it takes are the model's reading (assumption log 29, TLBINV), and so are the FPC of SINGLE_STEP (log 31,
single step), the watchdog's ACCESS word (log 21, trap words), what a soft error leaves (log 32, soft errors) and the page a
migration may not take (log 33, migration). (R436, R437, R438, R440, R446, R447, R449, R450, R451) -/
def Obligations.HandlerInstructions : Prop :=
  ((∀ x, CompletesAs (.hinsp x) (fun _ => issOf (.hinsp x)) (fun _ _ _ => if trapListed (immOf x.c) then none else some { code := 0x03 })
    (fun _ t _ u ws w => ws = [t.trap.wordAt (immOf x.c)] ∧ w = u)) ∧
  (∀ x, CompletesAs (.hpoke x) (fun _ => issOf (.hpoke x)) (fun _ _ _ => if trapWritable (immOf x.c) then none else some { code := 0x03 })
    (fun a _ v u ws w => ws = [] ∧ w = u.updThread a (fun t => { t with trap := t.trap.poke (immOf x.c) (v.a.headD 0) }))) ∧
  (∀ x, CompletesIf (.replay x) (fun _ _ v u ws w => ws = [] ∧ let ea := (dw (v.a.headD 0) (v.a.getD 1 0)).toNat;
    let key : Nat × Key := if immOf x.c % 2 = 0 then (ea / 2 ^ 56 % 8, .page ((v.b.headD 0).toNat % 65536) (ea / 65536 * 65536))
      else ((v.a.headD 0).toNat / 2 ^ 29, .token (v.a.headD 0));
    w = { u with items := u.items.map (fun i => if i.table = key.1 ∧ i.key = key.2 ∧ i.st = .parked then
      { i with st := if 2 ≤ immOf x.c then .failed else .proceed } else i) })) ∧
  (∀ x, CompletesIf (.tlbinv x) (fun _ _ v u ws w => ws = [] ∧ let ea := (dw (v.a.headD 0) (v.a.getD 1 0)).toNat;
    let ctx := (v.b.headD 0).toNat % 65536; u.staleAccess (invDrops (immOf x.c) ctx ea) = false ∧
    w = if immOf x.c = 0 then u.invalidate (fun t => t.maps ctx ea) (fun l => l.ctx == ctx && 8 * l.gran / 65536 == ea / 65536)
      else if immOf x.c = 1 then u.invalidate (fun t => t.ctx == ctx) (fun l => l.ctx == ctx)
      else u.invalidate (fun _ => true) (fun _ => true)))) ∧
  ((∀ (s : State) r t c q, s.thread? (.thread r) = some t → t.pending = some (c, q) → s.resident (.thread r) = true → s.settled (.thread r) = true →
    t.exited = false → ∃ w t', exec (.trapEntry r) s = .next w ∧ w.thread? (.thread r) = some t' ∧ t'.inHandler = true ∧
      t'.pending = none ∧ t'.wait = w.restWait (.thread r) ∧ t'.pc = (s.pktOf t).hentry ∧ t'.region = none ∧ t'.trap.cause = q.cause ∧
      t'.trap.epc = q.epc ∧ t'.trap.savep = BitVec.ofNat 32 (t.preds.toNat % 256) ∧
      (∀ i, i < 8 → i < t.nregs → cget 0 t'.trap.savev i = cget 0 t.regs i) ∧ w.mem = s.mem) ∧
  (∀ (s : State) r t, s.thread? (.thread r) = some t → t.inHandler = true → t.exited = false → s.resident (.thread r) = true →
    s.ctxField t.ctx 44 4 ≠ 0 → s.ctxField t.ctx 44 4 < t.handlerCycles → exec (.handlerWatchdog r) s =
      .next ((s.record t.ctx (recWords 6 0xA4 0 0 t.wid 0xFF 0 t.ctx)).exitThread (.thread r))) ∧
  (∀ (s : State) r t, s.thread? (.thread r) = some t → s.stepWhole (.thread r) t = true → exec (.singleStep r) s =
      .next (s.raise (.thread r) (s.siteAt { t with pc := t.stepPc }) { code := 0xA1, epc := some t.pc })) ∧
  (∀ (s : State) r t n, s.thread? (.thread r) = some t → t.exited = false → s.resident (.thread r) = true → n < t.nregs → n < 224 → t.region = none →
    ∃ w t', exec (.softError (.thread r) (.reg n)) s = .next w ∧ w.thread? (.thread r) = some t' ∧
      t'.softErr = some (t.softErr.getD (BitVec.ofNat 64 n)) ∧ t'.pc = t.pc ∧ (∀ m, m ≠ n → cget 0 t'.regs m = cget 0 t.regs m)) ∧
  (∀ (s : State) n i, s.item? n = some i → (i.st = .proceed ∨ i.st = .failed) → s.itemFree i = true →
    (∀ j ∈ s.items, j.id < n → j.key = i.key → j.table = i.table → j.st = i.st → s.itemFree j = false) →
    exec (.replayItemProceed n) s = .next (s.itemProceed i (if i.st = .failed then some 0x40 else none))) ∧
  (∀ (s : State) n r x, s.records[n]? = some r → s.queue? (s.ctxField r.ctx 40 2) = some x → x.kind = 1 → x.esize = 3 → x.ctx = r.ctx →
    x.releasing = false → x.room = true → exec (.faultRecordPush n) s =
      .next (({ s with records := s.records.eraseIdx n } : State).qInsert (s.ctxField r.ctx 40 2) r.words)) ∧
  (∀ (s : State) ctx va stack p q b e, va / 2 ^ 56 < 4 → stack < 8 → s.walkCtx ctx va = .leaf 0 p → p.testBit 7 = false → pteAddr p < 2 ^ 39 →
    pteAddr p / 2 ^ 36 ≠ stack → s.freeFrame stack = some (q, b) → leafAt s.mem 3 (s.root ctx (va / 2 ^ 56)) (va % 2 ^ 56) = some e →
    s.aliased (pteAddr p) e = false →
    ∃ w : State, w.mem = memWrite (moveFrame 0 1 (pteAddr p) b s.mem) e 8 (p - pteAddr p + b) ∧ (∀ t ∈ w.mtlb, t.covers (va / 2 ^ 56) ctx va = false) ∧
      let n := (w.mg (0x020 + 8 * (pteAddr p / 2 ^ 36))).toNat % 65536;
      exec (.pageMigrate ctx va stack) s = .next (match w.queue? n with
        | some x => if x.room && x.esize == 1 then w.qInsert n [word (pteAddr p), word (pteAddr p / 2 ^ 32)] else w
        | none => w)))

/-- Whenever a handler thread issues HRESUME it completes outside the handler with the program counter at EPC; HRET with it past
the faulting instruction. Both put back the saved registers v0-v7 below the register count and the saved predicates p0-p7.
HRESUME to the faulting instruction of captured sources makes it use the sources as the handler left them. HRET gives a
single register destination RES0 and leaves every other register but those of a ring it belongs to. (R439, R440) -/
def Obligations.HandlerReturns : Prop :=
  (∀ x (s : State) (a : Actor) t v d u, Issues s (issOf (.hresume x)) none a t v d u → u.thread? a = some t → ∃ w t', exec (.hresume x) s = .next w ∧
    w.thread? a = some t' ∧ t'.pc = t.trap.epc ∧ t'.inHandler = false ∧ t'.stepping = (if immOf x.c = 1 then 1 else 0) ∧
    t'.regs = restored t ∧
    (∀ c, c < 24 → t'.preds.getLsbD c = if c < 8 then t.trap.savep.getLsbD c else t.preds.getLsbD c) ∧
    t'.replay = (if t.trap.epc = t.trap.fpc ∧ t.trap.captured = true ∧ t.trap.fetch = false
      then some (t.trap.sources, t.trap.dests) else none) ∧ w.mem = u.mem) ∧
  (∀ x (s : State) (a : Actor) t v d u, Issues s (issOf (.hret x)) none a t v d u → u.thread? a = some t → ∃ w t', exec (.hret x) s = .next w ∧
    w.thread? a = some t' ∧ t'.pc = t.trap.fpc + BitVec.ofNat 64 t.trap.len ∧ t'.inHandler = false ∧ w.mem = u.mem ∧
    (∀ c, c < 24 → (∀ n, .pred n ∉ t.trap.dests ∧ ∀ k, .regPred k n ∉ t.trap.dests) →
      t'.preds.getLsbD c = if c < 8 then t.trap.savep.getLsbD c else t.preds.getLsbD c) ∧
    (t.trap.dests = [] → t'.regs = restored t) ∧
    (∀ n, t.trap.fetch = false → t.trap.dests = [.reg n] → n < t.nregs → n < 224 → cget 0 t'.regs n = t.trap.res0 ∧
      ∀ m, m ≠ n → ¬sharesRing t n m → cget 0 t'.regs m = cget 0 (restored t) m))

/-- In the decode checks of an instruction, a row that does not run on its engine gives WRONG_ENGINE whatever else is wrong, and one
that runs there without the privilege it needs gives PRIVILEGED. A full instruction of a thread that can issue takes these: it
completes with that cause raised at the instruction and no operand captured; and so it takes any cause of its decode checks, where
the row has no check of its own (one that has takes the first of both), for LDT, STT, PUSH and POP with the runs that their tensor or
queue gives them. So HINSP, HPOKE, HRESUME and HRET outside the handler take PRIVILEGED, a firmware thread's too, and REPLAY and
TLBINV outside the firmware context, in a handler too. A thread of a vector core outside its handler and outside context 0 that
issues MOVS or MOVSW of the numbers 0x30 to 0x33 takes PRIVILEGED, and QCFG the same. (R117, R118, R137, R439) -/
def Obligations.PrivilegeAtDecode : Prop :=
  ((∀ a t p c, wrongEngine a p = true → decodeCheck a t p c = some { code := 0x07 }) ∧
  (∀ a t p c, wrongEngine a p = false → privileged a t p.priv = true → decodeCheck a t p c = some { code := 0x08 }) ∧
  (∀ (s : State) (i : Instr) x (a : Actor) t, i.args = some x → s.grp.who = some a → s.thread? a = some t → s.canIssue a t = true →
    let takes := fun c : Cause => ∃ z, z.captured = false ∧ z.pc = t.pc ∧ z.len = i.bytes ∧ exec i s = .next (s.raise a z c);
    (wrongEngine a (issOf i) = true → takes { code := 0x07 }) ∧
    (wrongEngine a (issOf i) = false → privileged a t (issOf i).priv = true → takes { code := 0x08 }) ∧
    (∀ c, i.op ∉ [0x1E, 0x1F, 0x33, 0x34, 0x62, 0x63, 0x64, 0x82, 0x83, 0x91, 0x92, 0xA6, 0xE0, 0xE6, 0xE7] →
      decodeCheck a t (issOf i) none = some c → takes c) ∧
    (∀ c, i.op ∉ [0x1E, 0x82, 0x83, 0x91, 0x92] → decodeCheck a t (issOf i) none = some c → ∃ d, d.code ∈ [0x03, 0x05, 0x07, 0x08] ∧ takes d) ∧
    (∀ y tr c, i = .push y tr → decodeCheck a t (issOf (.push { y with c := sizedRun (s.entryRegs y) y.c } tr)) none = some c → takes c) ∧
    (∀ y tr c, i = .pop y tr → decodeCheck a t (issOf (.pop { y with d := sizedRun (s.entryRegs y) y.d } tr)) none = some c → takes c) ∧
    (∀ y c, i = .stt y → decodeCheck a t { issOf i with x := if s.fp64Tensor y then { y with b := Opnd.asPair y.b } else y } none = some c → takes c) ∧
    (∀ y c, i = .ldt y → y.d.isChan = false →
      decodeCheck a t { issOf i with x := if s.fp64Tensor y then { y with d := Opnd.asPair y.d } else y } none = some c → takes c)) ∧
  (∀ (s : State) x (a : Actor) t, s.grp.who = some a → s.thread? a = some t → s.canIssue a t = true → isVector a = true →
    (∀ y, (t.inHandler = false ∧ (x = .hresume y ∨ x = .hret y ∨ x = .hinsp y ∨ x = .hpoke y) ∨ t.ctx ≠ 0 ∧ (x = .replay y ∨ x = .tlbinv y)) →
      ∃ z, z.captured = false ∧ z.pc = t.pc ∧ exec x s = .next (s.raise a z { code := 0x08 })))) ∧
  (∀ (s : State) (r : TRef) (t : Thread) (i : Instr), s.grp.who = some (.thread r) → s.thread? (.thread r) = some t →
  s.canIssue (.thread r) t = true → t.inHandler = false → t.ctx ≠ 0 →
  ((∃ x, i = .movs x ∧ 0x30 ≤ regNumber x ∧ regNumber x ≤ 0x33) ∨ (∃ x, i = .movsw x ∧ 0x30 ≤ regNumber x ∧ regNumber x ≤ 0x33) ∨
    ∃ x, i = .qcfg x) →
  ∃ z, z.captured = false ∧ z.pc = t.pc ∧ exec i s = .next (s.raise (.thread r) z { code := 0x08 }))

/-- PICKER_CYCLE of an issuer that exists, while no issue group is under way, completes with that issuer's cycle counter one
more, a next group number, and a group of at most 64 threads that have not exited, all of one context and program counter where
none of them issues with a meeting. YIELD_EXPIRE of a yielded thread completes with it yielded no longer once 64 core cycles have
passed, and with nothing changed before. The group chosen from the ready threads (in an even cycle those not yielded), oldest first:
at most 64 of them, each once, empty exactly where there are none. The ready members of a meeting are all in the group or none is, and
count with the context and program counter of their oldest: in an odd cycle the group is of those of the oldest ready thread, which it
holds; in an even cycle of those that the most threads have. Where no meeting is ready the group's threads are all of one context and
program counter. A meeting of more than 64 threads, which no squad has, is passed over: the model's choice (assumption log 26,
picker). (R27, R28, R29, R34, R138) -/
def Obligations.PickerSteps : Prop :=
  ((∀ (s : State) i, Issuer.exists' i = true → s.grp.rest = [] → ∃ w, exec (.pickerCycle i) s = .next w ∧ w.cycle i = s.cycle i + 1 ∧
    w.grp.num = s.grp.num + 1 ∧ w.grp.members.length ≤ 64 ∧ w.grp.who = none ∧
    (∀ a ∈ w.grp.members, ∃ t, w.thread? a = some t ∧ t.exited = false) ∧
    ((∀ a ∈ w.grp.members, ∀ t, w.thread? a = some t → t.met = none) → ∀ a ∈ w.grp.members, ∀ b ∈ w.grp.members, ∀ t u,
      w.thread? a = some t → w.thread? b = some u → t.pc = u.pc ∧ t.ctx = u.ctx)) ∧
  (∀ (s : State) r t c l, s.thread? (.thread r) = some t → t.yielded = some (c, l) →
    (c + 64 ≤ s.cycle (s.issuerOf (.thread r)) → ∃ w, exec (.yieldExpire r) s = .next w ∧
      w.thread? (.thread r) = some { t with yielded := none }) ∧
    (s.cycle (s.issuerOf (.thread r)) < c + 64 → exec (.yieldExpire r) s = .next s))) ∧
  (∀ (even : Bool) (l : List (Actor × Thread)), let g := chooseGroup even l;
    let from' := if even then l.filter (fun y => y.2.yielded.isNone) else l;
    let us := unitsOf from' []; let size := fun k => ((us.filter (fun u => unitPair u == some k)).map List.length).sum;
    g.length ≤ 64 ∧ (∀ a ∈ g, ∃ t, (a, t) ∈ from') ∧ ((l.map (·.1)).Nodup → g.Nodup) ∧
    (from' = [] → g = []) ∧ ((∀ u ∈ us, u.length ≤ 64) → g = [] → from' = []) ∧
    (∃ k, (∀ a ∈ g, ∃ u ∈ us, unitPair u = some k ∧ a ∈ u.map (·.1)) ∧ (even = true → ∀ u ∈ us, ∀ j, unitPair u = some j → size j ≤ size k) ∧
      (even = false → ∀ x r, l = x :: r → k = pairOf x ∧ ((∀ u ∈ us, u.length ≤ 64) → x.1 ∈ g))) ∧
    ((l.map (·.1)).Nodup → ∀ u ∈ unitsOf from' [], (∀ x ∈ u, x.1 ∈ g) ∨ (∀ x ∈ u, x.1 ∉ g)) ∧
    (∀ x ∈ from', ∃ u ∈ unitsOf from' [], x ∈ u) ∧ (∀ u ∈ unitsOf from' [], ∀ x ∈ u, ∀ y ∈ from', sameMeeting x y = true → y ∈ u) ∧
    ((∀ x ∈ l, x.2.met = none) →
      (∃ k, ∀ a ∈ g, ∃ t, (a, t) ∈ l ∧ pairOf (a, t) = k) ∧
      (even = false → ∀ x r, l = x :: r → g.head? = some x.1) ∧
      (even = true → ((∃ x ∈ l, x.2.yielded = none) ↔ g ≠ [])) ∧
      (even = true → ∃ k, (∀ a ∈ g, ∃ t, (a, t) ∈ l ∧ pairOf (a, t) = k) ∧
        ∀ x ∈ l, ((l.filter (fun y => y.2.yielded.isNone)).filter (fun y => pairOf y == pairOf x)).length ≤
          ((l.filter (fun y => y.2.yielded.isNone)).filter (fun y => pairOf y == k)).length)))

/-- LAUNCH_ACCEPT of an entry the dispatcher holds for a context, or of the next entry of its launch queues, completes with it
carried on; LAUNCH_COMPLETE of a launch that is over with its record; CREW_PLACE of a ready crew on a core it may take with
the crew created there; CREW_STEAL by a die with an empty list and room with the victim's oldest ready crew dealt to it.
PREEMPT_CREW of a crew on a core completes with it pre-empted; RESTORE_CREW of a saved crew without saved engine state on a
core it may take with it there, and with saved engine state with its whole group placed and the state loaded; CONTEXT_DEPART
with the most recently placed crew of the context pre-empted, and with none left and no job at work with the context off the
device, and by choice removed or, where it is off, back on it. TRAVERSAL_ENABLE sets TRAVEN and TRAVON where 128 KiB suffice and
else pre-empts a crew and goes on enabling, with what has been written to TRAVEN meanwhile, which takes effect next once the enabling
is complete; TRAVERSAL_DISABLE clears TRAVEN, and TRAVON too unless an enabling is to complete first. That CONTEXT_DEPART pre-empts
one crew a step, and its choice, are the model's (assumption log 49, departure), and so is the group of crews that RESTORE_CREW places
together (log 48, pre-emption). (R22, R314, R387, R422, R424, R425, R426, R427, R428, R429, R431) -/
def Obligations.CrewSteps : Prop :=
  ((∀ (s : State) ctx x, s.plat.stopped = false → s.accepts.find? (fun y => y.ctx == ctx) = some x → x.park = none →
    exec (.launchAccept ctx) s = .next (s.dispatchEntry x)) ∧
  (∀ (s : State) ctx n q e, s.plat.stopped = false → (∀ y ∈ s.accepts, y.ctx ≠ ctx) → s.nextQueue ctx = some (n, q) → q.next? = some e → e.bad = false →
    let u := { (s.qTake q.id 1) with lastEntry := cset 0 s.lastEntry ctx (n + 1) };
    ∃ x : Accept, x.id = u.next ∧ x.ctx = ctx ∧ x.words = e.words ∧ x.park = none ∧ x.lost = [] ∧ exec (.launchAccept ctx) s =
      .next (({ u with next := u.next + 1, accepts := u.accepts ++ [x] } : State).dispatchEntry x)) ∧
  (∀ (s : State) n l, s.launch? n = some l → (l.done = true ∨ s.launchOver l = true) → exec (.launchComplete n) s = .next (s.endLaunch l)) ∧
  (∀ (s : State) n core c d, s.crew? n = some c → c.at' = .ready d → s.mayPlace c core = true →
    exec (.crewPlace n core) s = .next (s.createCrew n core (s.crewSeats c) [])) ∧
  (∀ (s : State) d v c, s.oldestReady v = some c → d < 4 → v ≠ d → (∀ x ∈ s.crews, x.at'.die? ≠ some d) → s.fitsDie c d = true →
    ((s.crewPkt c).deterministic = true → s.allRetired d = true ∧ s.victimOf d = some v) →
    exec (.crewSteal d v) s = .next (s.updCrew c.id (fun x => { x with at' := .ready d })))) ∧
  ((∀ (s : State) n c core, s.crew? n = some c → c.at' = .on core → exec (.preemptCrew n) s = .next (s.preempt c core)) ∧
  (∀ (s : State) n core c d, s.crew? n = some c → c.at' = .saved d → s.mayPlace c core = true → s.savedWith c = none →
    exec (.restoreCrew n core) s = .next ((s.restoreOn n core).takeEngine c (4 * clusterOfCore core))) ∧
  (∀ (s : State) n core c d g w, s.crew? n = some c → c.at' = .saved d → s.mayPlace c core = true → s.savedWith c = some g →
    (s.restoreOn n core).restoreGroup (clusterOfCore core) (g.crews.filter (fun m => m != n)) = some w →
    exec (.restoreCrew n core) s = .next (w.loadEngine g (clusterOfCore core))) ∧
  (∀ (s : State) ctx c core r, s.residentOf ctx = (c, core) :: r → exec (.contextDepart ctx) s = .next (s.preempt c core)) ∧
  (∀ (s : State) ctx n u, s.residentOf ctx = [] → s.jobsBusy ctx = false → s.freeNat = (n, u) → 
    (n % 3 = 0 → exec (.contextDepart ctx) s = .next ((u.leave ctx).removeCtx ctx)) ∧
    (n % 3 ≠ 0 → (n % 3 = 2 ∨ (s.ctxOf ctx).away = false) → exec (.contextDepart ctx) s = .next (u.leave ctx)) ∧
    (n % 3 = 1 → (s.ctxOf ctx).away = true → exec (.contextDepart ctx) s = .next (u.setAway ctx false))) ∧
  (∀ (s : State) core, core < 320 → s.plat.verified = true → core ∉ s.plat.enabling →
    let u := s.setMg (coreBlock core) ((s.mg (coreBlock core) &&& 2) ||| 1); let v := u.setEnabling core true;
    ((s.mg (coreBlock core)).getLsbD 1 = true → exec (.traversalEnable core) s = .next u) ∧
    ((s.mg (coreBlock core)).getLsbD 1 = false → v.scratchUsed core ≤ 131072 → ∃ w, exec (.traversalEnable core) s = .next w ∧
      w.mg (coreBlock core) = 3 ∧ core ∉ w.plat.enabling ∧ w.agenda = s.agenda ∧ w.crews = s.crews ∧ w.mem = s.mem) ∧
    (∀ c r, (s.mg (coreBlock core)).getLsbD 1 = false → 131072 < v.scratchUsed core →
      sortBy (fun a b => decide (b.placed ≤ a.placed)) (v.crewsOn core) = c :: r → exec (.traversalEnable core) s = .next (v.preempt c core))) ∧
  (∀ (s : State) core, core ∈ s.plat.enabling → (s.mg (coreBlock core)).getLsbD 1 = false → let v := s.setEnabling core true;
    (v.scratchUsed core ≤ 131072 → ∃ w, exec (.traversalEnable core) s = .next w ∧ w.mg (coreBlock core) = s.mg (coreBlock core) ||| 2 ∧
      core ∉ w.plat.enabling ∧ w.crews = s.crews ∧ w.mem = s.mem ∧
      w.agenda = s.agenda ++ (if (s.mg (coreBlock core)).getLsbD 0 then [] else [.traversalDisable core])) ∧
    (∀ c r, 131072 < v.scratchUsed core → sortBy (fun a b => decide (b.placed ≤ a.placed)) (v.crewsOn core) = c :: r →
      exec (.traversalEnable core) s = .next (v.preempt c core))) ∧
  (∀ (s : State) core, core < 320 → s.plat.verified = true → ∃ w, exec (.traversalDisable core) s = .next w ∧
    w.mg (coreBlock core) = (if core ∈ s.plat.enabling then s.mg (coreBlock core) &&& 2 else 0) ∧ w.plat = s.plat ∧ w.mem = s.mem))

/-- A thread of a new crew stands at the kernel entry, or in a shadow squad at the shadow entry, with its WID and context, v1, where it
has that register, the size of its private window, and zero in every other register that no task argument fills, in every predicate,
draw counter and in RCOUNT; every entry of its channel table is unset (c0 of a shadow lane is its compute lane's); it is neither in a
handler nor in a region. Creating a squad adds such a thread for every lane that is not born exited, and the squad with PART 5 and zero
squad registers, a shadow squad with SHADOW and LOADER set. A crew with an Easel entry that takes a free engine takes it for its
context, launch and packet; once the stream's window fits, the stream starts at the packet's Easel entry with v1 the size of the
window and every other register and predicate zero; one that has started is not started again. (R21, R42, R288) -/
def Obligations.NewThreads : Prop :=
  (∀ (c : Crew) (p : Packet) (wid idx slot now : Nat) (sh : Bool), let t := newThread c p wid idx slot now sh [];
  t.pc = (if sh then p.sentry else p.kentry) ∧ t.wid = BitVec.ofNat 64 wid ∧ t.ctx = c.ctx ∧ t.nregs = p.regs ∧
  (∀ n, cget 0 t.regs n = if n = 1 ∧ 1 < p.regs then BitVec.ofNat 32 p.privSize else 0) ∧ t.preds = 0 ∧ (∀ n, cget 0 t.dcount n = 0) ∧
  t.rcount = 0 ∧ t.inHandler = false ∧ t.region = none ∧ t.exited = false ∧ t.wait = .none ∧ (∀ n, cget {} t.chans n = {}) ∧
  ∀ (s : State) (r : TRef) (n : Nat), s.thread? (.thread r) = some t → (r.shadow = true → n ≠ 0) → (s.chan (.thread r) n).kind = .unset) ∧
  (∀ (s : State) (c : Crew) (p : Packet) (core slot : Nat) (x : Seat) (args : Cells Word), let w := s.createSquad c p core slot x args;
    (∃ q, w.squads = s.squads ++ [q] ∧ q.crew = c.id ∧ q.num = x.num ∧ q.shadow = x.shadow ∧ q.part = 5 ∧ (∀ n, cget 0 q.sregs n = 0) ∧
      (x.shadow = true → q.role = 3)) ∧
    ∀ lane wid, lane < 32 → x.wid lane = some wid → ∃ b, (Actor.thread ⟨c.id, x.num, x.shadow, lane⟩,
      { newThread c p wid (32 * x.idx + lane) (32 * slot + lane) (s.cycle (.core core)) x.shadow args with kept := b }) ∈ w.threads) ∧
  (∀ (s : State) (c : Crew) core, (s.crewPkt c).eentry ≠ 0 → (s.engine (clusterOfCore core)).owner = none →
    let e := (s.takeEngine c core).engine (clusterOfCore core); e.owner = some c.ctx ∧ e.launch = some c.launch ∧ e.pkt = s.crewPkt c) ∧
  (∀ (s : State) k ctx l, (s.engine k).owner = some ctx → (s.engine k).launch = some l → let e := s.engine k;
    (e.started = true → s.startEasel k = s) ∧
    (e.started = false → (e.pkt.privSize = 0 ∨ (s.windowFor ctx e.pkt.privSize).isSome = true) → ∃ t, (s.startEasel k).thread? (.easel k) = some t ∧
      ((s.startEasel k).engine k).started = true ∧ ((s.startEasel k).engine k).pkt = e.pkt ∧ t.pc = e.pkt.eentry ∧ t.ctx = ctx ∧
      t.launch = some l ∧ t.exited = false ∧ t.preds = 0 ∧ ∀ n, cget 0 t.regs n = if n = 1 then BitVec.ofNat 32 e.pkt.privSize else 0))

/-- A crew that fits on a core leaves it with at most 16 crews, at most 64 squads, at most 131,072 register words in use,
counting 32 times the registers a thread for each squad, and at most 384 KiB of scratchpad in use, 128 KiB where the
traversal unit is enabled; the core is one of the 320, open to the crew's context, and with an Easel entry the cluster's
engine is free or the crew's context's. (R20, R22, R425, R427) -/
def Obligations.RoomOnACore : Prop :=
  ∀ (s : State) (c : Crew) (core : Nat), s.fits c core = true →
  core < 320 ∧ s.plat.stopped = false ∧ (s.crewsOn core).length + 1 ≤ 16 ∧
  (s.squadsAt core).length + c.squads * (if c.shadows then 2 else 1) ≤ 64 ∧
  s.regsUsed core + 32 * (s.crewPkt c).regs * (c.squads * (if c.shadows then 2 else 1)) ≤ 131072 ∧
  s.scratchUsed core + c.scratchSize ≤ 393216 ∧
  ((s.mg (coreBlock core)).toNat % 4 ≠ 0 → s.scratchUsed core + c.scratchSize ≤ 131072) ∧
  ((s.crewPkt c).eentry ≠ 0 → ∀ o, (s.engine (clusterOfCore core)).owner = some o → o = c.ctx)

/-- A push or a pop through a slot of a present function whose command is done and that is bound to a queue with HOSTPUSH or
HOSTPOP completes with the command on its way and DONE 0; a write of an ENTRY word of such a slot with that word changed and
the others kept; while a command is in progress all three are ignored. While the verified image runs and the next entry of a
function's service queue is readable: SERVICE_REPLAY (operation 1) and SERVICE_FAIL (2) of a page key complete with the entry
taken and the items of that page of a context of the function to proceed or to fail; SNAPSHOT (3) of the PF with the counters
stored at a host-window address on a 4,096-byte boundary; WRITE (4) of the PF with a control register written; ATTEST (5),
where no function's was pushed before it, with the report and then DONE stored in the buffer. The layout of a snapshot, its context 0
and the registers that WRITE reaches are the model's choices (assumption log 35, services). (R454, R461, R462, R464, R470, R472) -/
def Obligations.WindowAndServiceSteps : Prop :=
  ((∀ (s : State) fn n q x, s.fnOn fn = true → n < 16 → (s.slot fn n).done = true → s.slotQueue fn n = some q → s.queue? q = some x → x.hostPush = true →
    exec (.windowPush fn n) s = .next (({ s with next := s.next + 1, qcmds := s.qcmds ++
      [{ id := s.next, q := x.id, sender := .window fn n, ctx := x.ctx, op := .push ((s.slot fn n).entry.take (x.bytes / 4)), try' := true }] } :
        State).setSlot { s.slot fn n with done := false, cmdQ := x.id })) ∧
  (∀ (s : State) fn n q x, s.fnOn fn = true → n < 16 → (s.slot fn n).done = true → s.slotQueue fn n = some q → s.queue? q = some x → x.hostPop = true →
    exec (.windowPop fn n) s = .next (({ s with next := s.next + 1, qcmds := s.qcmds ++
      [{ id := s.next, q := x.id, sender := .window fn n, ctx := x.ctx, op := .pop 1, try' := true }] } :
        State).setSlot { s.slot fn n with done := false, cmdQ := x.id })) ∧
  (∀ (s : State) fn n i v, s.fnOn fn = true → n < 16 → i < 8 → (s.slot fn n).done = true → exec (.windowEntryWrite fn n i v) s =
    .next (s.setSlot { s.slot fn n with entry := (s.slot fn n).entry.set i v })) ∧
  (∀ (s : State) fn n, (s.slot fn n).done = false → exec (.windowPush fn n) s = .next s ∧ exec (.windowPop fn n) s = .next s ∧
    ∀ i v, exec (.windowEntryWrite fn n i v) s = .next s)) ∧
  ((∀ (s : State) fn q e, s.plat.verified = true → s.serviceQueue fn = some q → q.next? = some e → e.bad = false → wAt e.words 0 % 256 = 1 →
    (e.words.getD 0 0).getLsbD 8 = false → Config.ctxFunction (wAt e.words 4 % 65536) = fn → exec (.serviceReplay fn) s =
      .next ((s.qTake q.id 1).replayKey (dAt e.words 2 / 2 ^ 56 % 8)
        (.page (wAt e.words 4 % 65536) (dAt e.words 2 / 65536 * 65536)) false)) ∧
  (∀ (s : State) fn q e, s.plat.verified = true → s.serviceQueue fn = some q → q.next? = some e → e.bad = false → wAt e.words 0 % 256 = 2 →
    (e.words.getD 0 0).getLsbD 8 = false → Config.ctxFunction (wAt e.words 4 % 65536) = fn → exec (.serviceFail fn) s =
      .next ((s.qTake q.id 1).replayKey (dAt e.words 2 / 2 ^ 56 % 8)
        (.page (wAt e.words 4 % 65536) (dAt e.words 2 / 65536 * 65536)) true)) ∧
  (∀ (s : State) q e, s.plat.verified = true → s.serviceQueue 0 = some q → q.next? = some e → e.bad = false → wAt e.words 0 % 256 = 3 →
    dAt e.words 2 / 2 ^ 56 = 4 → (dAt e.words 2).testBit 55 = false → dAt e.words 2 % 4096 = 0 → exec (.snapshot 0) s =
      .next ((s.qTake q.id 1).ctxStore 0 (dAt e.words 2) (s.qTake q.id 1).snapshotWords)) ∧
  (∀ (s : State) q e n, s.plat.verified = true → s.serviceQueue 0 = some q → q.next? = some e → e.bad = false → wAt e.words 0 % 256 = 4 →
    ctlSize (wAt e.words 1) = some n → exec (.write 0) s =
      .next ((s.qTake q.id 1).mgWrite (wAt e.words 1) n (dAt e.words 2))) ∧
  (∀ (s : State) fn q e pa u, s.plat.verified = true → s.serviceQueue fn = some q → q.next? = some e → e.bad = false → wAt e.words 0 % 256 = 5 →
    s.attestFirst fn = true → Config.ctxFunction (wAt e.words 4 % 65536) = fn → dAt e.words 2 / 2 ^ 56 = 4 → (dAt e.words 2).testBit 55 = false →
    dAt e.words 2 % 4096 = 0 → (s.qTake q.id 1).translate (wAt e.words 4 % 65536) .atomic (dword (dAt e.words 2)) = (.ok pa, u) →
    ∃ w, exec (.attest fn) s = .next w ∧ w.plat.reports = u.plat.reports + 1 ∧
      w.mem = (((u.storeBytes (pa + 0x40) (u.reportBody (memBytes u.mem pa 32) ++
        (Config.sm2Sign (u.reportBody (memBytes u.mem pa 32))).take 64)).homeWrite (pa + 0x38) 8 1)).mem))

/-- While the verified image runs: LAUNCH_QUEUE_REGISTER, LAUNCH_QUEUE_UNREGISTER, SLOT_BIND, SLOT_UNBIND, PLIMIT_WRITE,
COUNTER_CLEAR, MGMT_REGISTER_WRITE, TRACE_ENABLE, TRACE_RESTART and VF_ENABLE complete with their write done: PLIMIT clamped to
1,000-2,000 watts, a counter 0, an 8-byte entry written whole, an unregistered entry no longer valid, a slot whose command is in
progress still bound to that command's queue until it is done. TRACE_SYNC_PERIODIC of an enabled core that has written 65,536
records since its last SYNC completes with a SYNC group written. TRACE_SAMPLE, where a sample is due, of a core that samples
completes with the sample of the next occupied thread slot after the last sampled one, with wrap, recorded and its slot and cycle
kept; with no occupied slot with the cycle kept alone. That samples fall on the multiples of the period counted from reset is the
model's choice (assumption log 27, trace), and so is that an enabled VF is READY at once (log 34, READY). (R453, R455, R457, R458,
R475, R476, R477, R478, R483, R484) -/
def Obligations.FirmwareWrites : Prop :=
  ((∀ (s : State) n ctx q, s.plat.verified = true → n < 256 → exec (.launchQueueRegister n ctx q) s =
    .next (s.writeLaunchQ n (2 ^ 32 + ctx % 65536 * 2 ^ 16 + q % 65536))) ∧
  (∀ (s : State) n, s.plat.verified = true → n < 256 → ∃ w, exec (.launchQueueUnregister n) s = .next w ∧ (w.launchQ n).1 = false ∧
    (w.launchQ n).2 = (s.launchQ n).2) ∧
  (∀ (s : State) fn n q x, s.plat.verified = true → fn < 17 → n < 16 → s.queue? (q % 65536) = some x → Config.ctxFunction x.ctx = fn →
    ∃ w, exec (.slotBind fn n q) s = .next w ∧ w.slotQueue fn n = some (q % 65536)) ∧
  (∀ (s : State) fn n, s.plat.verified = true → fn < 17 → n < 16 → (s.slot fn n).done = true →
    ∃ w, exec (.slotUnbind fn n) s = .next w ∧ w.slotQueue fn n = none) ∧
  (∀ (s : State) fn n q, s.plat.verified = true → fn < 17 → n < 16 → (s.slot fn n).done = false → s.slotQueue fn n = some q →
    ((s.mg (slotQAt fn n)).getLsbD 31 = true → (s.slot fn n).unbind = false → (s.slot fn n).cmdQ = q →
      ∃ w, exec (.slotUnbind fn n) s = .next w ∧ w.slotQueue fn n = some q ∧ (w.slot fn n).unbind = true)) ∧
  (∀ (s : State) v, s.plat.verified = true → ∃ w, exec (.plimitWrite v) s = .next w ∧ (w.mg 0x018).toNat = min 2000 (max 1000 (v.toNat % 4096)) ∧
    (∀ o, o ≠ 0x018 → w.mg o = s.mg o) ∧ w.mem = s.mem) ∧
  (∀ (s : State) o, s.plat.verified = true → isCounter o = true → ∃ w, exec (.counterClear o) s = .next w ∧ w.mg o = 0 ∧ ∀ p, p ≠ o → w.mg p = s.mg p) ∧
  (∀ (s : State) o n v, s.plat.verified = true → exec (.mgmtRegisterWrite o n v) s = .next (s.mgWrite o n v.toNat)) ∧
  (∀ (s : State) o v, s.plat.verified = true → o % 4 = 0 → mgKind o = .absent → exec (.mgmtRegisterWrite o 4 v) s = .next s ∧ s.mgRead o 4 = 0) ∧
  (∀ (s : State) c, s.plat.verified = true → c < 320 → exec (.traceEnable c) s = .next (s.writeTrctl c ((s.mg (trctlAt c) &&& ~~~4) ||| 1)) ∧
    exec (.traceRestart c) s = .next (s.writeTrctl c ((s.mg (trctlAt c) &&& ~~~4) ||| 4))) ∧
  (∀ (s : State) n, s.plat.verified = true → n ≤ 16 → ∃ r, exec (.vfEnable n) s = .next { s with plat := { s.plat with vfs := n, ready := r } } ∧
    r.getLsbD 0 = s.plat.ready.getLsbD 0 ∧ ∀ f, 1 ≤ f → f < 17 → r.getLsbD f = decide (f ≤ n))) ∧
  ((∀ (s : State) c, c < 320 → s.trEn c = true → 65536 ≤ (s.traceUnit c).sinceSync → exec (.traceSyncPeriodic c) s = .next (s.traceSync c)) ∧
  (∀ (s : State) c, c < 320 → s.trSampling c = true → (s.mg (coreBlock c + 0x10C)).toNat % 65536 ≠ 0 →
    s.cycle (.core c) % (1024 * ((s.mg (coreBlock c + 0x10C)).toNat % 65536)) = 0 → (s.traceUnit c).lastSample < s.cycle (.core c) →
    let all := (s.actorsOn c).filterMap (fun a => (s.thread? a).map (fun t => (a, t)));
    (all = [] → exec (.traceSample c) s = .next (s.setTrace { s.traceUnit c with lastSample := s.cycle (.core c) })) ∧
    (all ≠ [] → ∃ x ∈ all, (∀ y ∈ all, (x.2.slot + 2047 - (s.traceUnit c).lastSlot) % 2048 ≤ (y.2.slot + 2047 - (s.traceUnit c).lastSlot) % 2048) ∧
      let u := s.setTrace { s.traceUnit c with lastSample := s.cycle (.core c), lastSlot := x.2.slot };
      exec (.traceSample c) s = .next (if u.trEn c then u.traceEmit c (u.sampleRecord c x.1 x.2)
        else u.traceRaw c (u.sampleRecord c x.1 x.2)))))

/-- BOOT right after reset and RECOVERY_IMAGE_WRITE while in recovery complete with the image verified, READY and the management
processor at its entry, or in recovery; PCIE_LINK_TRAIN with generation and width; LINK_FLIT_REPLAY and PORT_DOWN counted; with the
last port every module cut; MODULE_UNREACHABLE noted and its accesses ended; EASEL_STREAM_RESUME with the stream going on or ended;
JENAH_PEER_REQUEST performed at the home; MEMORY_SCRUB counted or the sector failing; THERMAL_THROTTLE and THERMAL_SHUTDOWN with
their states. That the PF is READY as its image starts is the model's choice (assumption log 34, READY), and so are that no crew is
left after THERMAL_SHUTDOWN (log 38, thermal), how an access to a cut module ends (log 37, unreachable) and what a scrub finds (log
40, scrub). (R290, R452, R453, R466, R467, R468, R483, R484) -/
def Obligations.PlatformSteps : Prop :=
  (∀ (s : State), s.plat.verified = false → s.plat.recovery = false → exec .boot s = .next (s.bootImage (s.plat.flash.getD Config.flashImage))) ∧
  (∀ (s : State) l, s.plat.recovery = true → exec (.recoveryImageWrite l) s = .next (s.bootImage l)) ∧
  (∀ (s : State) l, (Config.sm2Verify (Config.sm3 l) l = true → (s.bootImage l).plat.ready = 1 ∧ (s.bootImage l).plat.verified = true ∧
      (s.bootImage l).plat.recovery = false ∧ ∃ t, (s.bootImage l).thread? .mp = some t ∧ t.pc = Config.mpEntry l) ∧
    (Config.sm2Verify (Config.sm3 l) l = false → (s.bootImage l).plat.ready = 0 ∧ (s.bootImage l).plat.recovery = true ∧
      (s.bootImage l).threads = s.threads)) ∧
  (∀ (s : State) g w, 5 ≤ g → 1 ≤ w → ∃ u, exec (.pcieLinkTrain g w) s = .next u ∧ u.plat.pcieGen = min g 7 ∧ u.plat.pcieWidth ≤ w ∧
    u.plat.pcieWidth ∈ [16, 8, 4, 1] ∧ ∀ k ∈ [16, 8, 4, 1], k ≤ w → k ≤ u.plat.pcieWidth) ∧
  (∀ (s : State) l, l < 17 → exec (.linkFlitReplay l) s = .next (s.countMg (linkReplayAt l))) ∧
  (∀ (s : State) p, p < 16 → p ∉ s.plat.portsDown →
    let u := ({ s with plat := { s.plat with portsDown := p :: s.plat.portsDown } } : State).countMg (portDownAt p);
    exec (.portDown p) s = .next (if s.plat.portsDown.length < 15 then u else (List.range 32).foldl State.cutModule u)) ∧
  (∀ (s : State) d, d < 32 → d ∉ s.plat.unreachable → exec (.moduleUnreachable d) s =
    .next (({ s with plat := { s.plat with unreachable := d :: s.plat.unreachable } } : State).cutModule d)) ∧
  (∀ (s : State) k t, (s.engine k).stopped = true → s.plat.verified = true → k < 80 → s.thread? (.easel k) = some t →
    (∀ pc, ∃ w t', exec (.easelStreamResume k (some pc)) s = .next w ∧ w.thread? (.easel k) = some t' ∧ t'.pc = pc ∧ t'.wait = s.restWait (.easel k) ∧
      (w.engine k).stopped = false) ∧ (∃ w t', exec (.easelStreamResume k none) s = .next w ∧ w.thread? (.easel k) = some t' ∧ t'.exited = true)) ∧
  (∀ (s : State) ctx die va op pa u, (∀ t f, op ≠ .replay t f) → die < 4 → (peerNeeds op).2 ≠ 0 → 256 % (peerNeeds op).2 = 0 →
    (peerNeeds op).2 ≤ 256 → va % (peerNeeds op).2 = 0 → s.translate ctx (peerNeeds op).1 (dword (die * 2 ^ 56 + va % 2 ^ 48)) = (.ok pa, u) →
    exec (.jenahPeerRequest ctx die va op) s = .next (u.peerPerform pa op)) ∧
  (∀ (s : State) k n, k < 8 → n * 32 / 2 ^ 36 = k → exec (.memoryScrub k n .clean) s = .next s ∧
    exec (.memoryScrub k n .corrected) s = .next (s.countMg (scrubFixAt k)) ∧
    ∃ w, exec (.memoryScrub k n .uncorrectable) s = .next w ∧ w.mem = s.mem ∧ cget 0 w.failing n = BitVec.allOnes 32) ∧
  (∀ (s : State) m c, exec (.thermalThrottle m c) s = .next { s with plat := { s.plat with
    throttled := decide (95 < c ∨ 1000 * ((s.mg 0x018).toNat % 4096) < m) } }) ∧
  (∀ (s : State) c, 110 < c → s.plat.stopped = false → ∃ w, exec (.thermalShutdown c) s = .next w ∧ w.plat.stopped = true ∧ w.plat.ready = 0 ∧
    w.crews = [])

/-- NOP.c, MOV.c, IADD.c, ISUB.c, AND.c, OR.c, XOR.c, SHL.c, SHR.c, SAR.c, IADDI.c, MOVI.c, IMUL.c, IMIN.c, IMAX.c, FADD.c,
FMUL.c, FMAX.c and FMIN.c that stand alone complete whenever they issue, as their full forms at s32 without saturation, or at
f32 and rne, do: both read the same operands into the same destination, and from the same words of registers they give the
same result words. (R140, R186, R100) -/
def Obligations.CompactFormsActAsFullOnes : Prop :=
  (∀ d s, SameWords (.movC false d s) (.mov ⟨⟨31, false⟩, 0, .reg d, .reg s, .none, .none⟩ .s32)) ∧
  (∀ d s, SameWords (.iaddC false d s) (.iadd ⟨⟨31, false⟩, 0, .reg d, .reg d, .reg s, .none⟩ .s32 false)) ∧
  (∀ d s, SameWords (.isubC false d s) (.isub ⟨⟨31, false⟩, 0, .reg d, .reg d, .reg s, .none⟩ .s32 false)) ∧
  (∀ d s, SameWords (.andC false d s) (.and ⟨⟨31, false⟩, 0, .reg d, .reg d, .reg s, .none⟩ .s32)) ∧
  (∀ d s, SameWords (.orC false d s) (.or ⟨⟨31, false⟩, 0, .reg d, .reg d, .reg s, .none⟩ .s32)) ∧
  (∀ d s, SameWords (.xorC false d s) (.xor ⟨⟨31, false⟩, 0, .reg d, .reg d, .reg s, .none⟩ .s32)) ∧
  (∀ d k, SameWords (.shlC false d k) (.shl ⟨⟨31, false⟩, 0, .reg d, .reg d, .none, .imm (k.setWidth 8)⟩ .s32)) ∧
  (∀ d k, SameWords (.shrC false d k) (.shr ⟨⟨31, false⟩, 0, .reg d, .reg d, .none, .imm (k.setWidth 8)⟩ .s32)) ∧
  (∀ d k, SameWords (.sarC false d k) (.sar ⟨⟨31, false⟩, 0, .reg d, .reg d, .none, .imm (k.setWidth 8)⟩ .s32)) ∧
  (∀ d k, SameWords (.iaddiC false d k) (.iadd ⟨⟨31, false⟩, 0, .reg d, .reg d, .none, .imm (k.signExtend 8)⟩ .s32 false)) ∧
  (∀ d k, SameWords (.moviC false d k) (.movi ⟨⟨31, false⟩, 0, .reg d, .none, .none, .none⟩ .s32 (k.signExtend 32))) ∧
  (∀ d s, SameWords (.imulC false d s) (.imul ⟨⟨31, false⟩, 0, .reg d, .reg d, .reg s, .none⟩ .s32 false)) ∧
  (∀ d s, SameWords (.iminC false d s) (.imin ⟨⟨31, false⟩, 0, .reg d, .reg d, .reg s, .none⟩ .s32)) ∧
  (∀ d s, SameWords (.imaxC false d s) (.imax ⟨⟨31, false⟩, 0, .reg d, .reg d, .reg s, .none⟩ .s32)) ∧
  (∀ d s, SameWords (.faddC false d s) (.fadd ⟨⟨31, false⟩, 0, .reg d, .reg d, .reg s, .none⟩ .f32 .rne)) ∧
  (∀ d s, SameWords (.fmulC false d s) (.fmul ⟨⟨31, false⟩, 0, .reg d, .reg d, .reg s, .none⟩ .f32 .rne)) ∧
  (∀ d s, SameWords (.fmaxC false d s) (.fmax ⟨⟨31, false⟩, 0, .reg d, .reg d, .reg s, .none⟩ .f32)) ∧
  (∀ d s, SameWords (.fminC false d s) (.fmin ⟨⟨31, false⟩, 0, .reg d, .reg d, .reg s, .none⟩ .f32)) ∧
  (Completes (.nopC false) (fun _ => []) ∧ Completes (.nop ⟨⟨31, false⟩, 0, .none, .none, .none, .none⟩) (fun _ => []))

/-- LD.c and ST.c that stand alone complete as a 32-bit scratch load into RD and store of RD at RS + 4 x IMM7 do; BRA.c with the
program counter four times its offset on. A pair whose engine, pairing and register checks pass issues once its windows and
registers are ready. A pair of operations that are neither LD.c, ST.c nor BRA.c, issued from its registers, ends with the
result of each, both computed from the state at issue, in its destination, and the program counter 8 past it, counted as two
instructions; with BRA.c second, the first takes effect and the program counter is four times the offset past the branch,
which stands at the second parcel. (R102, R103, R118, R141, R142) -/
def Obligations.CompactMemoryAndPairs : Prop :=
  ((∀ d s k, CompletesIf (.ldC false d s k) (Loads .x 4 false (4 * k.toNat))) ∧
  (∀ d s k, CompletesIf (.stC false d s k) (Stores .x 4 (4 * k.toNat))) ∧
  (∀ off, JumpsIf (.braC false off) (fun _ _ => none) (fun _ t _ u pc w => pc = t.pc + BitVec.ofInt 64 (4 * off.toInt) ∧ w = u)) ∧
  (∀ (s : State) (a : Actor) t x y, s.grp.who = some a → s.thread? a = some t → s.canIssue a t = true → compactEngine a x = none → compactEngine a y = none →
    pairFault t.pc x y true = none → compactRegs a t x = none → compactRegs a t y = none → s.windowsOpen a 2 = true →
    s.scoreboard a ((compactReads x ++ compactReads y).map (·.toNat) ++ (compactDest x).codes ++ (compactDest y).codes) = true →
    exec (.compactPairIssue x y) s = .next (s.performPair a t x y))) ∧
  ((∀ (s : State) (a : Actor) t x y, t.replay = none → compactIsMem x = false → compactIsMem y = false → compactIsBra x = false → compactIsBra y = false →
    s.performPair a t x y = (((s.writeDest a (compactDest x) (compactWords x (s.capture a t (issOf (x.toInstr false))).1)).writeDest a
      (compactDest y) (compactWords y (s.capture a t (issOf (y.toInstr false))).1)).issued a 2 (t.pc + 8))) ∧
  (∀ (s : State) (a : Actor) t x off, t.replay = none → compactIsMem x = false → compactIsBra x = false → s.performPair a t x (.bra off) =
    ((s.writeDest a (compactDest x) (compactWords x (s.capture a t (issOf (x.toInstr false))).1)).issued a 2
      (t.pc + 4 + BitVec.ofInt 64 (4 * off.toInt)))))

/-- A pair at P is well formed exactly when P is a multiple of 8, the second is compact with PAIR = 0, the reads of both lie in
distinct banks, the second does not name the first's RD, and a branch or memory operation stands alone, a branch second.
Where it is not, COMPACT_PAIR_ISSUE whose engine checks pass completes with ILLEGAL_PAIR raised at the first parcel, DETAIL
naming the parcel that R102's table blames for the first broken rule, 1 to 5. Where the reads of the first clash among themselves and
with the second's, that is parcel 0: the model's reading (assumption log 24, pairs). (R102, R100) -/
def Obligations.PairRules : Prop :=
  (∀ pc x y plain, pairFault pc x y plain = none ↔ pc.toNat % 8 = 0 ∧ plain = true ∧
    (compactReads x ++ compactReads y).Pairwise (fun c d => c.toNat % 4 ≠ d.toNat % 4) ∧
    (∀ d, compactRd x = some d → d ∉ compactReads y ∧ compactRd y ≠ some d) ∧ compactIsBra x = false ∧
    (compactIsMem x = false ∨ (compactIsMem y = false ∧ compactIsBra y = false))) ∧
  (∀ pc x y plain n, pairFault pc x y plain = some n → (pc.toNat % 8 ≠ 0 → n = 0) ∧ (pc.toNat % 8 = 0 → plain = false → n = 1) ∧
    (pc.toNat % 8 = 0 → plain = true → ¬(compactReads x).Pairwise (fun c d => c.toNat % 4 ≠ d.toNat % 4) → n = 0) ∧
    (pc.toNat % 8 = 0 → plain = true → (compactReads x).Pairwise (fun c d => c.toNat % 4 ≠ d.toNat % 4) →
      ¬(compactReads x ++ compactReads y).Pairwise (fun c d => c.toNat % 4 ≠ d.toNat % 4) → n = 1) ∧
    (pc.toNat % 8 = 0 → plain = true → (compactReads x ++ compactReads y).Pairwise (fun c d => c.toNat % 4 ≠ d.toNat % 4) →
      ((∃ d, compactRd x = some d ∧ (d ∈ compactReads y ∨ compactRd y = some d)) → n = 1) ∧
      ((∀ d, compactRd x = some d → d ∉ compactReads y ∧ compactRd y ≠ some d) → (compactIsBra x = true → n = 0) ∧
        (compactIsBra x = false → n = 1)))) ∧
  (∀ (s : State) (a : Actor) t x y n, s.grp.who = some a → s.thread? a = some t → s.canIssue a t = true → compactEngine a x = none → compactEngine a y = none →
    pairFault t.pc x y true = some n → ∃ z, z.pc = t.pc ∧ z.len = 8 ∧ z.captured = false ∧ exec (.compactPairIssue x y) s =
      .next (s.raise a z { code := 0x04, detail := BitVec.ofNat 64 n }))

/-- After reset there is no thread, crew, context, queue or launch, memory has nothing listed, no cycle has been counted, BOOT is
the next step; no function is READY or in recovery and no VF is enabled; PLIMIT is 2,000; every counter, TRCTL and SPERIOD is
0, no launch queue is registered and no slot bound; no engine has an owner. That memory with nothing listed reads 0 is the
model's choice (assumption log 5, unwritten memory). (R10, R138, R454, R457, R458, R468, R475, R483) -/
def Obligations.ResetState : Prop :=
  let s := State.reset; s.threads = [] ∧ s.crews = [] ∧ s.squads = [] ∧ s.launches = [] ∧ s.ctxs = [] ∧ s.queues = [] ∧ s.mem = [] ∧
  s.grp.rest = [] ∧ s.agenda = [.boot] ∧ s.plat.ready = 0 ∧ s.plat.recovery = false ∧ s.plat.verified = false ∧ s.plat.vfs = 0 ∧
  (∀ i, s.cycle i = 0) ∧ s.mg 0x018 = 2000 ∧ (∀ o, isCounter o = true → s.mg o = 0) ∧ (∀ c, c < 320 → s.mg (trctlAt c) = 0 ∧
    s.mg (coreBlock c + 0x10C) = 0) ∧ (∀ n, n < 256 → (s.launchQ n).1 = false) ∧ (∀ f n, f < 17 → n < 16 → s.slotQueue f n = none) ∧
  (∀ k, (s.engine k).owner = none) ∧ ∀ a, memByte s.mem a = 0

/-- When the next thread of the group under way can issue, is in no formed meeting, has no soft error pending and no breakpoint
matches, and the parcels at its program counter are fetched and decode to an instruction, step is exec of that instruction in the
state after the fetch, in which that thread acts, its parcels are noted and the others of the group are still to act, followed by
what ends a group once none is left. When it is in a formed meeting, step is the meeting's issue, with nothing fetched. (R28, R30,
R36, R96, R98) -/
def Obligations.StepRunsTheDecodedInstruction : Prop :=
  (∀ (s : State) (a : Actor) (r : List Actor) (t : Thread) (p0 p1 p2 : Word) (u : State) (i : Instr), s.grp.rest = a :: r →
  let s1 : State := { s with tick := s.tick + 1, grp := { s.grp with who := some a, rest := r } }
  s1.thread? a = some t → s1.canIssue a t = true → t.met = none → t.softErr = none → s1.breaks t = false →
  s1.fetch t = (.got p0 p1 p2, u) → decode p0 p1 p2 = .ok i →
  step s = mapNext State.endGroup (exec i { u with grp := { u.grp with parcels := [p0, p1, p2] } }) ∧ u.grp = s1.grp ∧ u.thread? a = some t) ∧
  (∀ (s : State) (q : TRef) (r : List Actor) (t : Thread) (m : Meet), s.grp.rest = .thread q :: r →
  let s1 : State := { s with tick := s.tick + 1, grp := { s.grp with who := some (.thread q), rest := r } }
  s1.thread? (.thread q) = some t → s1.canIssue (.thread q) t = true → t.met = some m →
  step s = mapNext State.endGroup (exec (.meetingIssue q) { s1 with grp := { s1.grp with parcels := [] } }))

/-- With no thread left in the group, step is exec of the first entry of the agenda with it taken off; with an empty agenda, exec
of what the free schedule gives where that is a step of the device's agents, and else only the tick passes. That the agenda
goes first is the model's own (assumption log 2, agenda). (R30, R36, R468) -/
def Obligations.StepTakesTheNextEvent : Prop :=
  (∀ (s : State) e r, s.grp.rest = [] → s.agenda = e :: r →
    step s = exec e { s with tick := s.tick + 1, agenda := r, grp := { s.grp with who := none } }) ∧
  (∀ (s : State), s.grp.rest = [] → s.agenda = [] → step s = if isEvent (Config.schedule (s.tick + 1)) then
      exec (Config.schedule (s.tick + 1)) { s with tick := s.tick + 1, grp := { s.grp with who := none } }
    else .next { s with tick := s.tick + 1 }) ∧
  (step State.reset = exec .boot { State.reset with tick := 1, agenda := [] })

/-- For every full instruction, when the acting thread's guard is false: it completes with the program counter past the
instruction and nothing else done than the advance of an issue, or its thread does not issue in this cycle, or it raises a
cause of the decode checks, with no operand captured. (R106, R30, R118) -/
def Obligations.GuardedOffInstructionsOnlyAdvance : Prop :=
  ∀ (i : Instr) (x : Args) (s : State) (a : Actor) (t : Thread), i.args = some x → s.grp.who = some a → s.thread? a = some t →
  guardOn t x.guard = false →
  exec i s = .next (s.issued a 1 (t.pc + BitVec.ofNat 64 i.bytes)) ∨ exec i s = .next (s.stall a .none) ∨
  ∃ z c, z.captured = false ∧ z.pc = t.pc ∧ c.code ∈ [0x03, 0x05, 0x07, 0x08] ∧ exec i s = .next (s.raise a z c)

/-- When an integer, logic, floating-point or conversion instruction that computes a result from its operands (all of those rows
but CVTN), NOP, PREF or PSET issues and completes: memory, the L1 copies, scratchpads, squads and management registers stay;
of every thread the draw and rounding counters, the trap record and the WID; of every other thread the program counter,
registers and predicates; of the own thread every register and predicate that the destination does not name. Where it names a register
of a ring, the other registers of that ring may change too; where it is a channel, only registers of the channel's ring do. (R18, R30,
R107, R108, R119) -/
def Obligations.RegisterOnlyFrame : Prop :=
  ∀ (i : Instr) (s : State) (a : Actor) (t : Thread) (v : Vals) (d : Dest) (u w : State), registerOnly i = true →
  Issues s (issOf i) none a t v d u → exec i s = .next w →
  w.mem = s.mem ∧ w.l1 = s.l1 ∧ w.failing = s.failing ∧ (∀ c o, w.scratchRead c o 1 = s.scratchRead c o 1) ∧
  (∀ e, w.palEntry t.ctx e = s.palEntry t.ctx e) ∧ SameRegisters s w a d

/-- When ST in either form, whose destination is none, issues: at the scratch offset that the checks of its address give, it
completes with every other scratch byte and all other memory as before; at the address and home they give, outside versioned
memory, with every home byte outside the stored ones as before, all of memory where the store stays in the core's L1, every
byte of every core's L1 view outside the stored ones as before, and the scratchpads too. No register, predicate or counter
changes. (R198, R199, R200, R203) -/
def Obligations.StoreFrame : Prop :=
  ∀ (i : Instr) (x : Args) (k : Width) (sp : Space) (off : Int) (s : State) (a : Actor) (t : Thread) (v : Vals) (u : State) (r : Reach) (u' : State),
  ((i = .st x k sp ∧ off = offsetOf x) ∨ ∃ l, i = .stLong x k sp l ∧ off = l.toInt) → Issues s (issOf i) none a t v .none u →
  u.reach a t .store sp (memEa sp v.a off) k.bytes = (r, u') →
  (∀ o, r = .scratch o → ∃ w, exec i s = .next w ∧ w.mem = s.mem ∧ w.l1 = s.l1 ∧ SameRegisters s w a .none ∧
    ∀ c b, ¬(c = crewOf a ∧ o ≤ b ∧ b < o + k.bytes) → w.scratchRead c b 1 = s.scratchRead c b 1) ∧
  (∀ ea pa, r = .go ea pa → (u'.portOf a t.ctx sp).version? ea = none → ∃ w, exec i s = .next w ∧ SameRegisters s w a .none ∧
    (∀ c b, w.scratchRead c b 1 = s.scratchRead c b 1) ∧ (isVector a = true → w.mem = s.mem) ∧
    (∀ b, ¬(pa ≤ b ∧ b < pa + k.bytes) → memByte w.mem b = memByte s.mem b) ∧
    ∀ core ctx (e : Dword) b, ¬(isVector a = true ∧ core = s.coreOf a ∧ ctx = t.ctx ∧ ea.toNat ≤ e.toNat ∧ e.toNat < ea.toNat + k.bytes) →
      ¬(pa ≤ b ∧ b < pa + k.bytes) → b % 8 = e.toNat % 8 → (w.l1Load core ctx e b 1).1 = (s.l1Load core ctx e b 1).1)

/-- When LD in either form issues and its access gets through, it completes with its result outstanding under the thread and its
destination; every byte of memory at its home, every scratch byte, every register, predicate, counter, squad register and
management register is as before, and the program counter of every other thread. (R113, R114, R199, R203) -/
def Obligations.LoadFrame : Prop :=
  ∀ (i : Instr) (x : Args) (k : Width) (sp : Space) (off : Int) (s : State) (a : Actor) (t : Thread) (v : Vals) (d : Dest) (u : State) (ws : List Word)
  (y : State), ((i = .ld x k sp ∧ off = offsetOf x) ∨ ∃ l, i = .ldLong x k sp l ∧ off = l.toInt) → Issues s (issOf i) none a t v d u →
  Loads sp k.bytes (Width.sgn k) off a t v u ws y → ∃ w, exec i s = .next w ∧ w.mem = s.mem ∧ w.failing = s.failing ∧
    (∀ c b, w.scratchRead c b 1 = s.scratchRead c b 1) ∧ SameRegisters s w a .none ∧
    ∃ f, w.flights.getLast? = some f ∧ f.owner = a ∧ f.dest = d ∧ f.work = .value ws ∧ f.long = true ∧ f.park = none ∧ f.pc = t.pc

/-- A cause raised in a thread of a vector core that is not in its handler, not of a task behind the frontier and whose results
are settled, completes with the thread in its handler: CAUSE, DETAIL, FADDR and ACCESS as raised, EPC the instruction (or
what the cause names), FPC, EWID, SAVEP and SAVEV0-7 the thread's, the captured sources in OPND0-15, RES0 and RES1 zero; the
program counter is HENTRY and the open region closes; registers, predicates and memory stay. (R436, R438, R441) -/
def Obligations.TrapEntryRecord : Prop :=
  ∀ (s : State) (r : TRef) (t : Thread) (x : Site) (c : Cause), s.thread? (.thread r) = some t → t.inHandler = false → t.reissuing = false →
  s.speculative (.thread r) = false → s.settled (.thread r) = true → c.next = false →
  ∃ t', (s.raise (.thread r) x c).thread? (.thread r) = some t' ∧ t'.inHandler = true ∧ t'.pc = (s.pktOf t).hentry ∧ t'.region = none ∧
    t'.trap.cause = c.code ∧ t'.trap.detail = c.detail ∧ t'.trap.epc = c.epc.getD x.pc ∧ t'.trap.ewid = c.ewid.getD t.wid ∧
    t'.trap.fpc = x.pc ∧ t'.trap.faddr = c.faddr ∧ t'.trap.access = c.access ∧ t'.trap.res0 = 0 ∧ t'.trap.res1 = 0 ∧
    t'.trap.savep = BitVec.ofNat 32 (t.preds.toNat % 256) ∧
    (∀ i, i < 8 → cget 0 t'.trap.savev i = if i < t.nregs then cget 0 t.regs i else 0) ∧
    (∀ i, i < 16 → cget 0 t'.trap.opnd i = x.srcs.getD i 0) ∧ t'.regs = t.regs ∧ t'.preds = t.preds ∧
    (s.raise (.thread r) x c).mem = s.mem

/-- Where the threads of a group have written one squad register that no later group and no higher lane had written, after the
group's end it holds the word of the highest of those lanes, whatever the order in which they issued. (R19) -/
def Obligations.SquadRegistersTakeTheHighestLane : Prop :=
  ∀ (s : State) (k : Nat × Nat × Bool) (q : Squad) (n : Nat) (ws : List (Nat × Word)) (l : Nat) (v : Word),
  s.squad? k = some q → (cget (0, 0) q.swrote n).1 < s.grp.num →
  s.grp.swrites = ws.map (fun x => (k, n, x.1, x.2)) → (l, v) ∈ ws → (∀ x ∈ ws, x.1 ≤ l) → (∀ x ∈ ws, x.1 = l → x.2 = v) →
  ∃ q', s.flushGroup.squad? k = some q' ∧ cget 0 q'.sregs n = v

/-- A read of n bytes at an address after a write of n bytes there gives the written value modulo its width; every byte outside
the written ones reads as before; and memory in canonical form stays in it. (R7, R206) -/
def Obligations.ReadAfterWriteAtHome : Prop :=
  ∀ (s : State) (a n v : Nat), (s.homeWrite a n v).homeRead a n = v % 2 ^ (8 * n) ∧
  (Memory.wf s.mem = true → Memory.wf (s.homeWrite a n v).mem = true) ∧ ∀ b, ¬(a ≤ b ∧ b < a + n) → memByte (s.homeWrite a n v).mem b = memByte s.mem b

/-- The worked encodings of R118 decode to NOP, FADD under a predicate, FDIV, FFMA with a popped channel, ICMP, CVTN, BRA, MOVI,
a compact pair's first parcel, MOVI.c and BRA.c; the error rows are refused by their causes. (R99, R105, R118) -/
def Obligations.DecodeWords : Prop :=
  decodeWords [0x00007C01, 0] = .ok (.nop ⟨⟨31, false⟩, 0, .none, .none, .none, .none⟩) ∧
  decodeWords [0x1C017C69, 0x04000078] = .ok (.icmp ⟨⟨31, false⟩, 0, .pred 1, .reg 14, .reg 15, .none⟩ .u32 .eq) ∧
  decodeWords [0x0A040C81, 0x20000030] = .ok (.fadd ⟨⟨3, false⟩, 0, .reg 4, .reg 5, .reg 6, .none⟩ .f32 .rz) ∧
  decodeWords [0x08037CA1, 0x00800028] = .ok (.fdiv ⟨⟨31, false⟩, 2, .reg 3, .reg 4, .reg 5, .none⟩ .f32 .rne) ∧
  decodeWords [0x00087C8D, 0x0001404E] = .ok (.ffma ⟨⟨31, false⟩, 0, .reg 8, .chan 0 true, .reg 9, .reg 10⟩ .f32 .rne) ∧
  decodeWords [0x08087D05, 0x80A0E038] = .ok (.cvtn ⟨⟨31, false⟩, 2, .reg 8, .run 4 4, .imm 7, .imm 7⟩ .f32 .sr) ∧
  decodeWords [0x00060981, 0] = .ok (.bra ⟨⟨2, false⟩, 0, .none, .none, .none, .none⟩ 6) ∧
  decodeWords [0x000A7C76, 0, 0x10000000] = .ok (.movi ⟨⟨31, false⟩, 0, .reg 10, .none, .none, .none⟩ .s32 0x10000000) ∧
  decodeWords [0x08002058] = .ok (.moviC false 16 4) ∧
  decodeWords [0xFFFE2058] = .ok (.moviC false 16 0x7FFF) ∧
  decodeWords [0x00121014] = .ok (.iaddC true 8 9) ∧
  decodeWords [0x00161C68] = .ok (.fmulC false 14 11) ∧
  decodeWords [0xE9FFFEA8] = .ok (.braC false 0x7FFFF4) ∧
  decodeWords [0x00000003] = .error .illegalLength ∧
  decodeWords [0x00007CD9, 0] = .error .undefinedOpcode ∧
  decodeWords [0x0A047C81, 0x10000030] = .error .reservedField ∧
  decodeWords [0x0A047C81, 0x00400030] = .error .reservedField ∧
  decodeWords [0x00000004] = .ok (.nopC true)

/-- For every instruction, with every operand at every value its encoding admits: the parcels that encode gives it decode to that
instruction. (R96, R99, R104, R105) -/
def Obligations.DecodeAfterEncode : Prop :=
  ∀ i : Instr, Laws.RoundTrip.Statement i

/-- From every state whose agenda holds only steps of the device's agents, step answers a next state whose agenda holds only such steps
too: every instruction completes, waits, or takes an exception in its thread, and none faults or refuses, and so on for ever. (R4,
R118, R436) -/
def Obligations.TheMachineNeverStops : Prop :=
  ∀ s : State, (∀ e ∈ s.agenda, isEvent e = true) → ∃ t, step s = .next t ∧ ∀ e ∈ t.agenda, isEvent e = true

/-- From every state whose memory is in canonical form, addresses strictly rising and no byte listed that reads as an unlisted
one, a step that goes on leaves it so: whatever instruction, write-back, copy, commit, migration or request is performed.
(R7, R444) -/
def Obligations.MemoryKeepsItsForm : Prop :=
  ∀ s t : State, Memory.wf s.mem = true → step s = .next t → Memory.wf t.mem = true

/-- Memory after reset is in canonical form and the agenda after reset holds only steps of the device's agents, and with any
instruction placed for fetching the same holds; placing one in any state keeps the form of memory and the agenda. (R10, R468) -/
def Obligations.ResetHasTheInvariants : Prop :=
  Memory.wf State.reset.mem = true ∧ (∀ e ∈ State.reset.agenda, isEvent e = true) ∧
  (∀ n w, Memory.wf (State.reset.withFetchWord n w).mem = true ∧ ∀ e ∈ (State.reset.withFetchWord n w).agenda, isEvent e = true) ∧
  ∀ (s : State) n w, Memory.wf s.mem = true → Memory.wf (s.withFetchWord n w).mem = true ∧ (s.withFetchWord n w).agenda = s.agenda
end

