-- ==== Sys2Proof/Laws/State.lean ====
section
/-! SUPPORT. One lemma per field for each plain update of the state: what the update leaves alone, and what it puts in its own field. -/

namespace Sys2Proof.Machine

variable (s : State)

/-! `State.setThread` changes threads alone. -/
@[simp] theorem State.setThread_threads (a : Actor) (t : Thread) : (s.setThread a t).threads = aset s.threads a t := rfl
@[simp] theorem State.setThread_grp (a : Actor) (t : Thread) : (s.setThread a t).grp = s.grp := rfl
@[simp] theorem State.setThread_agenda (a : Actor) (t : Thread) : (s.setThread a t).agenda = s.agenda := rfl
@[simp] theorem State.setThread_tick (a : Actor) (t : Thread) : (s.setThread a t).tick = s.tick := rfl
@[simp] theorem State.setThread_next (a : Actor) (t : Thread) : (s.setThread a t).next = s.next := rfl
@[simp] theorem State.setThread_squads (a : Actor) (t : Thread) : (s.setThread a t).squads = s.squads := rfl
@[simp] theorem State.setThread_crews (a : Actor) (t : Thread) : (s.setThread a t).crews = s.crews := rfl
@[simp] theorem State.setThread_launches (a : Actor) (t : Thread) : (s.setThread a t).launches = s.launches := rfl
@[simp] theorem State.setThread_ctxs (a : Actor) (t : Thread) : (s.setThread a t).ctxs = s.ctxs := rfl
@[simp] theorem State.setThread_cycles (a : Actor) (t : Thread) : (s.setThread a t).cycles = s.cycles := rfl
@[simp] theorem State.setThread_flights (a : Actor) (t : Thread) : (s.setThread a t).flights = s.flights := rfl
@[simp] theorem State.setThread_mem (a : Actor) (t : Thread) : (s.setThread a t).mem = s.mem := rfl
@[simp] theorem State.setThread_failing (a : Actor) (t : Thread) : (s.setThread a t).failing = s.failing := rfl
@[simp] theorem State.setThread_l1 (a : Actor) (t : Thread) : (s.setThread a t).l1 = s.l1 := rfl
@[simp] theorem State.setThread_mtlb (a : Actor) (t : Thread) : (s.setThread a t).mtlb = s.mtlb := rfl
@[simp] theorem State.setThread_items (a : Actor) (t : Thread) : (s.setThread a t).items = s.items := rfl
@[simp] theorem State.setThread_tokens (a : Actor) (t : Thread) : (s.setThread a t).tokens = s.tokens := rfl
@[simp] theorem State.setThread_records (a : Actor) (t : Thread) : (s.setThread a t).records = s.records := rfl
@[simp] theorem State.setThread_jobs (a : Actor) (t : Thread) : (s.setThread a t).jobs = s.jobs := rfl
@[simp] theorem State.setThread_engines (a : Actor) (t : Thread) : (s.setThread a t).engines = s.engines := rfl
@[simp] theorem State.setThread_savedEngines (a : Actor) (t : Thread) : (s.setThread a t).savedEngines = s.savedEngines := rfl
@[simp] theorem State.setThread_queues (a : Actor) (t : Thread) : (s.setThread a t).queues = s.queues := rfl
@[simp] theorem State.setThread_qcmds (a : Actor) (t : Thread) : (s.setThread a t).qcmds = s.qcmds := rfl
@[simp] theorem State.setThread_tasks (a : Actor) (t : Thread) : (s.setThread a t).tasks = s.tasks := rfl
@[simp] theorem State.setThread_relaunches (a : Actor) (t : Thread) : (s.setThread a t).relaunches = s.relaunches := rfl
@[simp] theorem State.setThread_rays (a : Actor) (t : Thread) : (s.setThread a t).rays = s.rays := rfl
@[simp] theorem State.setThread_vales (a : Actor) (t : Thread) : (s.setThread a t).vales = s.vales := rfl
@[simp] theorem State.setThread_raySeq (a : Actor) (t : Thread) : (s.setThread a t).raySeq = s.raySeq := rfl
@[simp] theorem State.setThread_services (a : Actor) (t : Thread) : (s.setThread a t).services = s.services := rfl
@[simp] theorem State.setThread_mgmt (a : Actor) (t : Thread) : (s.setThread a t).mgmt = s.mgmt := rfl
@[simp] theorem State.setThread_slots (a : Actor) (t : Thread) : (s.setThread a t).slots = s.slots := rfl
@[simp] theorem State.setThread_traces (a : Actor) (t : Thread) : (s.setThread a t).traces = s.traces := rfl
@[simp] theorem State.setThread_plat (a : Actor) (t : Thread) : (s.setThread a t).plat = s.plat := rfl
@[simp] theorem State.setThread_lastEntry (a : Actor) (t : Thread) : (s.setThread a t).lastEntry = s.lastEntry := rfl
@[simp] theorem State.setThread_accepts (a : Actor) (t : Thread) : (s.setThread a t).accepts = s.accepts := rfl
@[simp] theorem State.setThread_retiredTo (a : Actor) (t : Thread) : (s.setThread a t).retiredTo = s.retiredTo := rfl

/-! `State.updThread` changes threads alone. -/
@[simp] theorem State.updThread_grp (a : Actor) (f : Thread → Thread) : (s.updThread a f).grp = s.grp := by unfold State.updThread; split <;> rfl
@[simp] theorem State.updThread_agenda (a : Actor) (f : Thread → Thread) : (s.updThread a f).agenda = s.agenda := by unfold State.updThread; split <;> rfl
@[simp] theorem State.updThread_tick (a : Actor) (f : Thread → Thread) : (s.updThread a f).tick = s.tick := by unfold State.updThread; split <;> rfl
@[simp] theorem State.updThread_next (a : Actor) (f : Thread → Thread) : (s.updThread a f).next = s.next := by unfold State.updThread; split <;> rfl
@[simp] theorem State.updThread_squads (a : Actor) (f : Thread → Thread) : (s.updThread a f).squads = s.squads := by unfold State.updThread; split <;> rfl
@[simp] theorem State.updThread_crews (a : Actor) (f : Thread → Thread) : (s.updThread a f).crews = s.crews := by unfold State.updThread; split <;> rfl
@[simp] theorem State.updThread_launches (a : Actor) (f : Thread → Thread) : (s.updThread a f).launches = s.launches := by unfold State.updThread; split <;> rfl
@[simp] theorem State.updThread_ctxs (a : Actor) (f : Thread → Thread) : (s.updThread a f).ctxs = s.ctxs := by unfold State.updThread; split <;> rfl
@[simp] theorem State.updThread_cycles (a : Actor) (f : Thread → Thread) : (s.updThread a f).cycles = s.cycles := by unfold State.updThread; split <;> rfl
@[simp] theorem State.updThread_flights (a : Actor) (f : Thread → Thread) : (s.updThread a f).flights = s.flights := by unfold State.updThread; split <;> rfl
@[simp] theorem State.updThread_mem (a : Actor) (f : Thread → Thread) : (s.updThread a f).mem = s.mem := by unfold State.updThread; split <;> rfl
@[simp] theorem State.updThread_failing (a : Actor) (f : Thread → Thread) : (s.updThread a f).failing = s.failing := by unfold State.updThread; split <;> rfl
@[simp] theorem State.updThread_l1 (a : Actor) (f : Thread → Thread) : (s.updThread a f).l1 = s.l1 := by unfold State.updThread; split <;> rfl
@[simp] theorem State.updThread_mtlb (a : Actor) (f : Thread → Thread) : (s.updThread a f).mtlb = s.mtlb := by unfold State.updThread; split <;> rfl
@[simp] theorem State.updThread_items (a : Actor) (f : Thread → Thread) : (s.updThread a f).items = s.items := by unfold State.updThread; split <;> rfl
@[simp] theorem State.updThread_tokens (a : Actor) (f : Thread → Thread) : (s.updThread a f).tokens = s.tokens := by unfold State.updThread; split <;> rfl
@[simp] theorem State.updThread_records (a : Actor) (f : Thread → Thread) : (s.updThread a f).records = s.records := by unfold State.updThread; split <;> rfl
@[simp] theorem State.updThread_jobs (a : Actor) (f : Thread → Thread) : (s.updThread a f).jobs = s.jobs := by unfold State.updThread; split <;> rfl
@[simp] theorem State.updThread_engines (a : Actor) (f : Thread → Thread) : (s.updThread a f).engines = s.engines := by unfold State.updThread; split <;> rfl
@[simp] theorem State.updThread_savedEngines (a : Actor) (f : Thread → Thread) : (s.updThread a f).savedEngines = s.savedEngines := by unfold State.updThread; split <;> rfl
@[simp] theorem State.updThread_queues (a : Actor) (f : Thread → Thread) : (s.updThread a f).queues = s.queues := by unfold State.updThread; split <;> rfl
@[simp] theorem State.updThread_qcmds (a : Actor) (f : Thread → Thread) : (s.updThread a f).qcmds = s.qcmds := by unfold State.updThread; split <;> rfl
@[simp] theorem State.updThread_tasks (a : Actor) (f : Thread → Thread) : (s.updThread a f).tasks = s.tasks := by unfold State.updThread; split <;> rfl
@[simp] theorem State.updThread_relaunches (a : Actor) (f : Thread → Thread) : (s.updThread a f).relaunches = s.relaunches := by unfold State.updThread; split <;> rfl
@[simp] theorem State.updThread_rays (a : Actor) (f : Thread → Thread) : (s.updThread a f).rays = s.rays := by unfold State.updThread; split <;> rfl
@[simp] theorem State.updThread_vales (a : Actor) (f : Thread → Thread) : (s.updThread a f).vales = s.vales := by unfold State.updThread; split <;> rfl
@[simp] theorem State.updThread_raySeq (a : Actor) (f : Thread → Thread) : (s.updThread a f).raySeq = s.raySeq := by unfold State.updThread; split <;> rfl
@[simp] theorem State.updThread_services (a : Actor) (f : Thread → Thread) : (s.updThread a f).services = s.services := by unfold State.updThread; split <;> rfl
@[simp] theorem State.updThread_mgmt (a : Actor) (f : Thread → Thread) : (s.updThread a f).mgmt = s.mgmt := by unfold State.updThread; split <;> rfl
@[simp] theorem State.updThread_slots (a : Actor) (f : Thread → Thread) : (s.updThread a f).slots = s.slots := by unfold State.updThread; split <;> rfl
@[simp] theorem State.updThread_traces (a : Actor) (f : Thread → Thread) : (s.updThread a f).traces = s.traces := by unfold State.updThread; split <;> rfl
@[simp] theorem State.updThread_plat (a : Actor) (f : Thread → Thread) : (s.updThread a f).plat = s.plat := by unfold State.updThread; split <;> rfl
@[simp] theorem State.updThread_lastEntry (a : Actor) (f : Thread → Thread) : (s.updThread a f).lastEntry = s.lastEntry := by unfold State.updThread; split <;> rfl
@[simp] theorem State.updThread_accepts (a : Actor) (f : Thread → Thread) : (s.updThread a f).accepts = s.accepts := by unfold State.updThread; split <;> rfl
@[simp] theorem State.updThread_retiredTo (a : Actor) (f : Thread → Thread) : (s.updThread a f).retiredTo = s.retiredTo := by unfold State.updThread; split <;> rfl

/-! `State.updCrew` changes crews alone. -/
@[simp] theorem State.updCrew_crews (n : Nat) (f : Crew → Crew) : (s.updCrew n f).crews = updFirst (fun c => c.id == n) f s.crews := rfl
@[simp] theorem State.updCrew_grp (n : Nat) (f : Crew → Crew) : (s.updCrew n f).grp = s.grp := rfl
@[simp] theorem State.updCrew_agenda (n : Nat) (f : Crew → Crew) : (s.updCrew n f).agenda = s.agenda := rfl
@[simp] theorem State.updCrew_tick (n : Nat) (f : Crew → Crew) : (s.updCrew n f).tick = s.tick := rfl
@[simp] theorem State.updCrew_next (n : Nat) (f : Crew → Crew) : (s.updCrew n f).next = s.next := rfl
@[simp] theorem State.updCrew_threads (n : Nat) (f : Crew → Crew) : (s.updCrew n f).threads = s.threads := rfl
@[simp] theorem State.updCrew_squads (n : Nat) (f : Crew → Crew) : (s.updCrew n f).squads = s.squads := rfl
@[simp] theorem State.updCrew_launches (n : Nat) (f : Crew → Crew) : (s.updCrew n f).launches = s.launches := rfl
@[simp] theorem State.updCrew_ctxs (n : Nat) (f : Crew → Crew) : (s.updCrew n f).ctxs = s.ctxs := rfl
@[simp] theorem State.updCrew_cycles (n : Nat) (f : Crew → Crew) : (s.updCrew n f).cycles = s.cycles := rfl
@[simp] theorem State.updCrew_flights (n : Nat) (f : Crew → Crew) : (s.updCrew n f).flights = s.flights := rfl
@[simp] theorem State.updCrew_mem (n : Nat) (f : Crew → Crew) : (s.updCrew n f).mem = s.mem := rfl
@[simp] theorem State.updCrew_failing (n : Nat) (f : Crew → Crew) : (s.updCrew n f).failing = s.failing := rfl
@[simp] theorem State.updCrew_l1 (n : Nat) (f : Crew → Crew) : (s.updCrew n f).l1 = s.l1 := rfl
@[simp] theorem State.updCrew_mtlb (n : Nat) (f : Crew → Crew) : (s.updCrew n f).mtlb = s.mtlb := rfl
@[simp] theorem State.updCrew_items (n : Nat) (f : Crew → Crew) : (s.updCrew n f).items = s.items := rfl
@[simp] theorem State.updCrew_tokens (n : Nat) (f : Crew → Crew) : (s.updCrew n f).tokens = s.tokens := rfl
@[simp] theorem State.updCrew_records (n : Nat) (f : Crew → Crew) : (s.updCrew n f).records = s.records := rfl
@[simp] theorem State.updCrew_jobs (n : Nat) (f : Crew → Crew) : (s.updCrew n f).jobs = s.jobs := rfl
@[simp] theorem State.updCrew_engines (n : Nat) (f : Crew → Crew) : (s.updCrew n f).engines = s.engines := rfl
@[simp] theorem State.updCrew_savedEngines (n : Nat) (f : Crew → Crew) : (s.updCrew n f).savedEngines = s.savedEngines := rfl
@[simp] theorem State.updCrew_queues (n : Nat) (f : Crew → Crew) : (s.updCrew n f).queues = s.queues := rfl
@[simp] theorem State.updCrew_qcmds (n : Nat) (f : Crew → Crew) : (s.updCrew n f).qcmds = s.qcmds := rfl
@[simp] theorem State.updCrew_tasks (n : Nat) (f : Crew → Crew) : (s.updCrew n f).tasks = s.tasks := rfl
@[simp] theorem State.updCrew_relaunches (n : Nat) (f : Crew → Crew) : (s.updCrew n f).relaunches = s.relaunches := rfl
@[simp] theorem State.updCrew_rays (n : Nat) (f : Crew → Crew) : (s.updCrew n f).rays = s.rays := rfl
@[simp] theorem State.updCrew_vales (n : Nat) (f : Crew → Crew) : (s.updCrew n f).vales = s.vales := rfl
@[simp] theorem State.updCrew_raySeq (n : Nat) (f : Crew → Crew) : (s.updCrew n f).raySeq = s.raySeq := rfl
@[simp] theorem State.updCrew_services (n : Nat) (f : Crew → Crew) : (s.updCrew n f).services = s.services := rfl
@[simp] theorem State.updCrew_mgmt (n : Nat) (f : Crew → Crew) : (s.updCrew n f).mgmt = s.mgmt := rfl
@[simp] theorem State.updCrew_slots (n : Nat) (f : Crew → Crew) : (s.updCrew n f).slots = s.slots := rfl
@[simp] theorem State.updCrew_traces (n : Nat) (f : Crew → Crew) : (s.updCrew n f).traces = s.traces := rfl
@[simp] theorem State.updCrew_plat (n : Nat) (f : Crew → Crew) : (s.updCrew n f).plat = s.plat := rfl
@[simp] theorem State.updCrew_lastEntry (n : Nat) (f : Crew → Crew) : (s.updCrew n f).lastEntry = s.lastEntry := rfl
@[simp] theorem State.updCrew_accepts (n : Nat) (f : Crew → Crew) : (s.updCrew n f).accepts = s.accepts := rfl
@[simp] theorem State.updCrew_retiredTo (n : Nat) (f : Crew → Crew) : (s.updCrew n f).retiredTo = s.retiredTo := rfl

/-! `State.updSquad` changes squads alone. -/
@[simp] theorem State.updSquad_grp (k : Nat × Nat × Bool) (f : Squad → Squad) : (s.updSquad k f).grp = s.grp := rfl
@[simp] theorem State.updSquad_agenda (k : Nat × Nat × Bool) (f : Squad → Squad) : (s.updSquad k f).agenda = s.agenda := rfl
@[simp] theorem State.updSquad_tick (k : Nat × Nat × Bool) (f : Squad → Squad) : (s.updSquad k f).tick = s.tick := rfl
@[simp] theorem State.updSquad_next (k : Nat × Nat × Bool) (f : Squad → Squad) : (s.updSquad k f).next = s.next := rfl
@[simp] theorem State.updSquad_threads (k : Nat × Nat × Bool) (f : Squad → Squad) : (s.updSquad k f).threads = s.threads := rfl
@[simp] theorem State.updSquad_crews (k : Nat × Nat × Bool) (f : Squad → Squad) : (s.updSquad k f).crews = s.crews := rfl
@[simp] theorem State.updSquad_launches (k : Nat × Nat × Bool) (f : Squad → Squad) : (s.updSquad k f).launches = s.launches := rfl
@[simp] theorem State.updSquad_ctxs (k : Nat × Nat × Bool) (f : Squad → Squad) : (s.updSquad k f).ctxs = s.ctxs := rfl
@[simp] theorem State.updSquad_cycles (k : Nat × Nat × Bool) (f : Squad → Squad) : (s.updSquad k f).cycles = s.cycles := rfl
@[simp] theorem State.updSquad_flights (k : Nat × Nat × Bool) (f : Squad → Squad) : (s.updSquad k f).flights = s.flights := rfl
@[simp] theorem State.updSquad_mem (k : Nat × Nat × Bool) (f : Squad → Squad) : (s.updSquad k f).mem = s.mem := rfl
@[simp] theorem State.updSquad_failing (k : Nat × Nat × Bool) (f : Squad → Squad) : (s.updSquad k f).failing = s.failing := rfl
@[simp] theorem State.updSquad_l1 (k : Nat × Nat × Bool) (f : Squad → Squad) : (s.updSquad k f).l1 = s.l1 := rfl
@[simp] theorem State.updSquad_mtlb (k : Nat × Nat × Bool) (f : Squad → Squad) : (s.updSquad k f).mtlb = s.mtlb := rfl
@[simp] theorem State.updSquad_items (k : Nat × Nat × Bool) (f : Squad → Squad) : (s.updSquad k f).items = s.items := rfl
@[simp] theorem State.updSquad_tokens (k : Nat × Nat × Bool) (f : Squad → Squad) : (s.updSquad k f).tokens = s.tokens := rfl
@[simp] theorem State.updSquad_records (k : Nat × Nat × Bool) (f : Squad → Squad) : (s.updSquad k f).records = s.records := rfl
@[simp] theorem State.updSquad_jobs (k : Nat × Nat × Bool) (f : Squad → Squad) : (s.updSquad k f).jobs = s.jobs := rfl
@[simp] theorem State.updSquad_engines (k : Nat × Nat × Bool) (f : Squad → Squad) : (s.updSquad k f).engines = s.engines := rfl
@[simp] theorem State.updSquad_savedEngines (k : Nat × Nat × Bool) (f : Squad → Squad) : (s.updSquad k f).savedEngines = s.savedEngines := rfl
@[simp] theorem State.updSquad_queues (k : Nat × Nat × Bool) (f : Squad → Squad) : (s.updSquad k f).queues = s.queues := rfl
@[simp] theorem State.updSquad_qcmds (k : Nat × Nat × Bool) (f : Squad → Squad) : (s.updSquad k f).qcmds = s.qcmds := rfl
@[simp] theorem State.updSquad_tasks (k : Nat × Nat × Bool) (f : Squad → Squad) : (s.updSquad k f).tasks = s.tasks := rfl
@[simp] theorem State.updSquad_relaunches (k : Nat × Nat × Bool) (f : Squad → Squad) : (s.updSquad k f).relaunches = s.relaunches := rfl
@[simp] theorem State.updSquad_rays (k : Nat × Nat × Bool) (f : Squad → Squad) : (s.updSquad k f).rays = s.rays := rfl
@[simp] theorem State.updSquad_vales (k : Nat × Nat × Bool) (f : Squad → Squad) : (s.updSquad k f).vales = s.vales := rfl
@[simp] theorem State.updSquad_raySeq (k : Nat × Nat × Bool) (f : Squad → Squad) : (s.updSquad k f).raySeq = s.raySeq := rfl
@[simp] theorem State.updSquad_services (k : Nat × Nat × Bool) (f : Squad → Squad) : (s.updSquad k f).services = s.services := rfl
@[simp] theorem State.updSquad_mgmt (k : Nat × Nat × Bool) (f : Squad → Squad) : (s.updSquad k f).mgmt = s.mgmt := rfl
@[simp] theorem State.updSquad_slots (k : Nat × Nat × Bool) (f : Squad → Squad) : (s.updSquad k f).slots = s.slots := rfl
@[simp] theorem State.updSquad_traces (k : Nat × Nat × Bool) (f : Squad → Squad) : (s.updSquad k f).traces = s.traces := rfl
@[simp] theorem State.updSquad_plat (k : Nat × Nat × Bool) (f : Squad → Squad) : (s.updSquad k f).plat = s.plat := rfl
@[simp] theorem State.updSquad_lastEntry (k : Nat × Nat × Bool) (f : Squad → Squad) : (s.updSquad k f).lastEntry = s.lastEntry := rfl
@[simp] theorem State.updSquad_accepts (k : Nat × Nat × Bool) (f : Squad → Squad) : (s.updSquad k f).accepts = s.accepts := rfl
@[simp] theorem State.updSquad_retiredTo (k : Nat × Nat × Bool) (f : Squad → Squad) : (s.updSquad k f).retiredTo = s.retiredTo := rfl

/-! `State.updCtx` changes ctxs alone. -/
@[simp] theorem State.updCtx_grp (n : Nat) (f : Ctx → Ctx) : (s.updCtx n f).grp = s.grp := by unfold State.updCtx; split <;> rfl
@[simp] theorem State.updCtx_agenda (n : Nat) (f : Ctx → Ctx) : (s.updCtx n f).agenda = s.agenda := by unfold State.updCtx; split <;> rfl
@[simp] theorem State.updCtx_tick (n : Nat) (f : Ctx → Ctx) : (s.updCtx n f).tick = s.tick := by unfold State.updCtx; split <;> rfl
@[simp] theorem State.updCtx_next (n : Nat) (f : Ctx → Ctx) : (s.updCtx n f).next = s.next := by unfold State.updCtx; split <;> rfl
@[simp] theorem State.updCtx_threads (n : Nat) (f : Ctx → Ctx) : (s.updCtx n f).threads = s.threads := by unfold State.updCtx; split <;> rfl
@[simp] theorem State.updCtx_squads (n : Nat) (f : Ctx → Ctx) : (s.updCtx n f).squads = s.squads := by unfold State.updCtx; split <;> rfl
@[simp] theorem State.updCtx_crews (n : Nat) (f : Ctx → Ctx) : (s.updCtx n f).crews = s.crews := by unfold State.updCtx; split <;> rfl
@[simp] theorem State.updCtx_launches (n : Nat) (f : Ctx → Ctx) : (s.updCtx n f).launches = s.launches := by unfold State.updCtx; split <;> rfl
@[simp] theorem State.updCtx_cycles (n : Nat) (f : Ctx → Ctx) : (s.updCtx n f).cycles = s.cycles := by unfold State.updCtx; split <;> rfl
@[simp] theorem State.updCtx_flights (n : Nat) (f : Ctx → Ctx) : (s.updCtx n f).flights = s.flights := by unfold State.updCtx; split <;> rfl
@[simp] theorem State.updCtx_mem (n : Nat) (f : Ctx → Ctx) : (s.updCtx n f).mem = s.mem := by unfold State.updCtx; split <;> rfl
@[simp] theorem State.updCtx_failing (n : Nat) (f : Ctx → Ctx) : (s.updCtx n f).failing = s.failing := by unfold State.updCtx; split <;> rfl
@[simp] theorem State.updCtx_l1 (n : Nat) (f : Ctx → Ctx) : (s.updCtx n f).l1 = s.l1 := by unfold State.updCtx; split <;> rfl
@[simp] theorem State.updCtx_mtlb (n : Nat) (f : Ctx → Ctx) : (s.updCtx n f).mtlb = s.mtlb := by unfold State.updCtx; split <;> rfl
@[simp] theorem State.updCtx_items (n : Nat) (f : Ctx → Ctx) : (s.updCtx n f).items = s.items := by unfold State.updCtx; split <;> rfl
@[simp] theorem State.updCtx_tokens (n : Nat) (f : Ctx → Ctx) : (s.updCtx n f).tokens = s.tokens := by unfold State.updCtx; split <;> rfl
@[simp] theorem State.updCtx_records (n : Nat) (f : Ctx → Ctx) : (s.updCtx n f).records = s.records := by unfold State.updCtx; split <;> rfl
@[simp] theorem State.updCtx_jobs (n : Nat) (f : Ctx → Ctx) : (s.updCtx n f).jobs = s.jobs := by unfold State.updCtx; split <;> rfl
@[simp] theorem State.updCtx_engines (n : Nat) (f : Ctx → Ctx) : (s.updCtx n f).engines = s.engines := by unfold State.updCtx; split <;> rfl
@[simp] theorem State.updCtx_savedEngines (n : Nat) (f : Ctx → Ctx) : (s.updCtx n f).savedEngines = s.savedEngines := by unfold State.updCtx; split <;> rfl
@[simp] theorem State.updCtx_queues (n : Nat) (f : Ctx → Ctx) : (s.updCtx n f).queues = s.queues := by unfold State.updCtx; split <;> rfl
@[simp] theorem State.updCtx_qcmds (n : Nat) (f : Ctx → Ctx) : (s.updCtx n f).qcmds = s.qcmds := by unfold State.updCtx; split <;> rfl
@[simp] theorem State.updCtx_tasks (n : Nat) (f : Ctx → Ctx) : (s.updCtx n f).tasks = s.tasks := by unfold State.updCtx; split <;> rfl
@[simp] theorem State.updCtx_relaunches (n : Nat) (f : Ctx → Ctx) : (s.updCtx n f).relaunches = s.relaunches := by unfold State.updCtx; split <;> rfl
@[simp] theorem State.updCtx_rays (n : Nat) (f : Ctx → Ctx) : (s.updCtx n f).rays = s.rays := by unfold State.updCtx; split <;> rfl
@[simp] theorem State.updCtx_vales (n : Nat) (f : Ctx → Ctx) : (s.updCtx n f).vales = s.vales := by unfold State.updCtx; split <;> rfl
@[simp] theorem State.updCtx_raySeq (n : Nat) (f : Ctx → Ctx) : (s.updCtx n f).raySeq = s.raySeq := by unfold State.updCtx; split <;> rfl
@[simp] theorem State.updCtx_services (n : Nat) (f : Ctx → Ctx) : (s.updCtx n f).services = s.services := by unfold State.updCtx; split <;> rfl
@[simp] theorem State.updCtx_mgmt (n : Nat) (f : Ctx → Ctx) : (s.updCtx n f).mgmt = s.mgmt := by unfold State.updCtx; split <;> rfl
@[simp] theorem State.updCtx_slots (n : Nat) (f : Ctx → Ctx) : (s.updCtx n f).slots = s.slots := by unfold State.updCtx; split <;> rfl
@[simp] theorem State.updCtx_traces (n : Nat) (f : Ctx → Ctx) : (s.updCtx n f).traces = s.traces := by unfold State.updCtx; split <;> rfl
@[simp] theorem State.updCtx_plat (n : Nat) (f : Ctx → Ctx) : (s.updCtx n f).plat = s.plat := by unfold State.updCtx; split <;> rfl
@[simp] theorem State.updCtx_lastEntry (n : Nat) (f : Ctx → Ctx) : (s.updCtx n f).lastEntry = s.lastEntry := by unfold State.updCtx; split <;> rfl
@[simp] theorem State.updCtx_accepts (n : Nat) (f : Ctx → Ctx) : (s.updCtx n f).accepts = s.accepts := by unfold State.updCtx; split <;> rfl
@[simp] theorem State.updCtx_retiredTo (n : Nat) (f : Ctx → Ctx) : (s.updCtx n f).retiredTo = s.retiredTo := by unfold State.updCtx; split <;> rfl

/-! `State.setEngine` changes engines alone. -/
@[simp] theorem State.setEngine_engines (k : Nat) (e : Engine) : (s.setEngine k e).engines = cset {} s.engines k e := rfl
@[simp] theorem State.setEngine_grp (k : Nat) (e : Engine) : (s.setEngine k e).grp = s.grp := rfl
@[simp] theorem State.setEngine_agenda (k : Nat) (e : Engine) : (s.setEngine k e).agenda = s.agenda := rfl
@[simp] theorem State.setEngine_tick (k : Nat) (e : Engine) : (s.setEngine k e).tick = s.tick := rfl
@[simp] theorem State.setEngine_next (k : Nat) (e : Engine) : (s.setEngine k e).next = s.next := rfl
@[simp] theorem State.setEngine_threads (k : Nat) (e : Engine) : (s.setEngine k e).threads = s.threads := rfl
@[simp] theorem State.setEngine_squads (k : Nat) (e : Engine) : (s.setEngine k e).squads = s.squads := rfl
@[simp] theorem State.setEngine_crews (k : Nat) (e : Engine) : (s.setEngine k e).crews = s.crews := rfl
@[simp] theorem State.setEngine_launches (k : Nat) (e : Engine) : (s.setEngine k e).launches = s.launches := rfl
@[simp] theorem State.setEngine_ctxs (k : Nat) (e : Engine) : (s.setEngine k e).ctxs = s.ctxs := rfl
@[simp] theorem State.setEngine_cycles (k : Nat) (e : Engine) : (s.setEngine k e).cycles = s.cycles := rfl
@[simp] theorem State.setEngine_flights (k : Nat) (e : Engine) : (s.setEngine k e).flights = s.flights := rfl
@[simp] theorem State.setEngine_mem (k : Nat) (e : Engine) : (s.setEngine k e).mem = s.mem := rfl
@[simp] theorem State.setEngine_failing (k : Nat) (e : Engine) : (s.setEngine k e).failing = s.failing := rfl
@[simp] theorem State.setEngine_l1 (k : Nat) (e : Engine) : (s.setEngine k e).l1 = s.l1 := rfl
@[simp] theorem State.setEngine_mtlb (k : Nat) (e : Engine) : (s.setEngine k e).mtlb = s.mtlb := rfl
@[simp] theorem State.setEngine_items (k : Nat) (e : Engine) : (s.setEngine k e).items = s.items := rfl
@[simp] theorem State.setEngine_tokens (k : Nat) (e : Engine) : (s.setEngine k e).tokens = s.tokens := rfl
@[simp] theorem State.setEngine_records (k : Nat) (e : Engine) : (s.setEngine k e).records = s.records := rfl
@[simp] theorem State.setEngine_jobs (k : Nat) (e : Engine) : (s.setEngine k e).jobs = s.jobs := rfl
@[simp] theorem State.setEngine_savedEngines (k : Nat) (e : Engine) : (s.setEngine k e).savedEngines = s.savedEngines := rfl
@[simp] theorem State.setEngine_queues (k : Nat) (e : Engine) : (s.setEngine k e).queues = s.queues := rfl
@[simp] theorem State.setEngine_qcmds (k : Nat) (e : Engine) : (s.setEngine k e).qcmds = s.qcmds := rfl
@[simp] theorem State.setEngine_tasks (k : Nat) (e : Engine) : (s.setEngine k e).tasks = s.tasks := rfl
@[simp] theorem State.setEngine_relaunches (k : Nat) (e : Engine) : (s.setEngine k e).relaunches = s.relaunches := rfl
@[simp] theorem State.setEngine_rays (k : Nat) (e : Engine) : (s.setEngine k e).rays = s.rays := rfl
@[simp] theorem State.setEngine_vales (k : Nat) (e : Engine) : (s.setEngine k e).vales = s.vales := rfl
@[simp] theorem State.setEngine_raySeq (k : Nat) (e : Engine) : (s.setEngine k e).raySeq = s.raySeq := rfl
@[simp] theorem State.setEngine_services (k : Nat) (e : Engine) : (s.setEngine k e).services = s.services := rfl
@[simp] theorem State.setEngine_mgmt (k : Nat) (e : Engine) : (s.setEngine k e).mgmt = s.mgmt := rfl
@[simp] theorem State.setEngine_slots (k : Nat) (e : Engine) : (s.setEngine k e).slots = s.slots := rfl
@[simp] theorem State.setEngine_traces (k : Nat) (e : Engine) : (s.setEngine k e).traces = s.traces := rfl
@[simp] theorem State.setEngine_plat (k : Nat) (e : Engine) : (s.setEngine k e).plat = s.plat := rfl
@[simp] theorem State.setEngine_lastEntry (k : Nat) (e : Engine) : (s.setEngine k e).lastEntry = s.lastEntry := rfl
@[simp] theorem State.setEngine_accepts (k : Nat) (e : Engine) : (s.setEngine k e).accepts = s.accepts := rfl
@[simp] theorem State.setEngine_retiredTo (k : Nat) (e : Engine) : (s.setEngine k e).retiredTo = s.retiredTo := rfl

/-! `State.updQueue` changes queues alone. -/
@[simp] theorem State.updQueue_queues (q : Nat) (f : BQueue → BQueue) : (s.updQueue q f).queues = updFirst (fun x => x.id == q) f s.queues := rfl
@[simp] theorem State.updQueue_grp (q : Nat) (f : BQueue → BQueue) : (s.updQueue q f).grp = s.grp := rfl
@[simp] theorem State.updQueue_agenda (q : Nat) (f : BQueue → BQueue) : (s.updQueue q f).agenda = s.agenda := rfl
@[simp] theorem State.updQueue_tick (q : Nat) (f : BQueue → BQueue) : (s.updQueue q f).tick = s.tick := rfl
@[simp] theorem State.updQueue_next (q : Nat) (f : BQueue → BQueue) : (s.updQueue q f).next = s.next := rfl
@[simp] theorem State.updQueue_threads (q : Nat) (f : BQueue → BQueue) : (s.updQueue q f).threads = s.threads := rfl
@[simp] theorem State.updQueue_squads (q : Nat) (f : BQueue → BQueue) : (s.updQueue q f).squads = s.squads := rfl
@[simp] theorem State.updQueue_crews (q : Nat) (f : BQueue → BQueue) : (s.updQueue q f).crews = s.crews := rfl
@[simp] theorem State.updQueue_launches (q : Nat) (f : BQueue → BQueue) : (s.updQueue q f).launches = s.launches := rfl
@[simp] theorem State.updQueue_ctxs (q : Nat) (f : BQueue → BQueue) : (s.updQueue q f).ctxs = s.ctxs := rfl
@[simp] theorem State.updQueue_cycles (q : Nat) (f : BQueue → BQueue) : (s.updQueue q f).cycles = s.cycles := rfl
@[simp] theorem State.updQueue_flights (q : Nat) (f : BQueue → BQueue) : (s.updQueue q f).flights = s.flights := rfl
@[simp] theorem State.updQueue_mem (q : Nat) (f : BQueue → BQueue) : (s.updQueue q f).mem = s.mem := rfl
@[simp] theorem State.updQueue_failing (q : Nat) (f : BQueue → BQueue) : (s.updQueue q f).failing = s.failing := rfl
@[simp] theorem State.updQueue_l1 (q : Nat) (f : BQueue → BQueue) : (s.updQueue q f).l1 = s.l1 := rfl
@[simp] theorem State.updQueue_mtlb (q : Nat) (f : BQueue → BQueue) : (s.updQueue q f).mtlb = s.mtlb := rfl
@[simp] theorem State.updQueue_items (q : Nat) (f : BQueue → BQueue) : (s.updQueue q f).items = s.items := rfl
@[simp] theorem State.updQueue_tokens (q : Nat) (f : BQueue → BQueue) : (s.updQueue q f).tokens = s.tokens := rfl
@[simp] theorem State.updQueue_records (q : Nat) (f : BQueue → BQueue) : (s.updQueue q f).records = s.records := rfl
@[simp] theorem State.updQueue_jobs (q : Nat) (f : BQueue → BQueue) : (s.updQueue q f).jobs = s.jobs := rfl
@[simp] theorem State.updQueue_engines (q : Nat) (f : BQueue → BQueue) : (s.updQueue q f).engines = s.engines := rfl
@[simp] theorem State.updQueue_savedEngines (q : Nat) (f : BQueue → BQueue) : (s.updQueue q f).savedEngines = s.savedEngines := rfl
@[simp] theorem State.updQueue_qcmds (q : Nat) (f : BQueue → BQueue) : (s.updQueue q f).qcmds = s.qcmds := rfl
@[simp] theorem State.updQueue_tasks (q : Nat) (f : BQueue → BQueue) : (s.updQueue q f).tasks = s.tasks := rfl
@[simp] theorem State.updQueue_relaunches (q : Nat) (f : BQueue → BQueue) : (s.updQueue q f).relaunches = s.relaunches := rfl
@[simp] theorem State.updQueue_rays (q : Nat) (f : BQueue → BQueue) : (s.updQueue q f).rays = s.rays := rfl
@[simp] theorem State.updQueue_vales (q : Nat) (f : BQueue → BQueue) : (s.updQueue q f).vales = s.vales := rfl
@[simp] theorem State.updQueue_raySeq (q : Nat) (f : BQueue → BQueue) : (s.updQueue q f).raySeq = s.raySeq := rfl
@[simp] theorem State.updQueue_services (q : Nat) (f : BQueue → BQueue) : (s.updQueue q f).services = s.services := rfl
@[simp] theorem State.updQueue_mgmt (q : Nat) (f : BQueue → BQueue) : (s.updQueue q f).mgmt = s.mgmt := rfl
@[simp] theorem State.updQueue_slots (q : Nat) (f : BQueue → BQueue) : (s.updQueue q f).slots = s.slots := rfl
@[simp] theorem State.updQueue_traces (q : Nat) (f : BQueue → BQueue) : (s.updQueue q f).traces = s.traces := rfl
@[simp] theorem State.updQueue_plat (q : Nat) (f : BQueue → BQueue) : (s.updQueue q f).plat = s.plat := rfl
@[simp] theorem State.updQueue_lastEntry (q : Nat) (f : BQueue → BQueue) : (s.updQueue q f).lastEntry = s.lastEntry := rfl
@[simp] theorem State.updQueue_accepts (q : Nat) (f : BQueue → BQueue) : (s.updQueue q f).accepts = s.accepts := rfl
@[simp] theorem State.updQueue_retiredTo (q : Nat) (f : BQueue → BQueue) : (s.updQueue q f).retiredTo = s.retiredTo := rfl

/-! `State.updJob` changes jobs alone. -/
@[simp] theorem State.updJob_jobs (j : Nat) (f : Job → Job) : (s.updJob j f).jobs = updFirst (fun x => x.id == j) f s.jobs := rfl
@[simp] theorem State.updJob_grp (j : Nat) (f : Job → Job) : (s.updJob j f).grp = s.grp := rfl
@[simp] theorem State.updJob_agenda (j : Nat) (f : Job → Job) : (s.updJob j f).agenda = s.agenda := rfl
@[simp] theorem State.updJob_tick (j : Nat) (f : Job → Job) : (s.updJob j f).tick = s.tick := rfl
@[simp] theorem State.updJob_next (j : Nat) (f : Job → Job) : (s.updJob j f).next = s.next := rfl
@[simp] theorem State.updJob_threads (j : Nat) (f : Job → Job) : (s.updJob j f).threads = s.threads := rfl
@[simp] theorem State.updJob_squads (j : Nat) (f : Job → Job) : (s.updJob j f).squads = s.squads := rfl
@[simp] theorem State.updJob_crews (j : Nat) (f : Job → Job) : (s.updJob j f).crews = s.crews := rfl
@[simp] theorem State.updJob_launches (j : Nat) (f : Job → Job) : (s.updJob j f).launches = s.launches := rfl
@[simp] theorem State.updJob_ctxs (j : Nat) (f : Job → Job) : (s.updJob j f).ctxs = s.ctxs := rfl
@[simp] theorem State.updJob_cycles (j : Nat) (f : Job → Job) : (s.updJob j f).cycles = s.cycles := rfl
@[simp] theorem State.updJob_flights (j : Nat) (f : Job → Job) : (s.updJob j f).flights = s.flights := rfl
@[simp] theorem State.updJob_mem (j : Nat) (f : Job → Job) : (s.updJob j f).mem = s.mem := rfl
@[simp] theorem State.updJob_failing (j : Nat) (f : Job → Job) : (s.updJob j f).failing = s.failing := rfl
@[simp] theorem State.updJob_l1 (j : Nat) (f : Job → Job) : (s.updJob j f).l1 = s.l1 := rfl
@[simp] theorem State.updJob_mtlb (j : Nat) (f : Job → Job) : (s.updJob j f).mtlb = s.mtlb := rfl
@[simp] theorem State.updJob_items (j : Nat) (f : Job → Job) : (s.updJob j f).items = s.items := rfl
@[simp] theorem State.updJob_tokens (j : Nat) (f : Job → Job) : (s.updJob j f).tokens = s.tokens := rfl
@[simp] theorem State.updJob_records (j : Nat) (f : Job → Job) : (s.updJob j f).records = s.records := rfl
@[simp] theorem State.updJob_engines (j : Nat) (f : Job → Job) : (s.updJob j f).engines = s.engines := rfl
@[simp] theorem State.updJob_savedEngines (j : Nat) (f : Job → Job) : (s.updJob j f).savedEngines = s.savedEngines := rfl
@[simp] theorem State.updJob_queues (j : Nat) (f : Job → Job) : (s.updJob j f).queues = s.queues := rfl
@[simp] theorem State.updJob_qcmds (j : Nat) (f : Job → Job) : (s.updJob j f).qcmds = s.qcmds := rfl
@[simp] theorem State.updJob_tasks (j : Nat) (f : Job → Job) : (s.updJob j f).tasks = s.tasks := rfl
@[simp] theorem State.updJob_relaunches (j : Nat) (f : Job → Job) : (s.updJob j f).relaunches = s.relaunches := rfl
@[simp] theorem State.updJob_rays (j : Nat) (f : Job → Job) : (s.updJob j f).rays = s.rays := rfl
@[simp] theorem State.updJob_vales (j : Nat) (f : Job → Job) : (s.updJob j f).vales = s.vales := rfl
@[simp] theorem State.updJob_raySeq (j : Nat) (f : Job → Job) : (s.updJob j f).raySeq = s.raySeq := rfl
@[simp] theorem State.updJob_services (j : Nat) (f : Job → Job) : (s.updJob j f).services = s.services := rfl
@[simp] theorem State.updJob_mgmt (j : Nat) (f : Job → Job) : (s.updJob j f).mgmt = s.mgmt := rfl
@[simp] theorem State.updJob_slots (j : Nat) (f : Job → Job) : (s.updJob j f).slots = s.slots := rfl
@[simp] theorem State.updJob_traces (j : Nat) (f : Job → Job) : (s.updJob j f).traces = s.traces := rfl
@[simp] theorem State.updJob_plat (j : Nat) (f : Job → Job) : (s.updJob j f).plat = s.plat := rfl
@[simp] theorem State.updJob_lastEntry (j : Nat) (f : Job → Job) : (s.updJob j f).lastEntry = s.lastEntry := rfl
@[simp] theorem State.updJob_accepts (j : Nat) (f : Job → Job) : (s.updJob j f).accepts = s.accepts := rfl
@[simp] theorem State.updJob_retiredTo (j : Nat) (f : Job → Job) : (s.updJob j f).retiredTo = s.retiredTo := rfl

/-! `State.updFlight` changes flights alone. -/
@[simp] theorem State.updFlight_flights (n : Nat) (f : Flight → Flight) : (s.updFlight n f).flights = updFirst (fun x => x.id == n) f s.flights := rfl
@[simp] theorem State.updFlight_grp (n : Nat) (f : Flight → Flight) : (s.updFlight n f).grp = s.grp := rfl
@[simp] theorem State.updFlight_agenda (n : Nat) (f : Flight → Flight) : (s.updFlight n f).agenda = s.agenda := rfl
@[simp] theorem State.updFlight_tick (n : Nat) (f : Flight → Flight) : (s.updFlight n f).tick = s.tick := rfl
@[simp] theorem State.updFlight_next (n : Nat) (f : Flight → Flight) : (s.updFlight n f).next = s.next := rfl
@[simp] theorem State.updFlight_threads (n : Nat) (f : Flight → Flight) : (s.updFlight n f).threads = s.threads := rfl
@[simp] theorem State.updFlight_squads (n : Nat) (f : Flight → Flight) : (s.updFlight n f).squads = s.squads := rfl
@[simp] theorem State.updFlight_crews (n : Nat) (f : Flight → Flight) : (s.updFlight n f).crews = s.crews := rfl
@[simp] theorem State.updFlight_launches (n : Nat) (f : Flight → Flight) : (s.updFlight n f).launches = s.launches := rfl
@[simp] theorem State.updFlight_ctxs (n : Nat) (f : Flight → Flight) : (s.updFlight n f).ctxs = s.ctxs := rfl
@[simp] theorem State.updFlight_cycles (n : Nat) (f : Flight → Flight) : (s.updFlight n f).cycles = s.cycles := rfl
@[simp] theorem State.updFlight_mem (n : Nat) (f : Flight → Flight) : (s.updFlight n f).mem = s.mem := rfl
@[simp] theorem State.updFlight_failing (n : Nat) (f : Flight → Flight) : (s.updFlight n f).failing = s.failing := rfl
@[simp] theorem State.updFlight_l1 (n : Nat) (f : Flight → Flight) : (s.updFlight n f).l1 = s.l1 := rfl
@[simp] theorem State.updFlight_mtlb (n : Nat) (f : Flight → Flight) : (s.updFlight n f).mtlb = s.mtlb := rfl
@[simp] theorem State.updFlight_items (n : Nat) (f : Flight → Flight) : (s.updFlight n f).items = s.items := rfl
@[simp] theorem State.updFlight_tokens (n : Nat) (f : Flight → Flight) : (s.updFlight n f).tokens = s.tokens := rfl
@[simp] theorem State.updFlight_records (n : Nat) (f : Flight → Flight) : (s.updFlight n f).records = s.records := rfl
@[simp] theorem State.updFlight_jobs (n : Nat) (f : Flight → Flight) : (s.updFlight n f).jobs = s.jobs := rfl
@[simp] theorem State.updFlight_engines (n : Nat) (f : Flight → Flight) : (s.updFlight n f).engines = s.engines := rfl
@[simp] theorem State.updFlight_savedEngines (n : Nat) (f : Flight → Flight) : (s.updFlight n f).savedEngines = s.savedEngines := rfl
@[simp] theorem State.updFlight_queues (n : Nat) (f : Flight → Flight) : (s.updFlight n f).queues = s.queues := rfl
@[simp] theorem State.updFlight_qcmds (n : Nat) (f : Flight → Flight) : (s.updFlight n f).qcmds = s.qcmds := rfl
@[simp] theorem State.updFlight_tasks (n : Nat) (f : Flight → Flight) : (s.updFlight n f).tasks = s.tasks := rfl
@[simp] theorem State.updFlight_relaunches (n : Nat) (f : Flight → Flight) : (s.updFlight n f).relaunches = s.relaunches := rfl
@[simp] theorem State.updFlight_rays (n : Nat) (f : Flight → Flight) : (s.updFlight n f).rays = s.rays := rfl
@[simp] theorem State.updFlight_vales (n : Nat) (f : Flight → Flight) : (s.updFlight n f).vales = s.vales := rfl
@[simp] theorem State.updFlight_raySeq (n : Nat) (f : Flight → Flight) : (s.updFlight n f).raySeq = s.raySeq := rfl
@[simp] theorem State.updFlight_services (n : Nat) (f : Flight → Flight) : (s.updFlight n f).services = s.services := rfl
@[simp] theorem State.updFlight_mgmt (n : Nat) (f : Flight → Flight) : (s.updFlight n f).mgmt = s.mgmt := rfl
@[simp] theorem State.updFlight_slots (n : Nat) (f : Flight → Flight) : (s.updFlight n f).slots = s.slots := rfl
@[simp] theorem State.updFlight_traces (n : Nat) (f : Flight → Flight) : (s.updFlight n f).traces = s.traces := rfl
@[simp] theorem State.updFlight_plat (n : Nat) (f : Flight → Flight) : (s.updFlight n f).plat = s.plat := rfl
@[simp] theorem State.updFlight_lastEntry (n : Nat) (f : Flight → Flight) : (s.updFlight n f).lastEntry = s.lastEntry := rfl
@[simp] theorem State.updFlight_accepts (n : Nat) (f : Flight → Flight) : (s.updFlight n f).accepts = s.accepts := rfl
@[simp] theorem State.updFlight_retiredTo (n : Nat) (f : Flight → Flight) : (s.updFlight n f).retiredTo = s.retiredTo := rfl

/-! `State.delFlight` changes flights alone. -/
@[simp] theorem State.delFlight_flights (n : Nat) : (s.delFlight n).flights = s.flights.filter (fun x => x.id != n) := rfl
@[simp] theorem State.delFlight_grp (n : Nat) : (s.delFlight n).grp = s.grp := rfl
@[simp] theorem State.delFlight_agenda (n : Nat) : (s.delFlight n).agenda = s.agenda := rfl
@[simp] theorem State.delFlight_tick (n : Nat) : (s.delFlight n).tick = s.tick := rfl
@[simp] theorem State.delFlight_next (n : Nat) : (s.delFlight n).next = s.next := rfl
@[simp] theorem State.delFlight_threads (n : Nat) : (s.delFlight n).threads = s.threads := rfl
@[simp] theorem State.delFlight_squads (n : Nat) : (s.delFlight n).squads = s.squads := rfl
@[simp] theorem State.delFlight_crews (n : Nat) : (s.delFlight n).crews = s.crews := rfl
@[simp] theorem State.delFlight_launches (n : Nat) : (s.delFlight n).launches = s.launches := rfl
@[simp] theorem State.delFlight_ctxs (n : Nat) : (s.delFlight n).ctxs = s.ctxs := rfl
@[simp] theorem State.delFlight_cycles (n : Nat) : (s.delFlight n).cycles = s.cycles := rfl
@[simp] theorem State.delFlight_mem (n : Nat) : (s.delFlight n).mem = s.mem := rfl
@[simp] theorem State.delFlight_failing (n : Nat) : (s.delFlight n).failing = s.failing := rfl
@[simp] theorem State.delFlight_l1 (n : Nat) : (s.delFlight n).l1 = s.l1 := rfl
@[simp] theorem State.delFlight_mtlb (n : Nat) : (s.delFlight n).mtlb = s.mtlb := rfl
@[simp] theorem State.delFlight_items (n : Nat) : (s.delFlight n).items = s.items := rfl
@[simp] theorem State.delFlight_tokens (n : Nat) : (s.delFlight n).tokens = s.tokens := rfl
@[simp] theorem State.delFlight_records (n : Nat) : (s.delFlight n).records = s.records := rfl
@[simp] theorem State.delFlight_jobs (n : Nat) : (s.delFlight n).jobs = s.jobs := rfl
@[simp] theorem State.delFlight_engines (n : Nat) : (s.delFlight n).engines = s.engines := rfl
@[simp] theorem State.delFlight_savedEngines (n : Nat) : (s.delFlight n).savedEngines = s.savedEngines := rfl
@[simp] theorem State.delFlight_queues (n : Nat) : (s.delFlight n).queues = s.queues := rfl
@[simp] theorem State.delFlight_qcmds (n : Nat) : (s.delFlight n).qcmds = s.qcmds := rfl
@[simp] theorem State.delFlight_tasks (n : Nat) : (s.delFlight n).tasks = s.tasks := rfl
@[simp] theorem State.delFlight_relaunches (n : Nat) : (s.delFlight n).relaunches = s.relaunches := rfl
@[simp] theorem State.delFlight_rays (n : Nat) : (s.delFlight n).rays = s.rays := rfl
@[simp] theorem State.delFlight_vales (n : Nat) : (s.delFlight n).vales = s.vales := rfl
@[simp] theorem State.delFlight_raySeq (n : Nat) : (s.delFlight n).raySeq = s.raySeq := rfl
@[simp] theorem State.delFlight_services (n : Nat) : (s.delFlight n).services = s.services := rfl
@[simp] theorem State.delFlight_mgmt (n : Nat) : (s.delFlight n).mgmt = s.mgmt := rfl
@[simp] theorem State.delFlight_slots (n : Nat) : (s.delFlight n).slots = s.slots := rfl
@[simp] theorem State.delFlight_traces (n : Nat) : (s.delFlight n).traces = s.traces := rfl
@[simp] theorem State.delFlight_plat (n : Nat) : (s.delFlight n).plat = s.plat := rfl
@[simp] theorem State.delFlight_lastEntry (n : Nat) : (s.delFlight n).lastEntry = s.lastEntry := rfl
@[simp] theorem State.delFlight_accepts (n : Nat) : (s.delFlight n).accepts = s.accepts := rfl
@[simp] theorem State.delFlight_retiredTo (n : Nat) : (s.delFlight n).retiredTo = s.retiredTo := rfl

/-! `State.updTask` changes tasks alone. -/
@[simp] theorem State.updTask_grp (l k : Nat) (f : Task → Task) : (s.updTask l k f).grp = s.grp := rfl
@[simp] theorem State.updTask_agenda (l k : Nat) (f : Task → Task) : (s.updTask l k f).agenda = s.agenda := rfl
@[simp] theorem State.updTask_tick (l k : Nat) (f : Task → Task) : (s.updTask l k f).tick = s.tick := rfl
@[simp] theorem State.updTask_next (l k : Nat) (f : Task → Task) : (s.updTask l k f).next = s.next := rfl
@[simp] theorem State.updTask_threads (l k : Nat) (f : Task → Task) : (s.updTask l k f).threads = s.threads := rfl
@[simp] theorem State.updTask_squads (l k : Nat) (f : Task → Task) : (s.updTask l k f).squads = s.squads := rfl
@[simp] theorem State.updTask_crews (l k : Nat) (f : Task → Task) : (s.updTask l k f).crews = s.crews := rfl
@[simp] theorem State.updTask_launches (l k : Nat) (f : Task → Task) : (s.updTask l k f).launches = s.launches := rfl
@[simp] theorem State.updTask_ctxs (l k : Nat) (f : Task → Task) : (s.updTask l k f).ctxs = s.ctxs := rfl
@[simp] theorem State.updTask_cycles (l k : Nat) (f : Task → Task) : (s.updTask l k f).cycles = s.cycles := rfl
@[simp] theorem State.updTask_flights (l k : Nat) (f : Task → Task) : (s.updTask l k f).flights = s.flights := rfl
@[simp] theorem State.updTask_mem (l k : Nat) (f : Task → Task) : (s.updTask l k f).mem = s.mem := rfl
@[simp] theorem State.updTask_failing (l k : Nat) (f : Task → Task) : (s.updTask l k f).failing = s.failing := rfl
@[simp] theorem State.updTask_l1 (l k : Nat) (f : Task → Task) : (s.updTask l k f).l1 = s.l1 := rfl
@[simp] theorem State.updTask_mtlb (l k : Nat) (f : Task → Task) : (s.updTask l k f).mtlb = s.mtlb := rfl
@[simp] theorem State.updTask_items (l k : Nat) (f : Task → Task) : (s.updTask l k f).items = s.items := rfl
@[simp] theorem State.updTask_tokens (l k : Nat) (f : Task → Task) : (s.updTask l k f).tokens = s.tokens := rfl
@[simp] theorem State.updTask_records (l k : Nat) (f : Task → Task) : (s.updTask l k f).records = s.records := rfl
@[simp] theorem State.updTask_jobs (l k : Nat) (f : Task → Task) : (s.updTask l k f).jobs = s.jobs := rfl
@[simp] theorem State.updTask_engines (l k : Nat) (f : Task → Task) : (s.updTask l k f).engines = s.engines := rfl
@[simp] theorem State.updTask_savedEngines (l k : Nat) (f : Task → Task) : (s.updTask l k f).savedEngines = s.savedEngines := rfl
@[simp] theorem State.updTask_queues (l k : Nat) (f : Task → Task) : (s.updTask l k f).queues = s.queues := rfl
@[simp] theorem State.updTask_qcmds (l k : Nat) (f : Task → Task) : (s.updTask l k f).qcmds = s.qcmds := rfl
@[simp] theorem State.updTask_relaunches (l k : Nat) (f : Task → Task) : (s.updTask l k f).relaunches = s.relaunches := rfl
@[simp] theorem State.updTask_rays (l k : Nat) (f : Task → Task) : (s.updTask l k f).rays = s.rays := rfl
@[simp] theorem State.updTask_vales (l k : Nat) (f : Task → Task) : (s.updTask l k f).vales = s.vales := rfl
@[simp] theorem State.updTask_raySeq (l k : Nat) (f : Task → Task) : (s.updTask l k f).raySeq = s.raySeq := rfl
@[simp] theorem State.updTask_services (l k : Nat) (f : Task → Task) : (s.updTask l k f).services = s.services := rfl
@[simp] theorem State.updTask_mgmt (l k : Nat) (f : Task → Task) : (s.updTask l k f).mgmt = s.mgmt := rfl
@[simp] theorem State.updTask_slots (l k : Nat) (f : Task → Task) : (s.updTask l k f).slots = s.slots := rfl
@[simp] theorem State.updTask_traces (l k : Nat) (f : Task → Task) : (s.updTask l k f).traces = s.traces := rfl
@[simp] theorem State.updTask_plat (l k : Nat) (f : Task → Task) : (s.updTask l k f).plat = s.plat := rfl
@[simp] theorem State.updTask_lastEntry (l k : Nat) (f : Task → Task) : (s.updTask l k f).lastEntry = s.lastEntry := rfl
@[simp] theorem State.updTask_accepts (l k : Nat) (f : Task → Task) : (s.updTask l k f).accepts = s.accepts := rfl
@[simp] theorem State.updTask_retiredTo (l k : Nat) (f : Task → Task) : (s.updTask l k f).retiredTo = s.retiredTo := rfl

/-! `State.setMg` changes mgmt alone. -/
@[simp] theorem State.setMg_grp (off : Nat) (v : Word) : (s.setMg off v).grp = s.grp := rfl
@[simp] theorem State.setMg_agenda (off : Nat) (v : Word) : (s.setMg off v).agenda = s.agenda := rfl
@[simp] theorem State.setMg_tick (off : Nat) (v : Word) : (s.setMg off v).tick = s.tick := rfl
@[simp] theorem State.setMg_next (off : Nat) (v : Word) : (s.setMg off v).next = s.next := rfl
@[simp] theorem State.setMg_threads (off : Nat) (v : Word) : (s.setMg off v).threads = s.threads := rfl
@[simp] theorem State.setMg_squads (off : Nat) (v : Word) : (s.setMg off v).squads = s.squads := rfl
@[simp] theorem State.setMg_crews (off : Nat) (v : Word) : (s.setMg off v).crews = s.crews := rfl
@[simp] theorem State.setMg_launches (off : Nat) (v : Word) : (s.setMg off v).launches = s.launches := rfl
@[simp] theorem State.setMg_ctxs (off : Nat) (v : Word) : (s.setMg off v).ctxs = s.ctxs := rfl
@[simp] theorem State.setMg_cycles (off : Nat) (v : Word) : (s.setMg off v).cycles = s.cycles := rfl
@[simp] theorem State.setMg_flights (off : Nat) (v : Word) : (s.setMg off v).flights = s.flights := rfl
@[simp] theorem State.setMg_mem (off : Nat) (v : Word) : (s.setMg off v).mem = s.mem := rfl
@[simp] theorem State.setMg_failing (off : Nat) (v : Word) : (s.setMg off v).failing = s.failing := rfl
@[simp] theorem State.setMg_l1 (off : Nat) (v : Word) : (s.setMg off v).l1 = s.l1 := rfl
@[simp] theorem State.setMg_mtlb (off : Nat) (v : Word) : (s.setMg off v).mtlb = s.mtlb := rfl
@[simp] theorem State.setMg_items (off : Nat) (v : Word) : (s.setMg off v).items = s.items := rfl
@[simp] theorem State.setMg_tokens (off : Nat) (v : Word) : (s.setMg off v).tokens = s.tokens := rfl
@[simp] theorem State.setMg_records (off : Nat) (v : Word) : (s.setMg off v).records = s.records := rfl
@[simp] theorem State.setMg_jobs (off : Nat) (v : Word) : (s.setMg off v).jobs = s.jobs := rfl
@[simp] theorem State.setMg_engines (off : Nat) (v : Word) : (s.setMg off v).engines = s.engines := rfl
@[simp] theorem State.setMg_savedEngines (off : Nat) (v : Word) : (s.setMg off v).savedEngines = s.savedEngines := rfl
@[simp] theorem State.setMg_queues (off : Nat) (v : Word) : (s.setMg off v).queues = s.queues := rfl
@[simp] theorem State.setMg_qcmds (off : Nat) (v : Word) : (s.setMg off v).qcmds = s.qcmds := rfl
@[simp] theorem State.setMg_tasks (off : Nat) (v : Word) : (s.setMg off v).tasks = s.tasks := rfl
@[simp] theorem State.setMg_relaunches (off : Nat) (v : Word) : (s.setMg off v).relaunches = s.relaunches := rfl
@[simp] theorem State.setMg_rays (off : Nat) (v : Word) : (s.setMg off v).rays = s.rays := rfl
@[simp] theorem State.setMg_vales (off : Nat) (v : Word) : (s.setMg off v).vales = s.vales := rfl
@[simp] theorem State.setMg_raySeq (off : Nat) (v : Word) : (s.setMg off v).raySeq = s.raySeq := rfl
@[simp] theorem State.setMg_services (off : Nat) (v : Word) : (s.setMg off v).services = s.services := rfl
@[simp] theorem State.setMg_slots (off : Nat) (v : Word) : (s.setMg off v).slots = s.slots := rfl
@[simp] theorem State.setMg_traces (off : Nat) (v : Word) : (s.setMg off v).traces = s.traces := rfl
@[simp] theorem State.setMg_plat (off : Nat) (v : Word) : (s.setMg off v).plat = s.plat := rfl
@[simp] theorem State.setMg_lastEntry (off : Nat) (v : Word) : (s.setMg off v).lastEntry = s.lastEntry := rfl
@[simp] theorem State.setMg_accepts (off : Nat) (v : Word) : (s.setMg off v).accepts = s.accepts := rfl
@[simp] theorem State.setMg_retiredTo (off : Nat) (v : Word) : (s.setMg off v).retiredTo = s.retiredTo := rfl

/-! `State.record` changes records alone. -/
@[simp] theorem State.record_records (ctx : Nat) (ws : List Word) : (s.record ctx ws).records = s.records ++ [⟨ctx, ws⟩] := rfl
@[simp] theorem State.record_grp (ctx : Nat) (ws : List Word) : (s.record ctx ws).grp = s.grp := rfl
@[simp] theorem State.record_agenda (ctx : Nat) (ws : List Word) : (s.record ctx ws).agenda = s.agenda := rfl
@[simp] theorem State.record_tick (ctx : Nat) (ws : List Word) : (s.record ctx ws).tick = s.tick := rfl
@[simp] theorem State.record_next (ctx : Nat) (ws : List Word) : (s.record ctx ws).next = s.next := rfl
@[simp] theorem State.record_threads (ctx : Nat) (ws : List Word) : (s.record ctx ws).threads = s.threads := rfl
@[simp] theorem State.record_squads (ctx : Nat) (ws : List Word) : (s.record ctx ws).squads = s.squads := rfl
@[simp] theorem State.record_crews (ctx : Nat) (ws : List Word) : (s.record ctx ws).crews = s.crews := rfl
@[simp] theorem State.record_launches (ctx : Nat) (ws : List Word) : (s.record ctx ws).launches = s.launches := rfl
@[simp] theorem State.record_ctxs (ctx : Nat) (ws : List Word) : (s.record ctx ws).ctxs = s.ctxs := rfl
@[simp] theorem State.record_cycles (ctx : Nat) (ws : List Word) : (s.record ctx ws).cycles = s.cycles := rfl
@[simp] theorem State.record_flights (ctx : Nat) (ws : List Word) : (s.record ctx ws).flights = s.flights := rfl
@[simp] theorem State.record_mem (ctx : Nat) (ws : List Word) : (s.record ctx ws).mem = s.mem := rfl
@[simp] theorem State.record_failing (ctx : Nat) (ws : List Word) : (s.record ctx ws).failing = s.failing := rfl
@[simp] theorem State.record_l1 (ctx : Nat) (ws : List Word) : (s.record ctx ws).l1 = s.l1 := rfl
@[simp] theorem State.record_mtlb (ctx : Nat) (ws : List Word) : (s.record ctx ws).mtlb = s.mtlb := rfl
@[simp] theorem State.record_items (ctx : Nat) (ws : List Word) : (s.record ctx ws).items = s.items := rfl
@[simp] theorem State.record_tokens (ctx : Nat) (ws : List Word) : (s.record ctx ws).tokens = s.tokens := rfl
@[simp] theorem State.record_jobs (ctx : Nat) (ws : List Word) : (s.record ctx ws).jobs = s.jobs := rfl
@[simp] theorem State.record_engines (ctx : Nat) (ws : List Word) : (s.record ctx ws).engines = s.engines := rfl
@[simp] theorem State.record_savedEngines (ctx : Nat) (ws : List Word) : (s.record ctx ws).savedEngines = s.savedEngines := rfl
@[simp] theorem State.record_queues (ctx : Nat) (ws : List Word) : (s.record ctx ws).queues = s.queues := rfl
@[simp] theorem State.record_qcmds (ctx : Nat) (ws : List Word) : (s.record ctx ws).qcmds = s.qcmds := rfl
@[simp] theorem State.record_tasks (ctx : Nat) (ws : List Word) : (s.record ctx ws).tasks = s.tasks := rfl
@[simp] theorem State.record_relaunches (ctx : Nat) (ws : List Word) : (s.record ctx ws).relaunches = s.relaunches := rfl
@[simp] theorem State.record_rays (ctx : Nat) (ws : List Word) : (s.record ctx ws).rays = s.rays := rfl
@[simp] theorem State.record_vales (ctx : Nat) (ws : List Word) : (s.record ctx ws).vales = s.vales := rfl
@[simp] theorem State.record_raySeq (ctx : Nat) (ws : List Word) : (s.record ctx ws).raySeq = s.raySeq := rfl
@[simp] theorem State.record_services (ctx : Nat) (ws : List Word) : (s.record ctx ws).services = s.services := rfl
@[simp] theorem State.record_mgmt (ctx : Nat) (ws : List Word) : (s.record ctx ws).mgmt = s.mgmt := rfl
@[simp] theorem State.record_slots (ctx : Nat) (ws : List Word) : (s.record ctx ws).slots = s.slots := rfl
@[simp] theorem State.record_traces (ctx : Nat) (ws : List Word) : (s.record ctx ws).traces = s.traces := rfl
@[simp] theorem State.record_plat (ctx : Nat) (ws : List Word) : (s.record ctx ws).plat = s.plat := rfl
@[simp] theorem State.record_lastEntry (ctx : Nat) (ws : List Word) : (s.record ctx ws).lastEntry = s.lastEntry := rfl
@[simp] theorem State.record_accepts (ctx : Nat) (ws : List Word) : (s.record ctx ws).accepts = s.accepts := rfl
@[simp] theorem State.record_retiredTo (ctx : Nat) (ws : List Word) : (s.record ctx ws).retiredTo = s.retiredTo := rfl

/-! `State.dropItems` changes items alone. -/
@[simp] theorem State.dropItems_grp (p : ItemKind → Bool) : (s.dropItems p).grp = s.grp := rfl
@[simp] theorem State.dropItems_agenda (p : ItemKind → Bool) : (s.dropItems p).agenda = s.agenda := rfl
@[simp] theorem State.dropItems_tick (p : ItemKind → Bool) : (s.dropItems p).tick = s.tick := rfl
@[simp] theorem State.dropItems_next (p : ItemKind → Bool) : (s.dropItems p).next = s.next := rfl
@[simp] theorem State.dropItems_threads (p : ItemKind → Bool) : (s.dropItems p).threads = s.threads := rfl
@[simp] theorem State.dropItems_squads (p : ItemKind → Bool) : (s.dropItems p).squads = s.squads := rfl
@[simp] theorem State.dropItems_crews (p : ItemKind → Bool) : (s.dropItems p).crews = s.crews := rfl
@[simp] theorem State.dropItems_launches (p : ItemKind → Bool) : (s.dropItems p).launches = s.launches := rfl
@[simp] theorem State.dropItems_ctxs (p : ItemKind → Bool) : (s.dropItems p).ctxs = s.ctxs := rfl
@[simp] theorem State.dropItems_cycles (p : ItemKind → Bool) : (s.dropItems p).cycles = s.cycles := rfl
@[simp] theorem State.dropItems_flights (p : ItemKind → Bool) : (s.dropItems p).flights = s.flights := rfl
@[simp] theorem State.dropItems_mem (p : ItemKind → Bool) : (s.dropItems p).mem = s.mem := rfl
@[simp] theorem State.dropItems_failing (p : ItemKind → Bool) : (s.dropItems p).failing = s.failing := rfl
@[simp] theorem State.dropItems_l1 (p : ItemKind → Bool) : (s.dropItems p).l1 = s.l1 := rfl
@[simp] theorem State.dropItems_mtlb (p : ItemKind → Bool) : (s.dropItems p).mtlb = s.mtlb := rfl
@[simp] theorem State.dropItems_tokens (p : ItemKind → Bool) : (s.dropItems p).tokens = s.tokens := rfl
@[simp] theorem State.dropItems_records (p : ItemKind → Bool) : (s.dropItems p).records = s.records := rfl
@[simp] theorem State.dropItems_jobs (p : ItemKind → Bool) : (s.dropItems p).jobs = s.jobs := rfl
@[simp] theorem State.dropItems_engines (p : ItemKind → Bool) : (s.dropItems p).engines = s.engines := rfl
@[simp] theorem State.dropItems_savedEngines (p : ItemKind → Bool) : (s.dropItems p).savedEngines = s.savedEngines := rfl
@[simp] theorem State.dropItems_queues (p : ItemKind → Bool) : (s.dropItems p).queues = s.queues := rfl
@[simp] theorem State.dropItems_qcmds (p : ItemKind → Bool) : (s.dropItems p).qcmds = s.qcmds := rfl
@[simp] theorem State.dropItems_tasks (p : ItemKind → Bool) : (s.dropItems p).tasks = s.tasks := rfl
@[simp] theorem State.dropItems_relaunches (p : ItemKind → Bool) : (s.dropItems p).relaunches = s.relaunches := rfl
@[simp] theorem State.dropItems_rays (p : ItemKind → Bool) : (s.dropItems p).rays = s.rays := rfl
@[simp] theorem State.dropItems_vales (p : ItemKind → Bool) : (s.dropItems p).vales = s.vales := rfl
@[simp] theorem State.dropItems_raySeq (p : ItemKind → Bool) : (s.dropItems p).raySeq = s.raySeq := rfl
@[simp] theorem State.dropItems_services (p : ItemKind → Bool) : (s.dropItems p).services = s.services := rfl
@[simp] theorem State.dropItems_mgmt (p : ItemKind → Bool) : (s.dropItems p).mgmt = s.mgmt := rfl
@[simp] theorem State.dropItems_slots (p : ItemKind → Bool) : (s.dropItems p).slots = s.slots := rfl
@[simp] theorem State.dropItems_traces (p : ItemKind → Bool) : (s.dropItems p).traces = s.traces := rfl
@[simp] theorem State.dropItems_plat (p : ItemKind → Bool) : (s.dropItems p).plat = s.plat := rfl
@[simp] theorem State.dropItems_lastEntry (p : ItemKind → Bool) : (s.dropItems p).lastEntry = s.lastEntry := rfl
@[simp] theorem State.dropItems_accepts (p : ItemKind → Bool) : (s.dropItems p).accepts = s.accepts := rfl
@[simp] theorem State.dropItems_retiredTo (p : ItemKind → Bool) : (s.dropItems p).retiredTo = s.retiredTo := rfl

/-! `State.checkMeetings` changes agenda alone. -/
@[simp] theorem State.checkMeetings_grp (k : Nat × Nat × Bool) : (s.checkMeetings k).grp = s.grp := rfl
@[simp] theorem State.checkMeetings_tick (k : Nat × Nat × Bool) : (s.checkMeetings k).tick = s.tick := rfl
@[simp] theorem State.checkMeetings_next (k : Nat × Nat × Bool) : (s.checkMeetings k).next = s.next := rfl
@[simp] theorem State.checkMeetings_threads (k : Nat × Nat × Bool) : (s.checkMeetings k).threads = s.threads := rfl
@[simp] theorem State.checkMeetings_squads (k : Nat × Nat × Bool) : (s.checkMeetings k).squads = s.squads := rfl
@[simp] theorem State.checkMeetings_crews (k : Nat × Nat × Bool) : (s.checkMeetings k).crews = s.crews := rfl
@[simp] theorem State.checkMeetings_launches (k : Nat × Nat × Bool) : (s.checkMeetings k).launches = s.launches := rfl
@[simp] theorem State.checkMeetings_ctxs (k : Nat × Nat × Bool) : (s.checkMeetings k).ctxs = s.ctxs := rfl
@[simp] theorem State.checkMeetings_cycles (k : Nat × Nat × Bool) : (s.checkMeetings k).cycles = s.cycles := rfl
@[simp] theorem State.checkMeetings_flights (k : Nat × Nat × Bool) : (s.checkMeetings k).flights = s.flights := rfl
@[simp] theorem State.checkMeetings_mem (k : Nat × Nat × Bool) : (s.checkMeetings k).mem = s.mem := rfl
@[simp] theorem State.checkMeetings_failing (k : Nat × Nat × Bool) : (s.checkMeetings k).failing = s.failing := rfl
@[simp] theorem State.checkMeetings_l1 (k : Nat × Nat × Bool) : (s.checkMeetings k).l1 = s.l1 := rfl
@[simp] theorem State.checkMeetings_mtlb (k : Nat × Nat × Bool) : (s.checkMeetings k).mtlb = s.mtlb := rfl
@[simp] theorem State.checkMeetings_items (k : Nat × Nat × Bool) : (s.checkMeetings k).items = s.items := rfl
@[simp] theorem State.checkMeetings_tokens (k : Nat × Nat × Bool) : (s.checkMeetings k).tokens = s.tokens := rfl
@[simp] theorem State.checkMeetings_records (k : Nat × Nat × Bool) : (s.checkMeetings k).records = s.records := rfl
@[simp] theorem State.checkMeetings_jobs (k : Nat × Nat × Bool) : (s.checkMeetings k).jobs = s.jobs := rfl
@[simp] theorem State.checkMeetings_engines (k : Nat × Nat × Bool) : (s.checkMeetings k).engines = s.engines := rfl
@[simp] theorem State.checkMeetings_savedEngines (k : Nat × Nat × Bool) : (s.checkMeetings k).savedEngines = s.savedEngines := rfl
@[simp] theorem State.checkMeetings_queues (k : Nat × Nat × Bool) : (s.checkMeetings k).queues = s.queues := rfl
@[simp] theorem State.checkMeetings_qcmds (k : Nat × Nat × Bool) : (s.checkMeetings k).qcmds = s.qcmds := rfl
@[simp] theorem State.checkMeetings_tasks (k : Nat × Nat × Bool) : (s.checkMeetings k).tasks = s.tasks := rfl
@[simp] theorem State.checkMeetings_relaunches (k : Nat × Nat × Bool) : (s.checkMeetings k).relaunches = s.relaunches := rfl
@[simp] theorem State.checkMeetings_rays (k : Nat × Nat × Bool) : (s.checkMeetings k).rays = s.rays := rfl
@[simp] theorem State.checkMeetings_vales (k : Nat × Nat × Bool) : (s.checkMeetings k).vales = s.vales := rfl
@[simp] theorem State.checkMeetings_raySeq (k : Nat × Nat × Bool) : (s.checkMeetings k).raySeq = s.raySeq := rfl
@[simp] theorem State.checkMeetings_services (k : Nat × Nat × Bool) : (s.checkMeetings k).services = s.services := rfl
@[simp] theorem State.checkMeetings_mgmt (k : Nat × Nat × Bool) : (s.checkMeetings k).mgmt = s.mgmt := rfl
@[simp] theorem State.checkMeetings_slots (k : Nat × Nat × Bool) : (s.checkMeetings k).slots = s.slots := rfl
@[simp] theorem State.checkMeetings_traces (k : Nat × Nat × Bool) : (s.checkMeetings k).traces = s.traces := rfl
@[simp] theorem State.checkMeetings_plat (k : Nat × Nat × Bool) : (s.checkMeetings k).plat = s.plat := rfl
@[simp] theorem State.checkMeetings_lastEntry (k : Nat × Nat × Bool) : (s.checkMeetings k).lastEntry = s.lastEntry := rfl
@[simp] theorem State.checkMeetings_accepts (k : Nat × Nat × Bool) : (s.checkMeetings k).accepts = s.accepts := rfl
@[simp] theorem State.checkMeetings_retiredTo (k : Nat × Nat × Bool) : (s.checkMeetings k).retiredTo = s.retiredTo := rfl

/-! `State.setLine` changes l1 alone. -/
@[simp] theorem State.setLine_grp (l : L1Line) : (s.setLine l).grp = s.grp := rfl
@[simp] theorem State.setLine_agenda (l : L1Line) : (s.setLine l).agenda = s.agenda := rfl
@[simp] theorem State.setLine_tick (l : L1Line) : (s.setLine l).tick = s.tick := rfl
@[simp] theorem State.setLine_next (l : L1Line) : (s.setLine l).next = s.next := rfl
@[simp] theorem State.setLine_threads (l : L1Line) : (s.setLine l).threads = s.threads := rfl
@[simp] theorem State.setLine_squads (l : L1Line) : (s.setLine l).squads = s.squads := rfl
@[simp] theorem State.setLine_crews (l : L1Line) : (s.setLine l).crews = s.crews := rfl
@[simp] theorem State.setLine_launches (l : L1Line) : (s.setLine l).launches = s.launches := rfl
@[simp] theorem State.setLine_ctxs (l : L1Line) : (s.setLine l).ctxs = s.ctxs := rfl
@[simp] theorem State.setLine_cycles (l : L1Line) : (s.setLine l).cycles = s.cycles := rfl
@[simp] theorem State.setLine_flights (l : L1Line) : (s.setLine l).flights = s.flights := rfl
@[simp] theorem State.setLine_mem (l : L1Line) : (s.setLine l).mem = s.mem := rfl
@[simp] theorem State.setLine_failing (l : L1Line) : (s.setLine l).failing = s.failing := rfl
@[simp] theorem State.setLine_mtlb (l : L1Line) : (s.setLine l).mtlb = s.mtlb := rfl
@[simp] theorem State.setLine_items (l : L1Line) : (s.setLine l).items = s.items := rfl
@[simp] theorem State.setLine_tokens (l : L1Line) : (s.setLine l).tokens = s.tokens := rfl
@[simp] theorem State.setLine_records (l : L1Line) : (s.setLine l).records = s.records := rfl
@[simp] theorem State.setLine_jobs (l : L1Line) : (s.setLine l).jobs = s.jobs := rfl
@[simp] theorem State.setLine_engines (l : L1Line) : (s.setLine l).engines = s.engines := rfl
@[simp] theorem State.setLine_savedEngines (l : L1Line) : (s.setLine l).savedEngines = s.savedEngines := rfl
@[simp] theorem State.setLine_queues (l : L1Line) : (s.setLine l).queues = s.queues := rfl
@[simp] theorem State.setLine_qcmds (l : L1Line) : (s.setLine l).qcmds = s.qcmds := rfl
@[simp] theorem State.setLine_tasks (l : L1Line) : (s.setLine l).tasks = s.tasks := rfl
@[simp] theorem State.setLine_relaunches (l : L1Line) : (s.setLine l).relaunches = s.relaunches := rfl
@[simp] theorem State.setLine_rays (l : L1Line) : (s.setLine l).rays = s.rays := rfl
@[simp] theorem State.setLine_vales (l : L1Line) : (s.setLine l).vales = s.vales := rfl
@[simp] theorem State.setLine_raySeq (l : L1Line) : (s.setLine l).raySeq = s.raySeq := rfl
@[simp] theorem State.setLine_services (l : L1Line) : (s.setLine l).services = s.services := rfl
@[simp] theorem State.setLine_mgmt (l : L1Line) : (s.setLine l).mgmt = s.mgmt := rfl
@[simp] theorem State.setLine_slots (l : L1Line) : (s.setLine l).slots = s.slots := rfl
@[simp] theorem State.setLine_traces (l : L1Line) : (s.setLine l).traces = s.traces := rfl
@[simp] theorem State.setLine_plat (l : L1Line) : (s.setLine l).plat = s.plat := rfl
@[simp] theorem State.setLine_lastEntry (l : L1Line) : (s.setLine l).lastEntry = s.lastEntry := rfl
@[simp] theorem State.setLine_accepts (l : L1Line) : (s.setLine l).accepts = s.accepts := rfl
@[simp] theorem State.setLine_retiredTo (l : L1Line) : (s.setLine l).retiredTo = s.retiredTo := rfl

/-! `State.dropWhere` changes l1 alone. -/
@[simp] theorem State.dropWhere_grp (p : L1Line → Bool) : (s.dropWhere p).grp = s.grp := rfl
@[simp] theorem State.dropWhere_agenda (p : L1Line → Bool) : (s.dropWhere p).agenda = s.agenda := rfl
@[simp] theorem State.dropWhere_tick (p : L1Line → Bool) : (s.dropWhere p).tick = s.tick := rfl
@[simp] theorem State.dropWhere_next (p : L1Line → Bool) : (s.dropWhere p).next = s.next := rfl
@[simp] theorem State.dropWhere_threads (p : L1Line → Bool) : (s.dropWhere p).threads = s.threads := rfl
@[simp] theorem State.dropWhere_squads (p : L1Line → Bool) : (s.dropWhere p).squads = s.squads := rfl
@[simp] theorem State.dropWhere_crews (p : L1Line → Bool) : (s.dropWhere p).crews = s.crews := rfl
@[simp] theorem State.dropWhere_launches (p : L1Line → Bool) : (s.dropWhere p).launches = s.launches := rfl
@[simp] theorem State.dropWhere_ctxs (p : L1Line → Bool) : (s.dropWhere p).ctxs = s.ctxs := rfl
@[simp] theorem State.dropWhere_cycles (p : L1Line → Bool) : (s.dropWhere p).cycles = s.cycles := rfl
@[simp] theorem State.dropWhere_flights (p : L1Line → Bool) : (s.dropWhere p).flights = s.flights := rfl
@[simp] theorem State.dropWhere_mem (p : L1Line → Bool) : (s.dropWhere p).mem = s.mem := rfl
@[simp] theorem State.dropWhere_failing (p : L1Line → Bool) : (s.dropWhere p).failing = s.failing := rfl
@[simp] theorem State.dropWhere_mtlb (p : L1Line → Bool) : (s.dropWhere p).mtlb = s.mtlb := rfl
@[simp] theorem State.dropWhere_items (p : L1Line → Bool) : (s.dropWhere p).items = s.items := rfl
@[simp] theorem State.dropWhere_tokens (p : L1Line → Bool) : (s.dropWhere p).tokens = s.tokens := rfl
@[simp] theorem State.dropWhere_records (p : L1Line → Bool) : (s.dropWhere p).records = s.records := rfl
@[simp] theorem State.dropWhere_jobs (p : L1Line → Bool) : (s.dropWhere p).jobs = s.jobs := rfl
@[simp] theorem State.dropWhere_engines (p : L1Line → Bool) : (s.dropWhere p).engines = s.engines := rfl
@[simp] theorem State.dropWhere_savedEngines (p : L1Line → Bool) : (s.dropWhere p).savedEngines = s.savedEngines := rfl
@[simp] theorem State.dropWhere_queues (p : L1Line → Bool) : (s.dropWhere p).queues = s.queues := rfl
@[simp] theorem State.dropWhere_qcmds (p : L1Line → Bool) : (s.dropWhere p).qcmds = s.qcmds := rfl
@[simp] theorem State.dropWhere_tasks (p : L1Line → Bool) : (s.dropWhere p).tasks = s.tasks := rfl
@[simp] theorem State.dropWhere_relaunches (p : L1Line → Bool) : (s.dropWhere p).relaunches = s.relaunches := rfl
@[simp] theorem State.dropWhere_rays (p : L1Line → Bool) : (s.dropWhere p).rays = s.rays := rfl
@[simp] theorem State.dropWhere_vales (p : L1Line → Bool) : (s.dropWhere p).vales = s.vales := rfl
@[simp] theorem State.dropWhere_raySeq (p : L1Line → Bool) : (s.dropWhere p).raySeq = s.raySeq := rfl
@[simp] theorem State.dropWhere_services (p : L1Line → Bool) : (s.dropWhere p).services = s.services := rfl
@[simp] theorem State.dropWhere_mgmt (p : L1Line → Bool) : (s.dropWhere p).mgmt = s.mgmt := rfl
@[simp] theorem State.dropWhere_slots (p : L1Line → Bool) : (s.dropWhere p).slots = s.slots := rfl
@[simp] theorem State.dropWhere_traces (p : L1Line → Bool) : (s.dropWhere p).traces = s.traces := rfl
@[simp] theorem State.dropWhere_plat (p : L1Line → Bool) : (s.dropWhere p).plat = s.plat := rfl
@[simp] theorem State.dropWhere_lastEntry (p : L1Line → Bool) : (s.dropWhere p).lastEntry = s.lastEntry := rfl
@[simp] theorem State.dropWhere_accepts (p : L1Line → Bool) : (s.dropWhere p).accepts = s.accepts := rfl
@[simp] theorem State.dropWhere_retiredTo (p : L1Line → Bool) : (s.dropWhere p).retiredTo = s.retiredTo := rfl

/-! `State.fresh` changes next alone. -/
@[simp] theorem State.fresh_next : s.fresh.2.next = s.next + 1 := rfl
@[simp] theorem State.fresh_id : s.fresh.1 = s.next := rfl
@[simp] theorem State.fresh_grp : s.fresh.2.grp = s.grp := rfl
@[simp] theorem State.fresh_agenda : s.fresh.2.agenda = s.agenda := rfl
@[simp] theorem State.fresh_tick : s.fresh.2.tick = s.tick := rfl
@[simp] theorem State.fresh_threads : s.fresh.2.threads = s.threads := rfl
@[simp] theorem State.fresh_squads : s.fresh.2.squads = s.squads := rfl
@[simp] theorem State.fresh_crews : s.fresh.2.crews = s.crews := rfl
@[simp] theorem State.fresh_launches : s.fresh.2.launches = s.launches := rfl
@[simp] theorem State.fresh_ctxs : s.fresh.2.ctxs = s.ctxs := rfl
@[simp] theorem State.fresh_cycles : s.fresh.2.cycles = s.cycles := rfl
@[simp] theorem State.fresh_flights : s.fresh.2.flights = s.flights := rfl
@[simp] theorem State.fresh_mem : s.fresh.2.mem = s.mem := rfl
@[simp] theorem State.fresh_failing : s.fresh.2.failing = s.failing := rfl
@[simp] theorem State.fresh_l1 : s.fresh.2.l1 = s.l1 := rfl
@[simp] theorem State.fresh_mtlb : s.fresh.2.mtlb = s.mtlb := rfl
@[simp] theorem State.fresh_items : s.fresh.2.items = s.items := rfl
@[simp] theorem State.fresh_tokens : s.fresh.2.tokens = s.tokens := rfl
@[simp] theorem State.fresh_records : s.fresh.2.records = s.records := rfl
@[simp] theorem State.fresh_jobs : s.fresh.2.jobs = s.jobs := rfl
@[simp] theorem State.fresh_engines : s.fresh.2.engines = s.engines := rfl
@[simp] theorem State.fresh_savedEngines : s.fresh.2.savedEngines = s.savedEngines := rfl
@[simp] theorem State.fresh_queues : s.fresh.2.queues = s.queues := rfl
@[simp] theorem State.fresh_qcmds : s.fresh.2.qcmds = s.qcmds := rfl
@[simp] theorem State.fresh_tasks : s.fresh.2.tasks = s.tasks := rfl
@[simp] theorem State.fresh_relaunches : s.fresh.2.relaunches = s.relaunches := rfl
@[simp] theorem State.fresh_rays : s.fresh.2.rays = s.rays := rfl
@[simp] theorem State.fresh_vales : s.fresh.2.vales = s.vales := rfl
@[simp] theorem State.fresh_raySeq : s.fresh.2.raySeq = s.raySeq := rfl
@[simp] theorem State.fresh_services : s.fresh.2.services = s.services := rfl
@[simp] theorem State.fresh_mgmt : s.fresh.2.mgmt = s.mgmt := rfl
@[simp] theorem State.fresh_slots : s.fresh.2.slots = s.slots := rfl
@[simp] theorem State.fresh_traces : s.fresh.2.traces = s.traces := rfl
@[simp] theorem State.fresh_plat : s.fresh.2.plat = s.plat := rfl
@[simp] theorem State.fresh_lastEntry : s.fresh.2.lastEntry = s.lastEntry := rfl
@[simp] theorem State.fresh_accepts : s.fresh.2.accepts = s.accepts := rfl
@[simp] theorem State.fresh_retiredTo : s.fresh.2.retiredTo = s.retiredTo := rfl

/-! `State.freeWord` changes tick alone. -/
@[simp] theorem State.freeWord_tick : s.freeWord.2.tick = s.tick + 1 := rfl
@[simp] theorem State.freeWord_grp : s.freeWord.2.grp = s.grp := rfl
@[simp] theorem State.freeWord_agenda : s.freeWord.2.agenda = s.agenda := rfl
@[simp] theorem State.freeWord_next : s.freeWord.2.next = s.next := rfl
@[simp] theorem State.freeWord_threads : s.freeWord.2.threads = s.threads := rfl
@[simp] theorem State.freeWord_squads : s.freeWord.2.squads = s.squads := rfl
@[simp] theorem State.freeWord_crews : s.freeWord.2.crews = s.crews := rfl
@[simp] theorem State.freeWord_launches : s.freeWord.2.launches = s.launches := rfl
@[simp] theorem State.freeWord_ctxs : s.freeWord.2.ctxs = s.ctxs := rfl
@[simp] theorem State.freeWord_cycles : s.freeWord.2.cycles = s.cycles := rfl
@[simp] theorem State.freeWord_flights : s.freeWord.2.flights = s.flights := rfl
@[simp] theorem State.freeWord_mem : s.freeWord.2.mem = s.mem := rfl
@[simp] theorem State.freeWord_failing : s.freeWord.2.failing = s.failing := rfl
@[simp] theorem State.freeWord_l1 : s.freeWord.2.l1 = s.l1 := rfl
@[simp] theorem State.freeWord_mtlb : s.freeWord.2.mtlb = s.mtlb := rfl
@[simp] theorem State.freeWord_items : s.freeWord.2.items = s.items := rfl
@[simp] theorem State.freeWord_tokens : s.freeWord.2.tokens = s.tokens := rfl
@[simp] theorem State.freeWord_records : s.freeWord.2.records = s.records := rfl
@[simp] theorem State.freeWord_jobs : s.freeWord.2.jobs = s.jobs := rfl
@[simp] theorem State.freeWord_engines : s.freeWord.2.engines = s.engines := rfl
@[simp] theorem State.freeWord_savedEngines : s.freeWord.2.savedEngines = s.savedEngines := rfl
@[simp] theorem State.freeWord_queues : s.freeWord.2.queues = s.queues := rfl
@[simp] theorem State.freeWord_qcmds : s.freeWord.2.qcmds = s.qcmds := rfl
@[simp] theorem State.freeWord_tasks : s.freeWord.2.tasks = s.tasks := rfl
@[simp] theorem State.freeWord_relaunches : s.freeWord.2.relaunches = s.relaunches := rfl
@[simp] theorem State.freeWord_rays : s.freeWord.2.rays = s.rays := rfl
@[simp] theorem State.freeWord_vales : s.freeWord.2.vales = s.vales := rfl
@[simp] theorem State.freeWord_raySeq : s.freeWord.2.raySeq = s.raySeq := rfl
@[simp] theorem State.freeWord_services : s.freeWord.2.services = s.services := rfl
@[simp] theorem State.freeWord_mgmt : s.freeWord.2.mgmt = s.mgmt := rfl
@[simp] theorem State.freeWord_slots : s.freeWord.2.slots = s.slots := rfl
@[simp] theorem State.freeWord_traces : s.freeWord.2.traces = s.traces := rfl
@[simp] theorem State.freeWord_plat : s.freeWord.2.plat = s.plat := rfl
@[simp] theorem State.freeWord_lastEntry : s.freeWord.2.lastEntry = s.lastEntry := rfl
@[simp] theorem State.freeWord_accepts : s.freeWord.2.accepts = s.accepts := rfl
@[simp] theorem State.freeWord_retiredTo : s.freeWord.2.retiredTo = s.retiredTo := rfl

/-! `State.freeBit` changes tick alone. -/
@[simp] theorem State.freeBit_tick : s.freeBit.2.tick = s.tick + 1 := rfl
@[simp] theorem State.freeBit_grp : s.freeBit.2.grp = s.grp := rfl
@[simp] theorem State.freeBit_agenda : s.freeBit.2.agenda = s.agenda := rfl
@[simp] theorem State.freeBit_next : s.freeBit.2.next = s.next := rfl
@[simp] theorem State.freeBit_threads : s.freeBit.2.threads = s.threads := rfl
@[simp] theorem State.freeBit_squads : s.freeBit.2.squads = s.squads := rfl
@[simp] theorem State.freeBit_crews : s.freeBit.2.crews = s.crews := rfl
@[simp] theorem State.freeBit_launches : s.freeBit.2.launches = s.launches := rfl
@[simp] theorem State.freeBit_ctxs : s.freeBit.2.ctxs = s.ctxs := rfl
@[simp] theorem State.freeBit_cycles : s.freeBit.2.cycles = s.cycles := rfl
@[simp] theorem State.freeBit_flights : s.freeBit.2.flights = s.flights := rfl
@[simp] theorem State.freeBit_mem : s.freeBit.2.mem = s.mem := rfl
@[simp] theorem State.freeBit_failing : s.freeBit.2.failing = s.failing := rfl
@[simp] theorem State.freeBit_l1 : s.freeBit.2.l1 = s.l1 := rfl
@[simp] theorem State.freeBit_mtlb : s.freeBit.2.mtlb = s.mtlb := rfl
@[simp] theorem State.freeBit_items : s.freeBit.2.items = s.items := rfl
@[simp] theorem State.freeBit_tokens : s.freeBit.2.tokens = s.tokens := rfl
@[simp] theorem State.freeBit_records : s.freeBit.2.records = s.records := rfl
@[simp] theorem State.freeBit_jobs : s.freeBit.2.jobs = s.jobs := rfl
@[simp] theorem State.freeBit_engines : s.freeBit.2.engines = s.engines := rfl
@[simp] theorem State.freeBit_savedEngines : s.freeBit.2.savedEngines = s.savedEngines := rfl
@[simp] theorem State.freeBit_queues : s.freeBit.2.queues = s.queues := rfl
@[simp] theorem State.freeBit_qcmds : s.freeBit.2.qcmds = s.qcmds := rfl
@[simp] theorem State.freeBit_tasks : s.freeBit.2.tasks = s.tasks := rfl
@[simp] theorem State.freeBit_relaunches : s.freeBit.2.relaunches = s.relaunches := rfl
@[simp] theorem State.freeBit_rays : s.freeBit.2.rays = s.rays := rfl
@[simp] theorem State.freeBit_vales : s.freeBit.2.vales = s.vales := rfl
@[simp] theorem State.freeBit_raySeq : s.freeBit.2.raySeq = s.raySeq := rfl
@[simp] theorem State.freeBit_services : s.freeBit.2.services = s.services := rfl
@[simp] theorem State.freeBit_mgmt : s.freeBit.2.mgmt = s.mgmt := rfl
@[simp] theorem State.freeBit_slots : s.freeBit.2.slots = s.slots := rfl
@[simp] theorem State.freeBit_traces : s.freeBit.2.traces = s.traces := rfl
@[simp] theorem State.freeBit_plat : s.freeBit.2.plat = s.plat := rfl
@[simp] theorem State.freeBit_lastEntry : s.freeBit.2.lastEntry = s.lastEntry := rfl
@[simp] theorem State.freeBit_accepts : s.freeBit.2.accepts = s.accepts := rfl
@[simp] theorem State.freeBit_retiredTo : s.freeBit.2.retiredTo = s.retiredTo := rfl

/-! `State.freeNat` changes tick alone. -/
@[simp] theorem State.freeNat_tick : s.freeNat.2.tick = s.tick + 1 := rfl
@[simp] theorem State.freeNat_grp : s.freeNat.2.grp = s.grp := rfl
@[simp] theorem State.freeNat_agenda : s.freeNat.2.agenda = s.agenda := rfl
@[simp] theorem State.freeNat_next : s.freeNat.2.next = s.next := rfl
@[simp] theorem State.freeNat_threads : s.freeNat.2.threads = s.threads := rfl
@[simp] theorem State.freeNat_squads : s.freeNat.2.squads = s.squads := rfl
@[simp] theorem State.freeNat_crews : s.freeNat.2.crews = s.crews := rfl
@[simp] theorem State.freeNat_launches : s.freeNat.2.launches = s.launches := rfl
@[simp] theorem State.freeNat_ctxs : s.freeNat.2.ctxs = s.ctxs := rfl
@[simp] theorem State.freeNat_cycles : s.freeNat.2.cycles = s.cycles := rfl
@[simp] theorem State.freeNat_flights : s.freeNat.2.flights = s.flights := rfl
@[simp] theorem State.freeNat_mem : s.freeNat.2.mem = s.mem := rfl
@[simp] theorem State.freeNat_failing : s.freeNat.2.failing = s.failing := rfl
@[simp] theorem State.freeNat_l1 : s.freeNat.2.l1 = s.l1 := rfl
@[simp] theorem State.freeNat_mtlb : s.freeNat.2.mtlb = s.mtlb := rfl
@[simp] theorem State.freeNat_items : s.freeNat.2.items = s.items := rfl
@[simp] theorem State.freeNat_tokens : s.freeNat.2.tokens = s.tokens := rfl
@[simp] theorem State.freeNat_records : s.freeNat.2.records = s.records := rfl
@[simp] theorem State.freeNat_jobs : s.freeNat.2.jobs = s.jobs := rfl
@[simp] theorem State.freeNat_engines : s.freeNat.2.engines = s.engines := rfl
@[simp] theorem State.freeNat_savedEngines : s.freeNat.2.savedEngines = s.savedEngines := rfl
@[simp] theorem State.freeNat_queues : s.freeNat.2.queues = s.queues := rfl
@[simp] theorem State.freeNat_qcmds : s.freeNat.2.qcmds = s.qcmds := rfl
@[simp] theorem State.freeNat_tasks : s.freeNat.2.tasks = s.tasks := rfl
@[simp] theorem State.freeNat_relaunches : s.freeNat.2.relaunches = s.relaunches := rfl
@[simp] theorem State.freeNat_rays : s.freeNat.2.rays = s.rays := rfl
@[simp] theorem State.freeNat_vales : s.freeNat.2.vales = s.vales := rfl
@[simp] theorem State.freeNat_raySeq : s.freeNat.2.raySeq = s.raySeq := rfl
@[simp] theorem State.freeNat_services : s.freeNat.2.services = s.services := rfl
@[simp] theorem State.freeNat_mgmt : s.freeNat.2.mgmt = s.mgmt := rfl
@[simp] theorem State.freeNat_slots : s.freeNat.2.slots = s.slots := rfl
@[simp] theorem State.freeNat_traces : s.freeNat.2.traces = s.traces := rfl
@[simp] theorem State.freeNat_plat : s.freeNat.2.plat = s.plat := rfl
@[simp] theorem State.freeNat_lastEntry : s.freeNat.2.lastEntry = s.lastEntry := rfl
@[simp] theorem State.freeNat_accepts : s.freeNat.2.accepts = s.accepts := rfl
@[simp] theorem State.freeNat_retiredTo : s.freeNat.2.retiredTo = s.retiredTo := rfl

end Sys2Proof.Machine
end

