-- ==== Sys2Proof/Laws/Issue.lean ====
section
/-! SUPPORT. What the issue of an instruction can do, said once: the inversion of `issue`, and the lemmas that turn an instruction
that issues into the next state its body gives. -/

namespace Sys2Proof.Safety

open Sys2Proof.Machine

/-- An instruction that issues answers what its body makes of the state its effect takes place in. -/
theorem issueChk_of_issues {s : State} {p : Iss} {chk : Actor → Thread → Option Cause} {a : Actor} {t : Thread} {v : Vals} {d : Dest}
    {u : State} (body : Actor → Thread → Vals → State → Body) (h : Issues s p (chk a t) a t v d u) :
    issueChk s p chk body = .next (s.settle a t p d v.all (body a t v u)) := by
  obtain ⟨who, thread, legal, guard, ready, gate, free, begun⟩ := h
  have can : s.canIssue a t = true := by
    simp only [State.ready, Bool.and_eq_true] at ready
    exact ready.1.1.1.1
  simp [issueChk, who, thread, State.issueFor, can, legal, guard, ready, State.perform, gate, free, begun]

/-- The same, for an instruction without checks of its own at decode. -/
theorem issue_of_issues {s : State} {p : Iss} {a : Actor} {t : Thread} {v : Vals} {d : Dest} {u : State}
    (body : Actor → Thread → Vals → State → Body) (h : Issues s p none a t v d u) :
    issue s p body = .next (s.settle a t p d v.all (body a t v u)) :=
  issueChk_of_issues (chk := fun _ _ => none) body h

/-- A body that is done leaves the machine as `retires` says. -/
@[simp] theorem settle_done (s : State) (a : Actor) (t : Thread) (p : Iss) (d : Dest) (v : Vals) (ws : List Word) (w : State) :
    s.settle a t p d v.all (.done ws w) = retires w a t p d v ws := by
  simp only [State.settle, retires]

/-- An instruction whose body only computes completes with its words. -/
theorem completes_of_issue {i : Instr} {f : Vals → List Word} (h : ∀ s, exec i s = issue s (issOf i) (pureBody f)) : Completes i f := by
  intro s a t v d u hi
  rw [h, issue_of_issues _ hi, pureBody, settle_done]

/-- As `completes_of_issue`, where a body is done under a condition. -/
theorem completesIf_of_issue {i : Instr} {eff : Actor → Thread → Vals → State → List Word → State → Prop}
    {body : Actor → Thread → Vals → State → Body} (h : ∀ s, exec i s = issue s (issOf i) body)
    (hb : ∀ a t v u ws w, eff a t v u ws w → body a t v u = .done ws w) : CompletesIf i eff := by
  intro s a t v d u ws w hi he
  rw [h, issue_of_issues _ hi, hb _ _ _ _ _ _ he, settle_done]

/-- As `completesIf_of_issue`, where the operand record and the checks at decode depend on the state. -/
theorem completesAs_of_issue {i : Instr} {p : State → Iss} {chk : State → Actor → Thread → Option Cause}
    {eff : Actor → Thread → Vals → State → List Word → State → Prop} {body : State → Actor → Thread → Vals → State → Body}
    (h : ∀ s, exec i s = issueChk s (p s) (chk s) (body s))
    (hb : ∀ s a t v u ws w, s.grp.who = some a → s.thread? a = some t → eff a t v u ws w → body s a t v u = .done ws w) :
    CompletesAs i p chk eff := by
  intro s a t v d u ws w hi he
  rw [h, issueChk_of_issues _ hi, hb _ _ _ _ _ _ _ hi.who hi.thread he, settle_done]

/-- As `completesAs_of_issue`, for an instruction whose result comes with work that it leaves outstanding. -/
theorem sendsIf_of_issue {i : Instr} {p : State → Iss} {eff : Actor → Thread → Vals → State → Work → State → Prop}
    {body : State → Actor → Thread → Vals → State → Body} (h : ∀ s, exec i s = issue s (p s) (body s))
    (hb : ∀ s a t v u k w, s.grp.who = some a → s.thread? a = some t → eff a t v u k w → body s a t v u = .fly k w) :
    SendsIf i p eff := by
  intro s a t v d u k w hi he
  rw [h, issue_of_issues _ hi, hb _ _ _ _ _ _ _ hi.who hi.thread he]
  rfl

/-- As `completesIf_of_issue`, for an instruction whose next state is not that of a result. -/
theorem endsIf_of_issue {i : Instr} {eff : Actor → Thread → Vals → Dest → State → State → Prop}
    {body : Actor → Thread → Vals → State → Body} (h : ∀ s, exec i s = issue s (issOf i) body)
    (hb : ∀ (s : State) a t v d u w, eff a t v d u w → s.settle a t (issOf i) d v.all (body a t v u) = w) : EndsIf i eff := by
  intro s a t v d u w hi he
  rw [h, issue_of_issues _ hi, hb _ _ _ _ _ _ _ he]

/-- Everything the issue of an instruction can do: nobody acts, the thread does not issue in this cycle, it raises a cause found at
decode or at its channels, it asks a Basin queue for what it is to read there, its guard is false and only the program counter
moves, or its body runs. -/
theorem issueChk_cases (s : State) (p : Iss) (chk : Actor → Thread → Option Cause) (body : Actor → Thread → Vals → State → Body) :
    issueChk s p chk body = .fault .noActor ∨
    ∃ a t, s.grp.who = some a ∧ s.thread? a = some t ∧
      ((∃ w, issueChk s p chk body = .next (s.stall a w)) ∨
       (∃ x c, issueChk s p chk body = .next (s.raise a x c)) ∨
       (∃ l, issueChk s p chk body = .next (s.askBasin a t l)) ∨
       issueChk s p chk body = .next (s.issued a p.count (t.pc + dword p.len)) ∨
       issueChk s p chk body = .next (s.settle a t p (s.begin a t p).2.1 (s.begin a t p).1.all
          (body a t (s.begin a t p).1 (s.begin a t p).2.2))) := by
  unfold issueChk
  split
  · exact .inl rfl
  · rename_i a who
    split
    · exact .inl rfl
    · rename_i t ht
      refine .inr ⟨a, t, who, ht, ?_⟩
      unfold State.issueFor
      split
      · exact .inl ⟨_, rfl⟩
      · split
        · exact .inr (.inl ⟨_, _, rfl⟩)
        · split
          · split
            · unfold State.perform
              split
              · exact .inl ⟨_, rfl⟩
              · split
                · exact .inr (.inl ⟨_, _, rfl⟩)
                · exact .inl ⟨_, rfl⟩
                · exact .inr (.inr (.inl ⟨_, rfl⟩))
                · exact .inr (.inr (.inr (.inr rfl)))
            · exact .inl ⟨_, rfl⟩
          · split
            · exact .inr (.inr (.inr (.inl rfl)))
            · exact .inl ⟨_, rfl⟩

end Sys2Proof.Safety
end

