-- ==== Sys2Proof/Laws/Memory.lean ====
section
/-! SUPPORT. Laws of the sparse maps and of the byte memory built on them: the canonical form is kept by every operation, and a read
after a write gives what was written (R7); and of sorting. -/

namespace Sys2Proof.Machine

variable {α : Type} [DecidableEq α]

/-! ### Sparse maps -/

theorem cabove_mono {β : Type} {a b : Nat} (h : a ≤ b) : ∀ {m : Cells β}, cabove b m = true → cabove a m = true
  | [], _ => rfl
  | (j, _) :: r, hm => by
    simp only [cabove, Bool.and_eq_true, decide_eq_true_eq] at hm ⊢
    exact ⟨by omega, cabove_mono h hm.2⟩

theorem cabove_cput {β : Type} {b k : Nat} (v : β) (h : b < k) : ∀ {m : Cells β}, cabove b m = true → cabove b (cput m k v) = true
  | [], _ => by simp [cput, cabove, h]
  | (j, u) :: r, hm => by
    have hm' := hm
    simp only [cabove, Bool.and_eq_true, decide_eq_true_eq] at hm
    unfold cput
    split
    · simp [cabove, h, hm]
    · split
      · simp [cabove, h, hm]
      · simp [cabove, hm.1, cabove_cput v h hm.2]

theorem cwf_cput (d : α) (k : Nat) {v : α} (hv : v ≠ d) : ∀ {m : Cells α}, cwf d m = true → cwf d (cput m k v) = true
  | [], _ => by simp [cput, cwf, cabove, hv]
  | (j, u) :: r, hm => by
    have hm' := hm
    simp only [cwf, Bool.and_eq_true, decide_eq_true_eq] at hm
    obtain ⟨⟨ha, hu⟩, hr⟩ := hm
    unfold cput
    split
    · rename_i hk
      simp [cwf, cabove, hk, ha, hu, hr, hv, cabove_mono (Nat.le_of_lt hk) ha]
    · split
      · rename_i hk
        subst hk
        simp [cwf, ha, hr, hv]
      · rename_i h1 h2
        have : j < k := by omega
        simp [cwf, cabove_cput v this ha, hu, cwf_cput d k hv hr]

theorem cget_cput {β : Type} (d : β) (k : Nat) (v : β) (i : Nat) :
    ∀ (m : Cells β), cget d (cput m k v) i = if i = k then v else cget d m i
  | [] => by simp [cput, cget]
  | (j, u) :: r => by
    unfold cput
    split
    · simp [cget]
    · split
      · rename_i hk
        subst hk
        by_cases hi : i = k <;> simp [cget, hi]
      · rename_i h1 h2
        by_cases hi : i = j
        · subst hi
          have : i ≠ k := fun h => h2 h.symm
          simp [cget, this]
        · simp [cget, hi, cget_cput d k v i r]

theorem cget_drop {β : Type} (d : β) (k i : Nat) :
    ∀ (m : Cells β), cget d (m.filter (fun p => p.1 != k)) i = if i = k then d else cget d m i
  | [] => by simp [cget]
  | (j, u) :: r => by
    by_cases hj : j = k
    · subst hj
      have := cget_drop d j i r
      by_cases hi : i = j
      · subst hi; simpa [cget] using this
      · simpa [cget, hi] using this
    · rw [List.filter_cons_of_pos (by simpa using hj)]
      by_cases hi : i = j
      · subst hi; simp [cget, hj]
      · simp [cget, hi, cget_drop d k i r]

theorem cabove_filter {β : Type} (p : Nat × β → Bool) {b : Nat} : ∀ {m : Cells β}, cabove b m = true → cabove b (m.filter p) = true
  | [], _ => rfl
  | (j, _) :: r, hm => by
    simp only [cabove, Bool.and_eq_true, decide_eq_true_eq] at hm
    by_cases h : p (j, ‹β›) = true
    · simp [List.filter, h, cabove, hm.1, cabove_filter p hm.2]
    · simp [List.filter, h, cabove_filter p hm.2]

/-- Part of a map in canonical form is in canonical form. -/
theorem cwf_filter (d : α) (p : Nat × α → Bool) : ∀ {m : Cells α}, cwf d m = true → cwf d (m.filter p) = true
  | [], _ => rfl
  | (j, u) :: r, hm => by
    simp only [cwf, Bool.and_eq_true, decide_eq_true_eq] at hm
    by_cases h : p (j, u) = true
    · simp [List.filter, h, cwf, cabove_filter p hm.1.1, hm.1.2, cwf_filter d p hm.2]
    · simp [List.filter, h, cwf_filter d p hm.2]

/-- Setting a key keeps the canonical form. -/
theorem cwf_cset (d : α) (k : Nat) (v : α) {m : Cells α} (h : cwf d m = true) : cwf d (cset d m k v) = true := by
  unfold cset
  split
  · exact cwf_filter d _ h
  · rename_i hv; exact cwf_cput d k hv h

/-- A read after a write of a map. -/
theorem cget_cset (d : α) (k : Nat) (v : α) (i : Nat) (m : Cells α) : cget d (cset d m k v) i = if i = k then v else cget d m i := by
  unfold cset
  split
  · rename_i h; subst h; exact cget_drop v k i m
  · exact cget_cput d k v i m

/-- A fold of steps that each keep the canonical form keeps it. -/
theorem cwf_foldl {β : Type} (d : α) (f : Cells α → β → Cells α) (h : ∀ m x, cwf d m = true → cwf d (f m x) = true) :
    ∀ (l : List β) (m : Cells α), cwf d m = true → cwf d (l.foldl f m) = true
  | [], _, hm => hm
  | x :: r, m, hm => cwf_foldl d f h r (f m x) (h m x hm)

/-! ### The byte memory -/

@[simp] theorem Memory.wf_nil : Memory.wf [] = true := rfl

theorem Memory.wf_cset {m : List Host.Cell} (h : Memory.wf m = true) (a : Nat) (b : Byte) : Memory.wf (cset 0 m a b) = true :=
  cwf_cset 0 a b h

theorem memByte_cset (m : List Host.Cell) (a : Nat) (b : Byte) (i : Nat) :
    memByte (cset 0 m a b) i = if i = a then b else memByte m i := cget_cset 0 a b i m

/-- A store keeps the canonical form. -/
theorem Memory.wf_memWrite (n : Nat) : ∀ {m : List Host.Cell}, Memory.wf m = true → ∀ a v, Memory.wf (memWrite m a n v) = true := by
  induction n with
  | zero => intro m h a v; exact h
  | succ n ih => intro m h a v; exact ih (Memory.wf_cset h a _) _ _

/-- A store writes its own bytes, the least significant first, and no other. -/
theorem memByte_memWrite (n : Nat) : ∀ (m : List Host.Cell) (a v i : Nat),
    memByte (memWrite m a n v) i = if a ≤ i ∧ i < a + n then BitVec.ofNat 8 (v / 256 ^ (i - a) % 256) else memByte m i := by
  induction n with
  | zero => intro m a v i; simp [memWrite, show ¬ (a ≤ i ∧ i < a) by omega]
  | succ n ih =>
    intro m a v i
    rw [memWrite, ih, memByte_cset]
    by_cases h1 : i = a
    · subst h1
      rw [if_neg (by omega), if_pos rfl, if_pos (by omega)]
      simp
    · by_cases h2 : a + 1 ≤ i ∧ i < a + 1 + n
      · have h3 : a ≤ i ∧ i < a + (n + 1) := by omega
        obtain ⟨d, rfl⟩ : ∃ d, i = a + 1 + d := ⟨i - (a + 1), by omega⟩
        simp only [h2, h3, and_self, if_true]
        rw [show a + 1 + d - (a + 1) = d by omega, show a + 1 + d - a = d + 1 by omega, Nat.div_div_eq_div_mul, Nat.pow_succ,
          Nat.mul_comm]
      · have h3 : ¬ (a ≤ i ∧ i < a + (n + 1)) := by omega
        rw [if_neg h2, if_neg h1, if_neg h3]

/-- Bytes outside a store read as before. -/
theorem memByte_memWrite_of_out (m : List Host.Cell) {a n i : Nat} (v : Nat) (hi : i < a ∨ a + n ≤ i) :
    memByte (memWrite m a n v) i = memByte m i := by
  rw [memByte_memWrite, if_neg (by omega)]

/-- A read depends on its own bytes only. -/
theorem memRead_congr {m m' : List Host.Cell} (n : Nat) : ∀ a, (∀ i, a ≤ i → i < a + n → memByte m i = memByte m' i) →
    memRead m a n = memRead m' a n := by
  induction n with
  | zero => intro a h; rfl
  | succ n ih =>
    intro a h
    simp only [memRead]
    rw [h a (Nat.le_refl _) (by omega), ih (a + 1) (fun i h1 h2 => h i (by omega) (by omega))]

/-- A read after a write to the same place gives the value written. -/
theorem memRead_memWrite (n : Nat) : ∀ (m : List Host.Cell) (a v : Nat),
    memRead (memWrite m a n v) a n = v % 2 ^ (8 * n) := by
  induction n with
  | zero => intro m a v; simp [memRead, Nat.mod_one]
  | succ n ih =>
    intro m a v
    rw [memRead, memWrite, ih, memByte_memWrite, if_neg (by omega), memByte_cset, if_pos rfl]
    have h8 : 2 ^ (8 * (n + 1)) = 256 * 2 ^ (8 * n) := by
      rw [Nat.mul_add, Nat.pow_add, Nat.mul_comm]
    rw [h8, Nat.mod_mul, BitVec.toNat_ofNat]
    simp

/-- A masked store keeps the canonical form. -/
theorem Memory.wf_memWriteMask (a : Nat) (k : BitVec 8) (v : Dword) (n : Nat) {m : List Host.Cell} (h : Memory.wf m = true) :
    Memory.wf (memWriteMask m a k v n) = true := by
  induction n with
  | zero => exact h
  | succ n ih =>
    simp only [memWriteMask]
    split
    · exact Memory.wf_cset ih _ _
    · exact ih

/-- A masked store writes the bytes of its mask and no other. -/
theorem memByte_memWriteMask (a : Nat) (k : BitVec 8) (v : Dword) (n : Nat) (m : List Host.Cell) (i : Nat) :
    memByte (memWriteMask m a k v n) i =
      if a ≤ i ∧ i < a + n ∧ k.getLsbD (i - a) then v.extractLsb' (8 * (i - a)) 8 else memByte m i := by
  induction n with
  | zero => simp [memWriteMask, show ¬ (a ≤ i ∧ i < a ∧ k.getLsbD (i - a) = true) by omega]
  | succ n ih =>
    simp only [memWriteMask]
    by_cases hk : k.getLsbD n = true
    · rw [if_pos hk, memByte_cset, ih]
      by_cases hi : i = a + n
      · subst hi
        have : a + n - a = n := by omega
        simp [this, hk]
      · have : (a ≤ i ∧ i < a + n ∧ k.getLsbD (i - a) = true) ↔ (a ≤ i ∧ i < a + (n + 1) ∧ k.getLsbD (i - a) = true) :=
          ⟨fun h => ⟨h.1, by omega, h.2.2⟩, fun h => ⟨h.1, by omega, h.2.2⟩⟩
        simp only [if_neg hi, this]
    · rw [if_neg hk, ih]
      have : (a ≤ i ∧ i < a + n ∧ k.getLsbD (i - a) = true) ↔ (a ≤ i ∧ i < a + (n + 1) ∧ k.getLsbD (i - a) = true) := by
        constructor
        · exact fun h => ⟨h.1, by omega, h.2.2⟩
        · rintro ⟨h1, h2, h3⟩
          refine ⟨h1, ?_, h3⟩
          by_cases hi : i = a + n
          · subst hi
            exact absurd (by simpa using h3) hk
          · omega
      simp only [this]

/-! ### Memory in the state -/

theorem State.homeWrite_mem (s : State) (pa n v : Nat) : (s.homeWrite pa n v).mem = memWrite s.mem pa n v := rfl

theorem State.homeWrite_wf {s : State} (h : Memory.wf s.mem = true) (pa n v : Nat) : Memory.wf (s.homeWrite pa n v).mem = true :=
  Memory.wf_memWrite n h pa v

theorem State.homeWriteMask_mem (s : State) (pa : Nat) (k : BitVec 8) (v : Dword) :
    (s.homeWriteMask pa k v).mem = memWriteMask s.mem pa k v 8 := by
  unfold State.homeWriteMask
  generalize List.range 8 = l
  suffices h : ∀ (l : List Nat) (u : State),
      (l.foldl (fun (u : State) i => { u with failing := if k.getLsbD i then clearFailing u.failing (pa + i) 1 else u.failing }) u).mem
        = u.mem from h l _
  intro l
  induction l with
  | nil => intro u; rfl
  | cons x r ih => intro u; rw [List.foldl_cons, ih]

theorem State.homeWriteMask_wf {s : State} (h : Memory.wf s.mem = true) (pa : Nat) (k : BitVec 8) (v : Dword) :
    Memory.wf (s.homeWriteMask pa k v).mem = true := by
  rw [State.homeWriteMask_mem]; exact Memory.wf_memWriteMask pa k v 8 h

theorem State.performVersions_wf {s : State} (h : Memory.wf s.mem = true) (t : Task) :
    Memory.wf (s.performVersions t).mem = true :=
  cwf_foldl 0 (fun m (c : Host.Cell) => memWrite m c.1 1 c.2.toNat) (fun _ c hm => Memory.wf_memWrite 1 hm c.1 c.2.toNat) t.vers s.mem h

/-- Moving a frame keeps the canonical form. -/
theorem cwf_moveFrame (d : α) (unit a b : Nat) {m : Cells α} (h : cwf d m = true) : cwf d (moveFrame d unit a b m) = true :=
  cwf_foldl d _ (fun _ c hm => cwf_cset d c.1 c.2 hm) _ _ (cwf_filter d _ h)

theorem State.moveHome_wf {s : State} (h : Memory.wf s.mem = true) (a b : Nat) : Memory.wf (s.moveHome a b).mem = true :=
  cwf_moveFrame 0 1 a b h

/-- The memory after reset is in canonical form. -/
theorem State.reset_wf : Memory.wf State.reset.mem = true := rfl

/-! ### Sorting -/

theorem mem_insertBy {β : Type} (le : β → β → Bool) (x y : β) : ∀ l, y ∈ insertBy le x l ↔ y = x ∨ y ∈ l
  | [] => by simp [insertBy]
  | z :: r => by
    unfold insertBy
    split
    · simp
    · simp [mem_insertBy le x y r, or_left_comm]

/-- Sorting keeps the elements. -/
theorem mem_sortBy {β : Type} (le : β → β → Bool) (y : β) : ∀ l, y ∈ sortBy le l ↔ y ∈ l
  | [] => Iff.rfl
  | x :: r => by simp [sortBy, mem_insertBy, mem_sortBy le y r]

theorem length_insertBy {β : Type} (le : β → β → Bool) (x : β) : ∀ l, (insertBy le x l).length = l.length + 1
  | [] => rfl
  | z :: r => by
    unfold insertBy
    split
    · rfl
    · simp [length_insertBy le x r]

/-- Sorting keeps their number. -/
theorem length_sortBy {β : Type} (le : β → β → Bool) : ∀ l, (sortBy le l).length = l.length
  | [] => rfl
  | x :: r => by simp [sortBy, length_insertBy, length_sortBy le r]

theorem pairwise_insertBy {β : Type} {le : β → β → Bool} (tot : ∀ a b, le a b = true ∨ le b a = true)
    (tr : ∀ a b c, le a b = true → le b c = true → le a c = true) (x : β) :
    ∀ l : List β, l.Pairwise (fun a b => le a b = true) → (insertBy le x l).Pairwise (fun a b => le a b = true)
  | [], _ => by simp [insertBy]
  | z :: r, h => by
    rw [List.pairwise_cons] at h
    unfold insertBy
    split
    · rename_i hx
      rw [List.pairwise_cons, List.pairwise_cons]
      refine ⟨fun y hy => ?_, h⟩
      rcases List.mem_cons.1 hy with rfl | hy
      · exact hx
      · exact tr _ _ _ hx (h.1 y hy)
    · rename_i hx
      rw [List.pairwise_cons]
      refine ⟨fun y hy => ?_, pairwise_insertBy tot tr x r h.2⟩
      rcases (mem_insertBy le x y r).1 hy with rfl | hy
      · exact (tot _ _).resolve_left hx
      · exact h.1 y hy

/-- In a total order the elements stand in that order. -/
theorem pairwise_sortBy {β : Type} {le : β → β → Bool} (tot : ∀ a b, le a b = true ∨ le b a = true)
    (tr : ∀ a b c, le a b = true → le b c = true → le a c = true) : ∀ l : List β, (sortBy le l).Pairwise (fun a b => le a b = true)
  | [] => List.Pairwise.nil
  | x :: r => pairwise_insertBy tot tr x _ (pairwise_sortBy tot tr r)

end Sys2Proof.Machine
end

