-- ==== Sys2Proof/Laws/Lookup.lean ====
section
/-! SUPPORT. What a look-up gives after an update: of threads, of the records kept in lists by their identifiers, of engines and of
management registers. -/

namespace Sys2Proof.Machine

/-! ### The containers -/

@[simp] theorem aget_aset {κ α : Type} [DecidableEq κ] (k : κ) (v : α) (i : κ) :
    ∀ l : List (κ × α), aget (aset l k v) i = if i = k then some v else aget l i
  | [] => rfl
  | (j, u) :: r => by
    by_cases hk : k = j
    · subst hk; by_cases hi : i = k <;> simp [aset, aget, hi]
    · by_cases hi : i = j
      · subst hi; simp [aset, aget, hk, Ne.symm hk]
      · simp [aset, aget, hk, hi, aget_aset k v i r]

@[simp] theorem aget_adel {κ α : Type} [DecidableEq κ] (k i : κ) :
    ∀ l : List (κ × α), aget (adel l k) i = if i = k then none else aget l i
  | [] => by simp [adel, aget]
  | (j, u) :: r => by
    have ih := aget_adel k i r
    by_cases hj : j = k
    · subst hj
      rw [show adel ((j, u) :: r) j = adel r j by simp [adel], ih]
      by_cases hi : i = j <;> simp [aget, hi]
    · rw [show adel ((j, u) :: r) k = (j, u) :: adel r k by simp [adel, hj]]
      by_cases hi : i = j
      · subst hi; simp [aget, hj]
      · simp [aget, hi, ih]

/-- A record found by its own test after it has been changed, where the change keeps the test. -/
theorem find?_updFirst_self {α : Type} {p : α → Bool} {f : α → α} (h : ∀ x, p x = true → p (f x) = true) :
    ∀ l : List α, (updFirst p f l).find? p = (l.find? p).map f
  | [] => rfl
  | x :: r => by
    by_cases hp : p x = true
    · simp [updFirst, hp, h x hp]
    · have hp' : p x = false := by simpa using hp
      simp [updFirst, hp', List.find?, find?_updFirst_self h r]

/-- A record found by a test that holds of no record changed stands as it was. -/
theorem find?_updFirst_other {α : Type} {p q : α → Bool} {f : α → α} (h : ∀ x, p x = true → q x = false ∧ q (f x) = false) :
    ∀ l : List α, (updFirst p f l).find? q = l.find? q
  | [] => rfl
  | x :: r => by
    by_cases hp : p x = true
    · simp [updFirst, hp, List.find?, (h x hp).1, (h x hp).2]
    · have hp' : p x = false := by simpa using hp
      simp only [updFirst, hp', List.find?]
      rw [← find?_updFirst_other h r]
      rfl

/-! ### The state -/

variable (s : State)

@[simp] theorem State.thread?_setThread (a b : Actor) (t : Thread) :
    (s.setThread a t).thread? b = if b = a then some t else s.thread? b := aget_aset a t b s.threads

@[simp] theorem State.thread?_updThread (a b : Actor) (f : Thread → Thread) :
    (s.updThread a f).thread? b = if b = a then (s.thread? a).map f else s.thread? b := by
  unfold State.updThread
  cases h : s.thread? a with
  | none => by_cases hb : b = a <;> simp [hb, h]
  | some t => simp

theorem State.crew?_updCrew (n : Nat) (f : Crew → Crew) (h : ∀ c, (f c).id = c.id) : (s.updCrew n f).crew? n = (s.crew? n).map f :=
  find?_updFirst_self (p := fun c : Crew => c.id == n) (fun x hx => by simpa [h] using hx) s.crews

theorem State.crew?_updCrew_other {n m : Nat} (f : Crew → Crew) (h : ∀ c, (f c).id = c.id) (hm : m ≠ n) :
    (s.updCrew n f).crew? m = s.crew? m :=
  find?_updFirst_other (p := fun c : Crew => c.id == n) (q := fun c : Crew => c.id == m)
    (fun x hx => by have : x.id = n := by simpa using hx
                    simp [h, this, Ne.symm hm]) s.crews

theorem State.queue?_updQueue (n : Nat) (f : BQueue → BQueue) (h : ∀ q, (f q).id = q.id) :
    (s.updQueue n f).queue? n = (s.queue? n).map f :=
  find?_updFirst_self (p := fun q : BQueue => q.id == n) (fun x hx => by simpa [h] using hx) s.queues

theorem State.job?_updJob (n : Nat) (f : Job → Job) (h : ∀ j, (f j).id = j.id) : (s.updJob n f).job? n = (s.job? n).map f :=
  find?_updFirst_self (p := fun j : Job => j.id == n) (fun x hx => by simpa [h] using hx) s.jobs

theorem State.flight?_updFlight (n : Nat) (f : Flight → Flight) (h : ∀ x, (f x).id = x.id) :
    (s.updFlight n f).flight? n = (s.flight? n).map f :=
  find?_updFirst_self (p := fun x : Flight => x.id == n) (fun x hx => by simpa [h] using hx) s.flights

@[simp] theorem State.engine_setEngine (k i : Nat) (e : Engine) :
    (s.setEngine k e).engine i = if i = k then e else s.engine i := cget_cset ({} : Engine) k e i s.engines

@[simp] theorem State.engine_updEngine (k i : Nat) (f : Engine → Engine) :
    (s.updEngine k f).engine i = if i = k then f (s.engine k) else s.engine i := State.engine_setEngine s k i _

@[simp] theorem State.mg_setMg (o i : Nat) (v : Word) : (s.setMg o v).mg i = if i = o then v else s.mg i := by
  unfold State.mg State.setMg
  by_cases hv : v = mgmtReset o
  · by_cases hi : i = o
    · subst hi; simp [← hv]
    · simp [hv, hi]
  · by_cases hi : i = o <;> simp [hv, hi]

end Sys2Proof.Machine
end

