-- ==== Sys2Proof/Tests/Slice0.lean ====
section
/-! SUPPORT. The model's own tests: ill-formed terms that the check refuses, words of the spec's encoding tables that decode to what
they stand for, single results and single steps whose values the spec gives, and for each statement states and operands that
meet its hypotheses. -/

set_option maxRecDepth 20000

namespace Sys2Proof.Tests

open Sys2Proof.Machine Sys2Proof.Safety

/-- The guard that is always true, and operand fields behind it. -/
def always : Guard := ⟨31, false⟩
def ops (d a b c : Opnd) : Args := ⟨always, 0, d, a, b, c⟩

/-- The register values the small states start from. -/
def labRegs : Cells Word :=
  [(1, 64), (2, 7), (3, 0xFFFFFFFE), (4, 0x10002000), (6, 64), (8, 0x10002040), (10, 3), (12, 1), (20, 0x10002000), (30, 0x10002000)]

/-- One thread of context `ctx` on core 0, with a scratchpad of 4,096 bytes and a private window of 64 bytes; context 0's tables
map the first 64 GiB. -/
def labWith (ctx : Nat) (f : Thread → Thread) : State :=
  let s := State.reset.withFetchWord 64 0
  let s := if ctx = 0 then s else (s.setMg (16 * 4 * ctx) 0x100000).setMg (16 * 4 * ctx + 8) 1
  { s with
    grp := { who := some probeActor, num := 9, by' := some (.core 0), members := [probeActor] }
    crews := s.crews.map (fun c => { c with scratchSize := 4096, ctx := ctx })
    launches := s.launches.map (fun l => { l with ctx := ctx })
    threads := s.threads.map (fun p => (p.1, f { p.2 with regs := labRegs, privSize := 64, privBase := 0x10001000, ctx := ctx })) }

/-- The plain small state. -/
def lab : State := labWith 0 id

/-- A thread with what an instruction captures as it issues there. -/
def thr (s : State) (a : Actor) : Thread := (s.thread? a).getD {}
def vals (s : State) (p : Iss) (a : Actor) : Vals := (s.begin a (thr s a) p).1
def dest (s : State) (p : Iss) (a : Actor) : Dest := (s.begin a (thr s a) p).2.1
def after (s : State) (p : Iss) (a : Actor) : State := (s.begin a (thr s a) p).2.2

/-- `Issues`, checked by evaluation. -/
def issuesB (s : State) (p : Iss) (chk : Option Cause) (a : Actor) : Bool :=
  s.grp.who == some a && (s.thread? a).isSome && (decodeCheck a (thr s a) p chk).isNone && guardOn (thr s a) p.x.guard &&
  s.ready a (thr s a) p && (match s.chanGate a (thr s a) p with
    | .go => true
    | _ => false) && !((p.irrev || s.usesOuterChan a p.x) && s.speculative a)

theorem issues {s : State} {p : Iss} {chk : Option Cause} {a : Actor} (h : issuesB s p chk a = true) :
    Issues s p chk a (thr s a) (vals s p a) (dest s p a) (after s p a) := by
  simp only [issuesB, Bool.and_eq_true, beq_iff_eq, Option.isNone_iff_eq_none, Option.isSome_iff_exists, Bool.not_eq_true'] at h
  obtain ⟨⟨⟨⟨⟨⟨h1, ⟨t, h2⟩⟩, h3⟩, h4⟩, h5⟩, h6⟩, h7⟩ := h
  refine ⟨h1, by simp [thr, h2], h3, h4, h5, ?_, h7, rfl⟩
  revert h6; cases s.chanGate a (thr s a) p <;> simp

/-- Every instruction of a list issues in a state. -/
def allIssue (s : State) (a : Actor) (l : List Instr) : Bool := l.all (fun i => issuesB s (issOf i) none a)

/-- An instruction issues and its captured operands meet a condition. -/
def issuesWith (s : State) (a : Actor) (i : Instr) (f : Vals → Bool) : Bool :=
  issuesB s (issOf i) none a && f (vals s (issOf i) a)

/-- A Palette entry of one row of 64 elements: base, its high word, format. -/
def entry (lo hi fmt : Word) : List Word := [lo, hi, 64, 1, 1, 1, 1, 0, 0, 0, fmt, 0, 0, 0, 0, 0]

/-- The parcels decode to the instruction. -/
def decodesTo (x : List Word × Instr) : Bool :=
  match decodeWords x.1 with
  | .ok i => i == x.2
  | .error _ => false

/-- The parcels are refused by the name. -/
def refusesAs (x : List Word × DecodeErr) : Bool :=
  match decodeWords x.1 with
  | .ok _ => false
  | .error e => e == x.2

/-- A flight of the thread, and a watch it holds. -/
def flight (w : Work) : Flight :=
  { id := 5, owner := probeActor, group := 9, pc := 0x10000000, len := 8, ctx := 0, core := 0, launch := some 1,
    crew := 1, window := 0, long := true, dest := .reg 14, work := w, srcs := [], log := false, park := none, orphan := false }
def watch (scratch : Bool) (addr : Dword) (pa : Nat) (hit : Option Word) : Watch :=
  { scratch := scratch, addr := addr, ge := false, cmp := 7, dest := .reg 14, len := 8, pa := pa, hit := hit, group := 9 }

/-! ### Ill-formed terms, one for each kind of check -/

theorem test_wf_guard_and_lookahead : [Instr.nop ⟨⟨24, false⟩, 0, .none, .none, .none, .none⟩, .nop ⟨⟨30, true⟩, 0, .none, .none, .none, .none⟩,
    .nop ⟨⟨31, true⟩, 0, .none, .none, .none, .none⟩, .mov ⟨always, 1, .reg 1, .reg 2, .none, .none⟩ .s32,
    .mov ⟨always, 1, .reg 1, .chan 2 false, .none, .none⟩ .s32, .nap ⟨always, 15, .none, .none, .reg 1, .none⟩].all (fun i => !i.wf) = true ∧
    [Instr.nop ⟨⟨23, true⟩, 0, .none, .none, .none, .none⟩, .mov ⟨always, 1, .reg 1, .chan 2 true, .none, .none⟩ .s32,
      .fdiv ⟨always, 15, .reg 1, .reg 2, .reg 3, .none⟩ .f32 .rne].all (·.wf) = true := by decide

theorem test_wf_operands : [Instr.nop (ops (.reg 0) .none .none .none), .iadd (ops .none (.reg 1) (.reg 2) .none) .s32 false,
    .iadd (ops (.pair 0) (.reg 1) (.reg 2) .none) .s32 false, .iadd (ops (.reg 0) (.reg 1) (.reg 2) .none) .s64 false,
    .iadd (ops (.reg 0) (.reg 1) (.reg 2) (.imm 0)) .s32 false, .iadd (ops (.reg 0) (.reg 1) .none .none) .s32 false,
    .iadd (ops (.chan 1 true) (.reg 1) (.reg 2) .none) .s32 false, .movs (ops (.chan 1 false) .none .none (.imm 0)),
    .icmp (ops (.reg 1) (.reg 2) (.reg 3) .none) .s32 .eq, .sel (ops (.reg 1) (.reg 2) (.reg 3) (.reg 4)) .s32,
    .lop3 (ops (.chan 1 false) (.reg 2) (.reg 3) (.imm 0)) .s32, .imad (ops (.reg 1) (.reg 2) (.reg 3) (.chan 4 true)) .s32 false,
    .bfx (ops (.reg 1) (.reg 2) (.imm 3) (.reg 4)) .s32, .movsw (ops .none (.reg 2) .none (.imm 0x32)), .movsw (ops .none (.pair 2) .none (.imm 0x19)),
    .welf (ops (.run 4 4) (.reg 1) .none .none) .rne, .famax (ops (.reg 1) (.reg 2) .none (.imm 1)) .f32, .brx (ops .none (.reg 2) .none .none),
    .pset (ops (.pred 1) (.pred 2) (.pred 3) (.imm 8)) .and, .pmov (ops (.reg 1) (.reg 2) .none .none), .vote (ops (.reg 1) (.pred 2) (.reg 3) .none) .any,
    .crbar (ops .none .none .none (.imm 16)), .trap (ops .none .none .none (.imm 16)), .cwait (ops .none .none .none (.imm 8))].all (fun i => !i.wf) = true := by
  decide

theorem test_wf_types : [Instr.iabs (ops (.reg 1) (.reg 2) .none .none) .u32 false, .bfi (ops (.reg 1) (.reg 2) (.imm 0) (.imm 8)) .s32,
    .idp4 (ops (.pair 2) (.pair 4) (.pair 6) (.imm 1)) .s64 false .same, .lea (ops (.pair 2) (.pair 4) (.pair 6) (.imm 1)) .u64,
    .lea (ops (.pair 2) (.reg 4) (.pair 6) (.imm 64)) .u32, .fadd (ops (.reg 1) (.reg 2) (.reg 3) .none) .f32 .sr,
    .fcmp (ops (.pred 1) (.reg 2) (.reg 3) .none) .f16x2 .eq, .fclass (ops (.reg 1) (.reg 2) .none .none) .bf16x2,
    .fdiv (ops (.reg 1) (.reg 2) (.reg 3) .none) .f16x2 .rne, .fdot2 (ops (.reg 1) (.reg 2) (.reg 3) (.reg 4)) .f32 .rne,
    .famax (ops (.reg 1) (.pair 2) .none (.pred 0)) .f64, .cvt (ops (.reg 1) (.reg 2) .none (.imm 0x08)) .rne,
    .cvt (ops (.reg 1) (.reg 2) .none (.imm 0x03)) .rne, .cvtn (ops (.reg 1) (.run 4 4) (.imm 0) (.imm 0)) .f32 .rne,
    .cvtn (ops (.reg 1) (.run 4 4) (.imm 0) (.imm 4)) .f32 .sr, .cvtw (ops (.run 4 1) (.reg 1) .none (.imm 9)) .f16x2,
    .qnt (ops (.reg 1) (.run 4 4) (.reg 2) (.imm 5)) .f32 .rne, .dqnt (ops (.run 4 4) (.reg 1) (.reg 2) (.imm 0)) .f32 .rne,
    .redux (ops (.reg 1) (.reg 2) (.reg 3) .none) .xor (.flt .f32), .scan (ops (.pair 2) (.pair 4) (.reg 3) .none) .and (.flt .f64),
    .shlC false 1 32, .shrC false 1 0x7F, .sarC true 1 32].all (fun i => !i.wf) = true := by decide

theorem test_wf_memory_and_units : [Instr.ld (ops (.reg 1) (.reg 4) (.imm 0) .none) .w32 .g, .ld (ops (.reg 1) (.pair 4) (.imm 0) .none) .w32 .x,
    .ld (ops (.reg 1) (.pair 4) (.imm 0) .none) .w64 .g, .ld (ops (.reg 1) (.pair 4) (.imm 0) (.reg 2)) .w32 .g,
    .ldLong (ops (.reg 1) (.pair 4) (.imm 0) .none) .w32 .g 0, .st (ops (.reg 1) (.pair 4) (.imm 0) (.reg 2)) .w32 .g,
    .atomcas (ops (.reg 1) (.pair 4) (.imm 0) (.run 8 4)) false .crew, .waita (ops (.reg 1) (.pair 4) (.imm 0) (.reg 2)) false .pv,
    .push (ops (.pred 1) (.reg 4) .none (.run 8 0)) false, .pop (ops (.run 8 0) (.reg 4) .none .none) true, .qcfg (ops .none (.reg 4) .none (.run 8 4)),
    .chset (ops .none (.reg 1) .none (.imm 0x05)), .chset (ops .none .none .none (.imm 0x15)), .chset (ops .none .none .none (.imm 0x40)),
    .mxreq (ops .none (.run 8 4) .none .none), .mxmm (ops .none .none .none (.imm 0)), .mxmm (ops .none .none .none (.imm 129)),
    .draw (ops (.reg 1) .none .none (.imm 0)) .u64, .drawk (ops (.reg 1) (.pair 2) (.imm 8) (.reg 3)) .u32, .result (ops .none (.reg 1) .none (.imm 4)),
    .spawn (ops .none (.pair 2) (.pair 4) (.imm 0)), .spawn (ops .none (.pair 2) (.pair 4) (.imm 33)), .hresume (ops .none .none .none (.imm 2)),
    .hret (ops .none .none .none (.imm 1)), .replay (ops .none (.pair 2) (.reg 4) (.imm 1)), .replay (ops .none (.reg 2) .none (.imm 0)),
    .tlbinv (ops .none .none .none (.imm 1)), .tlbinv (ops .none .none .none (.imm 3))].all (fun i => !i.wf) = true := by decide

/-! ### Decoding: words written out field by field from R99, R104, R110 and the entries' own tables -/

theorem test_decode_integer : ([([0x00007C01, 0x00000000], .nop (ops .none .none .none .none)),
     ([0x040E7C05, 0x10000018], .iadd (ops (.reg 14) (.reg 2) (.reg 3) .none) .s32 true),
     ([0x040E7C09, 0x0C3FE000], .isub (ops (.pair 14) (.pair 2) .none (.imm 255)) .u64 false),
     ([0x040E7C0D, 0x04000019], .imul (ops (.reg 14) (.reg 130) (.reg 3) .none) .u32 false),
     ([0x040E7C11, 0x00000018], .imulhi (ops (.reg 14) (.reg 2) (.reg 3) .none) .s32),
     ([0x040E7C15, 0x14012018], .imad (ops (.reg 14) (.reg 2) (.reg 3) (.reg 9)) .u32 true),
     ([0x040E7C19, 0x04000018], .imin (ops (.reg 14) (.reg 2) (.reg 3) .none) .u32),
     ([0x040E7C1D, 0x08000020], .imax (ops (.pair 14) (.pair 2) (.pair 4) .none) .s64),
     ([0x040E7C21, 0x10000000], .iabs (ops (.reg 14) (.reg 2) .none .none) .s32 true),
     ([0x040E7C25, 0x00000018], .and (ops (.reg 14) (.reg 2) (.reg 3) .none) .s32),
     ([0x040E7C29, 0x04000018], .or (ops (.reg 14) (.reg 2) (.reg 3) .none) .u32),
     ([0x040E7C2D, 0x00000018], .xor (ops (.reg 14) (.reg 2) (.reg 3) .none) .s32),
     ([0x040E7C31, 0x00000018], .andn (ops (.reg 14) (.reg 2) (.reg 3) .none) .s32),
     ([0x040E7C35, 0x04394018], .lop3 (ops (.reg 14) (.reg 2) (.reg 3) (.imm 202)) .u32),
     ([0x040E7C39, 0x0423E000], .shl (ops (.reg 14) (.reg 2) .none (.imm 31)) .u32),
     ([0x040E7C3D, 0x00000018], .shr (ops (.reg 14) (.reg 2) (.reg 3) .none) .s32)] : List (List Word × Instr)).all decodesTo = true := by decide

theorem test_decode_integer2 : ([([0x040E7C41, 0x08000018], .sar (ops (.pair 14) (.pair 2) (.reg 3) .none) .s64),
     ([0x040E7C45, 0x00000018], .rotl (ops (.reg 14) (.reg 2) (.reg 3) .none) .s32),
     ([0x040E7C49, 0x0C000000], .popc (ops (.reg 14) (.pair 2) .none .none) .u64),
     ([0x040E7C4D, 0x00000000], .clz (ops (.reg 14) (.reg 2) .none .none) .s32),
     ([0x040E7C51, 0x00000000], .brev (ops (.reg 14) (.reg 2) .none .none) .s32),
     ([0x040E7C55, 0x00012018], .bfx (ops (.reg 14) (.reg 2) (.reg 3) (.reg 9)) .s32),
     ([0x040E7C55, 0x242100E0], .bfx (ops (.reg 14) (.reg 2) (.imm 28) (.imm 8)) .u32),
     ([0x040E7C59, 0x242100E0], .bfi (ops (.reg 14) (.reg 2) (.imm 28) (.imm 8)) .u32),
     ([0x040E7C5D, 0x00012018], .prmt (ops (.reg 14) (.reg 2) (.reg 3) (.reg 9))),
     ([0x040E7C61, 0x30012018], .idp4 (ops (.reg 14) (.reg 2) (.reg 3) (.reg 9)) .s32 true .u8),
     ([0x040E7C65, 0x0027E020], .lea (ops (.pair 14) (.reg 2) (.pair 4) (.imm 63)) .s32),
     ([0x04057C69, 0xA0000018], .icmp (ops (.pred 5) (.reg 2) (.reg 3) .none) .s32 .ge),
     ([0x040E7C6D, 0x0402E018], .sel (ops (.reg 14) (.reg 2) (.reg 3) (.pred 23)) .u32),
     ([0x040E7C71, 0x0C000000], .mov (ops (.pair 14) (.pair 2) .none .none) .u64),
     ([0x000E7C76, 0x08000000, 0x80000000], .movi (ops (.pair 14) .none .none .none) .s64 0x80000000),
     ([0x000E7C79, 0x00242000], .movs (ops (.reg 14) .none .none (.imm 33))),
     ([0x04007C7D, 0x00232000], .movsw (ops .none (.reg 2) .none (.imm 25)))] : List (List Word × Instr)).all decodesTo = true := by decide

theorem test_decode_float : ([([0x040E7C81, 0x20000018], .fadd (ops (.reg 14) (.reg 2) (.reg 3) .none) .f32 .rz),
     ([0x040E7C85, 0x0C000020], .fsub (ops (.pair 14) (.pair 2) (.pair 4) .none) .f64 .rne),
     ([0x040E7C89, 0x44000018], .fmul (ops (.reg 14) (.reg 2) (.reg 3) .none) .f16x2 .ru),
     ([0x040E7C8D, 0x68012018], .ffma (ops (.reg 14) (.reg 2) (.reg 3) (.reg 9)) .bf16x2 .rd),
     ([0x040E7C91, 0x00000018], .fmin (ops (.reg 14) (.reg 2) (.reg 3) .none) .f32),
     ([0x040E7C95, 0x00000018], .fmax (ops (.reg 14) (.reg 2) (.reg 3) .none) .f32),
     ([0x04057C99, 0x20000018], .fcmp (ops (.pred 5) (.reg 2) (.reg 3) .none) .f32 .ne),
     ([0x040E7C9D, 0x00000000], .fclass (ops (.reg 14) (.reg 2) .none .none) .f32),
     ([0x040E7CA1, 0x00000018], .fdiv (ops (.reg 14) (.reg 2) (.reg 3) .none) .f32 .rne),
     ([0x040E7CA5, 0x0C000000], .fsqrt (ops (.pair 14) (.pair 2) .none .none) .f64 .rne),
     ([0x040E7CA9, 0x0C000000], .frcp (ops (.pair 14) (.pair 2) .none .none) .f64 .rne),
     ([0x040E7CAD, 0x00000000], .frsq (ops (.reg 14) (.reg 2) .none .none)),
     ([0x040E7CB1, 0x00000000], .fexp2 (ops (.reg 14) (.reg 2) .none .none)),
     ([0x040E7CB5, 0x00000000], .flog2 (ops (.reg 14) (.reg 2) .none .none)),
     ([0x040E7CB9, 0x00000000], .fsinpi (ops (.reg 14) (.reg 2) .none .none)),
     ([0x040E7CBD, 0x00000000], .fcospi (ops (.reg 14) (.reg 2) .none .none)),
     ([0x040E7CC1, 0x00000000], .ftanh (ops (.reg 14) (.reg 2) .none .none)),
     ([0x040E7CC5, 0x003FE000], .fscale (ops (.reg 14) (.reg 2) .none (.imm 255)) .f32 .rne),
     ([0x040E7CC9, 0x04012018], .fdot2 (ops (.reg 14) (.reg 2) (.reg 3) (.reg 9)) .f16x2 .rne),
     ([0x04107CCD, 0x00000000], .welf (ops (.run 16 3) (.reg 2) .none .none) .rne),
     ([0x28107CD1, 0x20000000], .wmerge (ops (.run 16 3) (.run 20 3) .none .none) .rz),
     ([0x040E7CD5, 0x0000A000], .famax (ops (.reg 14) (.reg 2) .none (.pred 5)) .f32)] : List (List Word × Instr)).all decodesTo = true := by decide

theorem test_decode_convert : ([([0x040E7D01, 0x00242000], .cvt (ops (.reg 14) (.reg 2) .none (.imm 33)) .rne),
     ([0x08087D05, 0x80A0E038], .cvtn ⟨always, 2, .reg 8, .run 4 4, .imm 7, .imm 7⟩ .f32 .sr),
     ([0x04107D09, 0x00202000], .cvtw (ops (.run 16 8) (.reg 2) .none (.imm 1)) .f32),
     ([0x200E7D0D, 0x00206010], .qnt (ops (.reg 14) (.run 16 4) (.reg 2) (.imm 3)) .f32 .rne),
     ([0x04107D11, 0x00206018], .dqnt (ops (.run 16 4) (.reg 2) (.reg 3) (.imm 3)) .f32 .rne)] : List (List Word × Instr)).all decodesTo = true := by decide

theorem test_decode_control : ([([0xFEFE7D81, 0x000007F9], .bra (ops .none .none .none .none) 0xFFFFFE),
     ([0x08007D85, 0x00000000], .brx (ops .none (.pair 4) .none .none)),
     ([0x00047D89, 0x00000000], .call (ops .none .none .none .none) 4),
     ([0x08007D8D, 0x00000000], .callx (ops .none (.pair 4) .none .none)),
     ([0x00007D91, 0x00000000], .ret (ops .none .none .none .none)),
     ([0x00007D95, 0x00000000], .exit (ops .none .none .none .none)),
     ([0x00007D99, 0x00000000], .yield (ops .none .none .none .none)),
     ([0x00007D99, 0x20000000], .yieldRole (ops .none .none .none .none)),
     ([0x00007D9D, 0x00000018], .nap (ops .none .none (.reg 3) .none)),
     ([0x04057DA1, 0x4020E0B8], .pset (ops (.pred 5) (.pred 2) (.pred 23) (.imm 7)) .xor),
     ([0x000E7DA5, 0x00000000], .pmov (ops (.reg 14) .none .none .none)),
     ([0x04007DA5, 0x20000018], .pmov (ops .none (.reg 2) (.reg 3) .none)),
     ([0x9A007DC9, 0x00000559], .mark (ops .none .none .none .none) 0xABCD),
     ([0x00007DCD, 0x00000000], .regb (ops .none .none .none .none)),
     ([0x00007DD1, 0x003FE000], .bkpt (ops .none .none .none (.imm 255))),
     ([0x00007DD5, 0x0021E000], .trap (ops .none .none .none (.imm 15)))] : List (List Word × Instr)).all decodesTo = true := by decide

theorem test_decode_collective : ([([0x0A0E7DA9, 0x00000010], .vote (ops (.reg 14) (.pred 5) (.reg 2) .none) .ballot),
     ([0x0A037DA9, 0x40000010], .vote (ops (.pred 3) (.pred 5) (.reg 2) .none) .all),
     ([0x040E7DAD, 0x2421E018], .shfl (ops (.reg 14) (.reg 2) (.reg 3) (.imm 15)) .up .u32),
     ([0x040E7DB1, 0x10000018], .redux (ops (.reg 14) (.reg 2) (.reg 3) .none) .add (.flt .f32)),
     ([0x040E7DB5, 0xC0000018], .scan (ops (.reg 14) (.reg 2) (.reg 3) .none) .xor (.int .s32)),
     ([0x040E7DB9, 0x0C000018], .matchL (ops (.reg 14) (.pair 2) (.reg 3) .none) .u64),
     ([0x00007DBD, 0x00206000], .part (ops .none .none .none (.imm 3))),
     ([0x00007DC1, 0x00000010], .sqbar (ops .none .none (.reg 2) .none)),
     ([0x00007DC5, 0x0021E000], .crbar (ops .none .none .none (.imm 15)))] : List (List Word × Instr)).all decodesTo = true := by decide

theorem test_decode_memory : ([([0x080E7E01, 0x20000400], .ld (ops (.reg 14) (.pair 4) (.imm 128) .none) .s8 .g),
     ([0x0C0E7E01, 0xA4000040], .ld (ops (.pair 14) (.reg 6) (.imm 8) .none) .w64 .x),
     ([0x08007E05, 0x88012040], .st (ops .none (.pair 4) (.imm 8) (.reg 9)) .w32 .pv),
     ([0x080E7E09, 0x0020E000], .ldt (ops (.reg 14) (.run 4 4) .none (.imm 7))),
     ([0x08007E0D, 0x0020E048], .stt (ops .none (.run 4 4) (.reg 9) (.imm 7))),
     ([0x14147E11, 0x00026040], .atom (ops (.reg 20) (.pair 10) (.imm 8) (.reg 19)) .add .crew),
     ([0x14147E11, 0xF4026040], .atom (ops (.reg 20) (.pair 10) (.imm 8) (.reg 19)) .maxU .system),
     ([0x14147E15, 0x2C030040], .atomcas (ops (.pair 20) (.pair 10) (.imm 8) (.run 24 4)) true .device),
     ([0x14147E19, 0x88026040], .atomf (ops (.reg 20) (.pair 10) (.imm 8) (.reg 19)) .addBF16x2 .die),
     ([0x14007E1D, 0x00000040], .pref (ops .none (.pair 10) (.imm 8) .none)),
     ([0x00007E21, 0x14000000], .fence (ops .none .none .none .none) .system),
     ([0x14147E25, 0x04000040], .acq (ops (.pair 20) (.pair 10) (.imm 8) .none) .cluster),
     ([0x14007E29, 0x10028040], .rel (ops .none (.pair 10) (.imm 8) (.pair 20)) .tenant),
     ([0x140C7E2D, 0x00020000], .bind (ops (.pair 12) (.pair 10) (.imm 0) (.reg 16))),
     ([0x14007E31, 0x00000040], .unbind (ops .none (.pair 10) (.imm 8) .none)),
     ([0x14007E35, 0x08000040], .promo (ops .none (.pair 10) (.imm 8) .none) .die),
     ([0x381F7E39, 0x2403C000], .waita (ops (.reg 31) (.reg 28) (.imm 0) (.reg 30)) true .x),
     ([0x140E7E3D, 0x0C000040], .futr (ops (.reg 14) (.pair 10) (.imm 8) .none) .device),
     ([0x14007E41, 0x0C026040], .futw (ops .none (.pair 10) (.imm 8) (.reg 19)) .device)] : List (List Word × Instr)).all decodesTo = true := by decide

theorem test_decode_memoryLong : ([([0x08087E02, 0x80000000, 0x00000100], .ldLong (ops (.reg 8) (.pair 4) .none .none) .w32 .g 0x100),
     ([0x08007E06, 0x88012000, 0xFFFFFF00], .stLong (ops .none (.pair 4) .none (.reg 9)) .w32 .pv 0xFFFFFF00),
     ([0x14147E12, 0x2C026000, 0xFFFFFF00], .atomLong (ops (.reg 20) (.pair 10) .none (.reg 19)) .exch .device 0xFFFFFF00),
     ([0x14147E16, 0x0C030000, 0xFFFFFF00], .atomcasLong (ops (.reg 20) (.pair 10) .none (.run 24 2)) false .device 0xFFFFFF00),
     ([0x14147E1A, 0x28026000, 0xFFFFFF00], .atomfLong (ops (.reg 20) (.pair 10) .none (.reg 19)) .minF32 .die 0xFFFFFF00),
     ([0x14007E1E, 0x00000000, 0xFFFFFF00], .prefLong (ops .none (.pair 10) .none .none) 0xFFFFFF00),
     ([0x14147E26, 0x04000000, 0xFFFFFF00], .acqLong (ops (.pair 20) (.pair 10) .none .none) .cluster 0xFFFFFF00),
     ([0x14007E2A, 0x10028000, 0xFFFFFF00], .relLong (ops .none (.pair 10) .none (.pair 20)) .tenant 0xFFFFFF00),
     ([0x140C7E2E, 0x00020000, 0xFFFFFF00], .bindLong (ops (.pair 12) (.pair 10) .none (.reg 16)) 0xFFFFFF00),
     ([0x14007E32, 0x00000000, 0xFFFFFF00], .unbindLong (ops .none (.pair 10) .none .none) 0xFFFFFF00),
     ([0x14007E36, 0x08000000, 0xFFFFFF00], .promoLong (ops .none (.pair 10) .none .none) .die 0xFFFFFF00),
     ([0x381F7E3A, 0x0003C000, 0xFFFFFF00], .waitaLong (ops (.reg 31) (.pair 28) .none (.reg 30)) false .g 0xFFFFFF00),
     ([0x140E7E3E, 0x0C000000, 0xFFFFFF00], .futrLong (ops (.reg 14) (.pair 10) .none .none) .device 0xFFFFFF00),
     ([0x14007E42, 0x0C026000, 0xFFFFFF00], .futwLong (ops .none (.pair 10) .none (.reg 19)) .device 0xFFFFFF00),
     ([0x00007E9A, 0x00224000, 0x00000420], .chsetLong (ops .none .none .none (.imm 18)) 0x420),
     ([0x18007F32, 0x0001C000, 0xFFFFFF00], .mbxdoneLong (ops .none (.pair 12) .none (.reg 14)) 0xFFFFFF00)] : List (List Word × Instr)).all decodesTo = true := by decide

theorem test_decode_queueAndCopy : ([([0x04007E45, 0x00028000], .push (ops .none (.reg 2) .none (.run 20 0)) false),
     ([0x04057E45, 0x20028000], .push (ops (.pred 5) (.reg 2) .none (.run 20 0)) true),
     ([0x04147E49, 0x00000000], .pop (ops (.run 20 0) (.reg 2) .none .none) false),
     ([0x04147E49, 0x2000A000], .pop (ops (.run 20 0) (.reg 2) .none (.pred 5)) true),
     ([0x04007E4D, 0x00030000], .qcfg (ops .none (.reg 2) .none (.run 24 8))),
     ([0x040E7E51, 0x00000000], .qstat (ops (.pair 14) (.reg 2) .none .none)),
     ([0x28007E81, 0x002060C0], .cpy (ops .none (.run 20 4) (.run 24 4) (.imm 3))),
     ([0x28007E85, 0x002060C0], .cpyg (ops .none (.run 20 4) (.run 24 4) (.imm 3))),
     ([0x28007E89, 0x002060C0], .cpys (ops .none (.run 20 4) (.run 24 4) (.imm 3))),
     ([0x28007E8D, 0x002060C0], .cpyc (ops .none (.run 20 4) (.run 24 8) (.imm 3))),
     ([0x00007E91, 0x00000000], .cseal (ops .none .none .none .none)),
     ([0x00007E95, 0x0020E000], .cwait (ops .none .none .none (.imm 7))),
     ([0x04007E99, 0x0024A000], .chset (ops .none (.reg 2) .none (.imm 37))),
     ([0x000E7E9D, 0x0021E000], .chstat (ops (.reg 14) .none .none (.imm 15))),
     ([0x30007EA1, 0x00000000], .mxreq (ops .none (.run 24 8) .none .none))] : List (List Word × Instr)).all decodesTo = true := by decide

theorem test_decode_easel : ([([0x20007F01, 0x00004000], .palw (ops .none (.run 16 16) .none (.reg 2))),
     ([0x00107F05, 0x0020E000], .palr (ops (.run 16 16) .none .none (.imm 7))),
     ([0x20007F09, 0x00010000], .mxla (ops .none (.run 16 4) .none (.reg 8))),
     ([0x20007F0D, 0x0020E000], .mxlb (ops .none (.run 16 4) .none (.imm 7))),
     ([0x00007F11, 0x00300000], .mxmm (ops .none .none .none (.imm 128))),
     ([0x20007F15, 0x00000000], .mxepi (ops .none (.run 16 4) .none .none)),
     ([0x20007F19, 0x00000000], .mxtile (ops .none (.run 16 8) .none .none)),
     ([0x00007F1D, 0x00000000], .mxsync (ops .none .none .none .none)),
     ([0x00007F21, 0x00000000], .cvzero (ops .none .none .none .none)),
     ([0x20007F25, 0x0020E000], .cvld (ops .none (.run 16 4) .none (.imm 7))),
     ([0x20007F29, 0x0020E000], .cvst (ops .none (.run 16 4) .none (.imm 7))),
     ([0x00087F2D, 0x00000000], .mbxpop (ops (.run 8 8) .none .none .none) false),
     ([0x00087F2D, 0x20006000], .mbxpop (ops (.run 8 8) .none .none (.pred 3)) true),
     ([0x18007F31, 0x0001C000], .mbxdone (ops .none (.pair 12) (.imm 0) (.reg 14)))] : List (List Word × Instr)).all decodesTo = true := by decide

theorem test_decode_group7 : ([([0x00087F81, 0x20A02000], .draw ⟨always, 2, .reg 8, .none, .none, .imm 1⟩ .f32),
     ([0x08087F85, 0x40012038], .drawk (ops (.pair 8) (.pair 4) (.imm 7) (.reg 9)) .u64),
     ([0x1C007F89, 0x00200000], .result (ops .none (.reg 14) .none (.imm 0))),
     ([0x08007F8D, 0x00000000], .mutl (ops .none (.pair 4) .none .none)),
     ([0x08007F91, 0x00240030], .spawn (ops .none (.pair 4) (.pair 6) (.imm 32))),
     ([0x08007F95, 0x00000038], .trace (ops .none (.reg 4) (.reg 7) .none)),
     ([0x00047F99, 0x0020E000], .hinsp (ops (.reg 4) .none .none (.imm 7))),
     ([0x0A007F9D, 0x00218000], .hpoke (ops .none (.reg 5) .none (.imm 12))),
     ([0x00007FA1, 0x00200000], .hresume (ops .none .none .none (.imm 0))),
     ([0x00007FA5, 0x00200000], .hret (ops .none .none .none (.imm 0))),
     ([0x08007FA9, 0x00204030], .replay (ops .none (.pair 4) (.reg 6) (.imm 2))),
     ([0x08007FA9, 0x00202000], .replay (ops .none (.reg 4) .none (.imm 1))),
     ([0x08007FAD, 0x00200030], .tlbinv (ops .none (.pair 4) (.reg 6) (.imm 0))),
     ([0x00007FAD, 0x00204000], .tlbinv (ops .none .none .none (.imm 2)))] : List (List Word × Instr)).all decodesTo = true := by decide

theorem test_decode_compact : ([([0x00000004], .nopC true),
     ([0x01059008], .movC false 200 130),
     ([0x01059010], .iaddC false 200 130),
     ([0x01059018], .isubC false 200 130),
     ([0x01059020], .andC false 200 130),
     ([0x01059028], .orC false 200 130),
     ([0x01059030], .xorC false 200 130),
     ([0x3E001238], .shlC false 9 31),
     ([0x3E001240], .shrC false 9 31),
     ([0x3E001248], .sarC false 9 31),
     ([0x80001250], .iaddiC false 9 0x40),
     ([0x03001258], .moviC false 9 0x4001),
     ([0x00141264], .faddC true 9 10),
     ([0x0014126C], .fmulC true 9 10),
     ([0x00141274], .fmaxC true 9 10),
     ([0x0014127C], .fminC true 9 10),
     ([0x00141284], .imulC true 9 10),
     ([0x0014128C], .iminC true 9 10),
     ([0x00141294], .imaxC true 9 10),
     ([0xFE141298], .ldC false 9 10 127),
     ([0xFE1412A0], .stC false 9 10 127),
     ([0xFDFFFEA8], .braC false 0x7FFFFE)] : List (List Word × Instr)).all decodesTo = true := by decide

/-- The worked encodings of the chapters: CVTN (R189), BRA (R143), ATOM, WAITA, CPY, LD and BIND (chapter 7), RESULT (R334). -/
theorem test_decode_worked : ([([0x08087D05, 0x80A0E038], .cvtn ⟨always, 2, .reg 8, .run 4 4, .imm 7, .imm 7⟩ .f32 .sr),
     ([0x00060981, 0], .bra ⟨⟨2, false⟩, 0, .none, .none, .none, .none⟩ 6),
     ([0x14147E11, 0x00026040], .atom (ops (.reg 20) (.pair 10) (.imm 8) (.reg 19)) .add .crew),
     ([0x381F7E39, 0x2403C000], .waita (ops (.reg 31) (.reg 28) (.imm 0) (.reg 30)) true .x),
     ([0x28007E81, 0x002060C0], .cpy (ops .none (.run 20 4) (.run 24 4) (.imm 3))),
     ([0x08087E02, 0x80000000, 0x100], .ldLong (ops (.reg 8) (.pair 4) .none .none) .w32 .g 0x100),
     ([0x140C062D, 0x00020000], .bind ⟨⟨1, false⟩, 0, .pair 12, .pair 10, .imm 0, .reg 16⟩),
     ([0x1C007F89, 0x00200000], .result (ops .none (.reg 14) .none (.imm 0)))] : List (List Word × Instr)).all decodesTo = true := by decide

/-- R118's rows, and reserved fields: an unused operand, GRD 24, GNEG with GRD 31, lookahead on IADD, APOP without ACH, a compact shift
by 32, an unassigned compact operation, the literal of a long NOP. -/
theorem test_decode_refusals : ([([3], .illegalLength), ([0x00007CD9, 0], .undefinedOpcode), ([0x0A047C81, 0x10000030], .reservedField),
     ([0x0A047C81, 0x00400030], .reservedField), ([0x00017C01, 0], .reservedField), ([0x00006001, 0], .reservedField),
     ([0x0000FC01, 0], .reservedField), ([0x040E7C05, 0x00400018], .reservedField), ([0x040E7C05, 0x0000001C], .reservedField),
     ([0x40001238], .reservedField), ([0x000000B0], .undefinedOpcode), ([0x00007C02, 0, 0], .reservedField)]
    : List (List Word × DecodeErr)).all refusesAs = true := by decide

/-! ### Witnesses: states and operands that meet the hypotheses of the statements -/

theorem witness_IntegerArithmeticResults : allIssue lab probeActor
    [.iadd (ops (.reg 14) (.reg 2) (.reg 3) .none) .s32 true, .iadd (ops (.pair 14) (.pair 2) .none (.imm 255)) .u64 false,
     .isub (ops (.reg 14) (.reg 2) (.reg 3) .none) .u32 true, .imul (ops (.reg 14) (.reg 2) (.reg 3) .none) .s32 false,
     .imulhi (ops (.reg 14) (.reg 2) (.reg 3) .none) .s32, .imad (ops (.reg 14) (.reg 2) (.reg 3) (.reg 4)) .s32 true,
     .imad (ops (.pair 14) (.pair 2) (.pair 4) (.imm 255)) .s64 false, .imin (ops (.reg 14) (.reg 2) (.reg 3) .none) .s32,
     .imax (ops (.reg 14) (.reg 2) (.reg 3) .none) .u32, .iabs (ops (.reg 14) (.reg 3) .none .none) .s32 true] = true := by decide

theorem witness_LogicResults : allIssue lab probeActor
    [.and (ops (.reg 14) (.reg 2) (.reg 3) .none) .s32, .or (ops (.pair 14) (.pair 2) .none (.imm 255)) .s64,
     .xor (ops (.reg 14) (.reg 2) (.reg 3) .none) .u32, .andn (ops (.reg 14) (.reg 2) (.reg 3) .none) .u32,
     .lop3 (ops (.reg 14) (.reg 2) (.reg 3) (.imm 0xCA)) .u32] = true := by decide

/-- Amounts at the bounds of R124: 0, w-1, w, and a register far above them. -/
theorem witness_ShiftAmounts : ([(.none, .imm 0), (.none, .imm 31), (.none, .imm 32), (.reg 3, .none)] : List (Opnd × Opnd)).all
    (fun b => [Instr.shl (ops (.reg 14) (.reg 3) b.1 b.2) .u32, .shr (ops (.reg 14) (.reg 3) b.1 b.2) .u32,
      .sar (ops (.reg 14) (.reg 3) b.1 b.2) .s32, .rotl (ops (.reg 14) (.reg 3) b.1 b.2) .u32].all
      (fun i => issuesWith lab probeActor i (fun v => decide (natOf v.a < 2 ^ 32)))) = true := by decide

/-- Fields at the bounds of R127: whole, past the top, of length 0, and at position w. -/
theorem witness_CountAndFieldResults : allIssue lab probeActor [.popc (ops (.reg 14) (.reg 3) .none .none) .u32,
      .brev (ops (.pair 14) (.pair 2) .none .none) .u64, .bfi (ops (.reg 14) (.reg 3) (.imm 28) (.imm 8)) .u32] = true ∧
    ([(0, 32), (28, 8), (4, 0), (32, 4)] : List (BitVec 8 × BitVec 8)).all (fun f => issuesWith lab probeActor
      (.bfx (ops (.reg 14) (.reg 3) (.imm f.1) (.imm f.2)) .s32) (fun v => decide (natOf v.a < 2 ^ 32))) = true ∧
    ([2, 3, 15] : List (BitVec 8)).all (fun r => issuesWith lab probeActor
      (.clz (ops (.reg 14) (.reg r) .none .none) .u32) (fun v => decide (natOf v.a < 2 ^ 32))) = true := by decide

theorem witness_ByteAndAddressResults : allIssue lab probeActor
    [.prmt (ops (.reg 14) (.reg 2) (.reg 3) (.reg 10)), .idp4 (ops (.reg 14) (.reg 2) (.reg 3) (.imm 255)) .s32 true .u8,
     .idp4 (ops (.reg 14) (.reg 2) (.reg 3) (.reg 10)) .u32 false .same, .lea (ops (.pair 14) (.reg 3) (.pair 4) (.imm 63)) .s32] = true := by
  decide

theorem witness_ComparesAndMoves : allIssue lab probeActor
    [.icmp (ops (.pred 1) (.reg 2) (.reg 3) .none) .s32 .lt, .sel (ops (.reg 14) (.reg 2) (.reg 3) (.pred 1)) .u32,
     .mov (ops (.pair 14) (.pair 2) .none .none) .u64, .movi (ops (.pair 14) .none .none .none) .s64 0x80000000,
     .pset (ops (.pred 1) (.pred 2) (.pred 23) (.imm 7)) .xor, .nop (ops .none .none .none .none)] = true := by decide

theorem witness_FloatAndConversionResults : allIssue lab probeActor
    [.fadd (ops (.reg 14) (.reg 2) (.reg 3) .none) .f32 .rz, .fsub (ops (.pair 14) (.pair 2) (.pair 4) .none) .f64 .rne,
     .fmul (ops (.reg 14) (.reg 2) (.reg 3) .none) .f16x2 .ru, .ffma (ops (.reg 14) (.reg 2) (.reg 3) (.reg 10)) .bf16x2 .rd,
     .fscale (ops (.reg 14) (.reg 2) .none (.imm 255)) .f32 .rne, .fdot2 (ops (.reg 14) (.reg 2) (.reg 3) (.reg 10)) .f16x2 .rne,
     .fmin (ops (.reg 14) (.reg 2) (.reg 3) .none) .f32, .fmax (ops (.reg 14) (.reg 2) (.reg 3) .none) .f32,
     .fcmp (ops (.pred 1) (.reg 2) (.reg 3) .none) .f32 .ne, .fclass (ops (.reg 14) (.reg 2) .none .none) .f32,
     .famax (ops (.reg 14) (.reg 2) .none (.pred 1)) .f32, .fdiv (ops (.reg 14) (.reg 2) (.reg 3) .none) .f32 .rne,
     .fsqrt (ops (.reg 14) (.reg 2) .none .none) .f32 .rne, .frcp (ops (.reg 14) (.reg 2) .none .none) .f32 .rz,
     .frsq (ops (.reg 14) (.reg 2) .none .none), .fexp2 (ops (.reg 14) (.reg 2) .none .none), .flog2 (ops (.reg 14) (.reg 2) .none .none),
     .fsinpi (ops (.reg 14) (.reg 2) .none .none), .fcospi (ops (.reg 14) (.reg 2) .none .none), .ftanh (ops (.reg 14) (.reg 2) .none .none),
     .cvt (ops (.reg 14) (.reg 2) .none (.imm 0x21)) .rne, .cvtw (ops (.run 16 4) (.reg 2) .none (.imm 1)) .f32,
     .qnt (ops (.reg 14) (.run 16 4) (.reg 2) (.imm 1)) .f32 .rne, .dqnt (ops (.run 16 4) (.reg 2) (.reg 3) (.imm 1)) .f32 .rne] = true := by
  decide

/-- Accumulators at a multiple of 4. -/
theorem witness_FloatAndConversionResults_welf : let x := ops (.run 16 3) (.reg 2) .none .none
    let y := ops (.run 16 3) (.run 20 3) .none .none
    accumCheck x = none ∧ accumCheck y = none ∧ allIssue lab probeActor [.welf x .rne, .wmerge y .rz] = true := by decide

/-- CVTN without and with a Palette entry to capture in, rounded by nibbles and not. -/
theorem witness_FloatAndConversionResults_cvtn : let s := lab.setPal 0 7 (entry 0x10003000 0 3)
    let i := Instr.cvtn (ops (.reg 14) (.run 16 4) (.imm 7) (.imm 1)) .f32 .rne
    let j := Instr.cvtn (ops (.reg 14) (.run 16 4) (.imm 7) (.imm 5)) .f32 .sr
    allIssue s probeActor [i, j, .cvtn (ops (.reg 14) (.run 16 4) (.imm 0) (.imm 1)) .f32 .rne,
      .cvtn (ops (.reg 14) (.run 16 4) (.imm 0) (.imm 5)) .f32 .sr] = true ∧
    palOk 7 ((after s (issOf i) probeActor).palEntry 0 7) = true ∧ palOk 7 ((after s (issOf j) probeActor).palEntry 0 7) = true := by decide

theorem witness_ControlInstructions_bra : allIssue lab probeActor [.bra (ops .none .none .none .none) 0xFFFFFF, .exit (ops .none .none .none .none),
    .yield (ops .none .none .none .none), .yieldRole (ops .none .none .none .none), .crbar (ops .none .none .none (.imm 15)),
    .mark (ops .none .none .none .none) 0xABCD, .pmov (ops (.reg 14) .none .none .none)] = true := by decide

theorem witness_ControlInstructions_brx : ∃ t v d u pc, Issues lab (issOf (.brx (ops .none (.pair 4) .none .none))) none probeActor t v d u ∧
    pc = dw (v.a.headD 0) (v.a.getD 1 0) ∧ pc.toNat % 4 = 0 :=
  ⟨_, _, _, _, _, issues (by decide), rfl, by decide⟩

/-- CALL with v1 = 64 at the top of a window of 64 bytes. -/
theorem witness_ControlInstructions_call : ∃ t v d u sp ea pa u',
    Issues lab (issOf (.call (ops .none .none .none .none) 4)) (stackCheck probeActor t) probeActor t v d u ∧
    sp = u.reg probeActor t 1 ∧ sp.toNat % 8 = 0 ∧ 8 ≤ sp.toNat ∧
    u.reach probeActor t .store .pv (dword (sp.toNat - 8)) 8 = (.go ea pa, u') :=
  ⟨_, _, _, _, _, 0x10001038, 0x10001038, _, issues (by decide), rfl, by decide, by decide, Prod.ext (by decide) rfl⟩

theorem witness_ControlInstructions_callx : ∃ t v d u sp ea pa u' pc,
    Issues lab (issOf (.callx (ops .none (.pair 4) .none .none))) (stackCheck probeActor t) probeActor t v d u ∧
    sp = u.reg probeActor t 1 ∧ sp.toNat % 8 = 0 ∧ 8 ≤ sp.toNat ∧
    u.reach probeActor t .store .pv (dword (sp.toNat - 8)) 8 = (.go ea pa, u') ∧ pc = dw (v.a.headD 0) (v.a.getD 1 0) ∧ pc.toNat % 4 = 0 :=
  ⟨_, _, _, _, _, 0x10001038, 0x10001038, _, _, issues (by decide), rfl, by decide, by decide, Prod.ext (by decide) rfl, rfl, by decide⟩

/-- RET with v1 = 56, the last dword of the window. -/
theorem witness_ControlInstructions_ret : let s := labWith 0 (fun t => { t with regs := [(1, 56)] })
    ∃ t v d u sp ea pa u' x u'', Issues s (issOf (.ret (ops .none .none .none .none))) (stackCheck probeActor t) probeActor t v d u ∧
    sp = u.reg probeActor t 1 ∧ sp.toNat % 8 = 0 ∧ sp.toNat + 8 ≤ t.privSize ∧
    u.reach probeActor t .load .pv (dword sp.toNat) 8 = (.go ea pa, u') ∧
    u'.gRead (u'.portOf probeActor t.ctx .pv) ea pa 8 = (x, false, u'') ∧ (dword x).toNat % 4 = 0 :=
  ⟨_, _, _, _, _, 0x10001038, 0x10001038, _, 0, _, issues (by decide), rfl, by decide, by decide, Prod.ext (by decide) rfl,
    Prod.ext (by decide) (Prod.ext (by decide) rfl), by decide⟩

theorem witness_ControlInstructions_pmov : let i := Instr.pmov (ops .none (.reg 2) (.reg 10) .none)
    issuesWith lab probeActor i (fun v => decide ((v.b.headD 0).toNat < 2 ^ 24)) = true := by decide

theorem witness_NapWaits : allIssue lab probeActor [.nap (ops .none .none .none (.imm 0)), .nap (ops .none .none .none (.imm 255)),
    .nap (ops .none .none (.reg 3) .none)] = true := by decide

/-- Before the end of a nap and at it. -/
theorem witness_NapWaits_expire : let s (n : Nat) : State := { labWith 0 (fun t => { t with wait := .nap (.core 0) 12 }) with cycles := [(.core 0, n)] }
    ((s 11).thread? probeActor = some (thr (s 11) probeActor) ∧ (thr (s 11) probeActor).wait = .nap (.core 0) 12 ∧ (s 11).cycle (.core 0) < 12) ∧
    ((s 12).thread? probeActor = some (thr (s 12) probeActor) ∧ (thr (s 12) probeActor).wait = .nap (.core 0) 12 ∧ 12 ≤ (s 12).cycle (.core 0) ∧
      (s 12).resident probeActor = true) := by decide

/-- REGB with no result outstanding, and with one. -/
theorem witness_RegionBegins : decodesTo ([0x00007DCD, 0], .regb (ops .none .none .none .none)) = true ∧
    allIssue lab probeActor [.regb (ops .none .none .none .none)] = true ∧
    let s := lab.launchFlight probeActor (thr lab probeActor) (issOf (.frsq ⟨always, 1, .reg 14, .reg 2, .none, .none⟩)) (.reg 14) [2] (.value [1]) true none
    allIssue s probeActor [.regb (ops .none .none .none .none)] = true ∧ ((after s (issOf (.regb (ops .none .none .none .none))) probeActor).flightsOf probeActor).any (·.long) = true := by decide

/-- A handler-free thread whose results are settled, and one with a result outstanding. -/
theorem witness_Breakpoints : decodesTo ([0x00007DD1, 0x003FE000], .bkpt (ops .none .none .none (.imm 255))) = true ∧
    let p := issOf (.bkpt (ops .none .none .none (.imm 255)))
    let out := lab.launchFlight probeActor (thr lab probeActor) (issOf (.frsq ⟨always, 1, .reg 14, .reg 2, .none, .none⟩)) (.reg 14) [2] (.value [1]) true none
    ([lab, out].all (fun s => issuesB s p none probeActor && !(thr s probeActor).inHandler && !(thr s probeActor).reissuing &&
      !(after s p probeActor).speculative probeActor)) = true ∧
    (after lab p probeActor).settled probeActor = true ∧ (after out p probeActor).settled probeActor = false := by decide

/-- Codes at the bounds, 0 and 15. -/
theorem witness_TrapsTaken : decodesTo ([0x00007DD5, 0x0021E000], .trap (ops .none .none .none (.imm 15))) = true ∧
    ([0, 15] : List (BitVec 8)).all (fun k => let p := issOf (.trap (ops .none .none .none (.imm k)))
      issuesB lab p none probeActor && !(thr lab probeActor).inHandler && !(thr lab probeActor).reissuing &&
      !(after lab p probeActor).speculative probeActor && (after lab p probeActor).settled probeActor) = true := by decide

/-- Lanes of squad 0 of crew 1 that wait at collectives: each with its arrival; PART of the squad as given. -/
def meetingLab (part : Nat) (l : List (Nat × Arrival)) : State :=
  let t := thr lab probeActor
  { lab with
    squads := [{ crew := 1, num := 0, shadow := false, part := part }]
    threads := l.map (fun p => (.thread ⟨1, 0, false, p.1⟩, { t with wait := .meeting p.2 })) }

def arrival (i : Instr) (mask : Word) (srcs : List Word) (d : Dest) : Arrival := ⟨i, 0x10000000, mask, srcs, d⟩

/-- The own lane alone as mask, and PART with its codes 1 and 5. -/
theorem witness_CollectivesIssue_arrive : let m : Opnd := .imm 1
    ([.vote (ops (.reg 14) (.pred 5) .none m) .ballot, .shfl (ops (.reg 14) (.reg 2) (.reg 3) m) .up .u32, .redux (ops (.reg 14) (.reg 2) .none m) .add (.flt .f32),
      .scan (ops (.reg 14) (.reg 2) .none m) .xor (.int .s32), .matchL (ops (.reg 14) (.reg 2) .none m) .u32,
      .sqbar (ops .none .none .none m)] : List Instr).all (fun i => issuesB lab (issOf i) none probeActor) = true ∧
    maskCause (laneOf probeActor) (lab.tileSize (squadKey probeActor)) 1 = none ∧
    ([1, 5] : List (BitVec 8)).all (fun k => let x := ops .none .none .none (.imm k); issuesWith lab probeActor (.part x)
      (fun v => decide (1 ≤ (meetMask x v).toNat) && decide ((meetMask x v).toNat ≤ 5))) = true := by decide

theorem witness_CollectivesIssue_meet : let i := Instr.redux (ops (.reg 14) (.reg 2) .none (.imm 13)) .add (.flt .f32)
    let s := meetingLab 2 [(0, arrival i 13 [0x3F800000] (.reg 14)), (2, arrival i 13 [0x33800000] (.reg 14)), (3, arrival i 13 [0x33800000] (.reg 14))]
    (s.thread? (.thread ⟨1, 0, false, 2⟩)).bind (·.met) = none ∧ s.resident (.thread ⟨1, 0, false, 2⟩) = true ∧ ∃ m ms, s.memberAt (1, 0, false) 2 = some m ∧ isPart m.arr.instr = false ∧
    (lanesOf m.arr.mask.toNat).find? (s.laneExited (1, 0, false)) = none ∧ s.meetingOf (1, 0, false) m.arr.mask.toNat = some ms ∧
    ms.all (agree m) = true := ⟨by decide, by decide, _, _, rfl, by decide, by decide, rfl, by decide⟩

/-- PARTs of one size at two program counters. -/
theorem witness_CollectivesIssue_part : let i := Instr.part (ops .none .none .none (.imm 3))
    let s := meetingLab 5 [(0, arrival i 5 [] .none), (2, { arrival i 5 [] .none with pc := 0x10000010 })]
    (s.thread? (.thread ⟨1, 0, false, 2⟩)).bind (·.met) = none ∧ s.resident (.thread ⟨1, 0, false, 2⟩) = true ∧
    ∃ m ms, s.memberAt (1, 0, false) 2 = some m ∧ isPart m.arr.instr = true ∧ s.meetingOf (1, 0, false) (s.liveMask (1, 0, false)) = some ms ∧
    s.goodOther (1, 0, false) = false ∧ ms.all (agreePart m) = true :=
  ⟨by decide, by decide, _, _, rfl, by decide, rfl, by decide, by decide⟩

/-- The same lanes in a formed meeting that the picker has put in its group. -/
def formedLab (part : Nat) (i : Instr) (l : List Nat) : State :=
  let t := thr lab probeActor
  let m := l.foldl (fun n x => n ||| 2 ^ x) 0
  { lab with
    grp := { lab.grp with members := l.map (fun x => .thread ⟨1, 0, false, x⟩) }
    squads := [{ crew := 1, num := 0, shadow := false, part := part }]
    threads := l.map (fun x => (.thread ⟨1, 0, false, x⟩, { t with met := some ⟨arrival i (word m) [] .none, m⟩ })) }

theorem witness_CollectivesIssue_formed : let s := formedLab 5 (.part (ops .none .none .none (.imm 3))) [0, 2]
    ∃ y m r q, (s.thread? (.thread ⟨1, 0, false, 2⟩)).bind (·.met) = some y ∧ s.grp.members.contains (.thread ⟨1, 0, false, 2⟩) = true ∧
      s.meetingReady ⟨1, 0, false, 2⟩ = true ∧ s.formedWith ⟨1, 0, false, 2⟩ = m :: r ∧
      m.arr.instr = .part (ops .none .none .none (.imm 3)) ∧ s.squad? (1, 0, false) = some q :=
  ⟨_, _, _, _, rfl, by decide, by decide, rfl, rfl, rfl⟩

theorem witness_SquadBarrier : decodesTo ([0x00007DC1, 0x0020A000], .sqbar (ops .none .none .none (.imm 5))) = true ∧
    let s := formedLab 5 (.sqbar (ops .none .none .none (.imm 5))) [0, 2]
    ∃ y, (s.thread? (.thread ⟨1, 0, false, 2⟩)).bind (·.met) = some y ∧ s.grp.members.contains (.thread ⟨1, 0, false, 2⟩) = true ∧
      s.meetingReady ⟨1, 0, false, 2⟩ = true ∧
      ∀ u ∈ s.formedWith ⟨1, 0, false, 2⟩, (∃ x, u.arr.instr = .sqbar x) ∧ u.arr.dest = .none := by
  refine ⟨by decide, _, rfl, by decide, by decide, ?_⟩
  intro u hu
  have : u.arr.instr = .sqbar (ops .none .none .none (.imm 5)) ∧ u.arr.dest = .none := by
    revert hu; revert u; decide
  exact ⟨⟨_, this.1⟩, this.2⟩

/-- The members of a meeting, by lane and A. -/
def membersOf (i : Instr) (mask : Word) (l : List (Nat × Word)) : List Member :=
  l.map (fun p => ⟨⟨1, 0, false, p.1⟩, {}, arrival i mask [p.2] (.reg 14)⟩)

/-- Meetings of each kind: distinct lanes below 32, tiles at both bounds, and a member for each clause; for SHFL one whose source lane
is a member and one whose is not. -/
theorem witness_MeetingResults : ([.vote (ops (.reg 14) (.pred 5) .none (.imm 13)) .ballot, .vote (ops (.pred 4) (.pred 5) .none (.imm 13)) .any,
      .vote (ops (.pred 4) (.pred 5) .none (.imm 13)) .all, .matchL (ops (.reg 14) (.reg 2) .none (.imm 13)) .u32,
      .redux (ops (.reg 14) (.reg 2) .none (.imm 13)) .add (.flt .f32),
      .scan (ops (.reg 14) (.reg 2) .none (.imm 13)) .add (.int .u32)] : List Instr).all (fun i =>
      let ms := membersOf i 13 [(0, 1), (2, 1), (3, 0)]
      ms.all (fun u => decide (u.ref.lane < 32)) && ms.all (fun u => u.arr.instr == i) &&
      decide ((ms.map (·.ref.lane)).Nodup)) = true ∧
    let i := Instr.shfl (ops (.reg 14) (.reg 2) (.reg 3) (.imm 13)) .down .u32
    let ms := ([(0, 0), (2, 2), (3, 3)] : List (Nat × Word)).map (fun p => (⟨⟨1, 0, false, p.1⟩, {}, arrival i 13 [p.2, 2] (.reg 14)⟩ : Member))
    ms.map (fun m => ((m.ref.lane % 4 + (m.vals.b.headD 0).toNat) % 4, ms.any (fun u => u.ref.lane == (m.ref.lane % 4 + 2) % 4))) =
      [(2, true), (0, true), (1, false)] := by decide

/-! ### Single instructions with the values of the rules' examples, or by hand from their formulas -/

/-- An instruction run alone in a thread with these registers; what it leaves of the thread. -/
def ran (regs : Cells Word) (i : Instr) : Option Thread :=
  match exec i (labWith 0 (fun t => { t with regs := regs, preds := 0x20 })) with
  | .next w => w.thread? probeActor
  | _ => none

/-- A word of register `r` after it. -/
def gives (x : Cells Word × Instr × Nat × Word) : Bool :=
  match ran x.1 x.2.1 with
  | some t => decide (cget 0 t.regs x.2.2.1 = x.2.2.2) && decide (t.pc = 0x10000000 + BitVec.ofNat 64 x.2.1.bytes)
  | none => false

/-- The words of the result that is outstanding after it. -/
def owes (x : Cells Word × Instr × List Word) : Bool :=
  match exec x.2.1 (labWith 0 (fun t => { t with regs := x.1 })) with
  | .next w => (w.flights.map (·.work)) == [.value x.2.2]
  | _ => false

/-- R122's examples, wrap and clamp. -/
theorem test_integer : ([([(1, 0xFFFFFFFF), (2, 2)], .imulhi (ops (.reg 3) (.reg 1) (.reg 2) .none) .s32, 3, 0xFFFFFFFF),
    ([(1, 0xFFFFFFFF), (2, 2)], .imulhi (ops (.reg 3) (.reg 1) (.reg 2) .none) .u32, 3, 1),
    ([(1, 0x80000000)], .iabs (ops (.reg 3) (.reg 1) .none .none) .s32 false, 3, 0x80000000),
    ([(1, 0x80000000)], .iabs (ops (.reg 3) (.reg 1) .none .none) .s32 true, 3, 0x7FFFFFFF),
    ([(1, 3), (2, 5)], .isub (ops (.reg 3) (.reg 1) (.reg 2) .none) .u32 true, 3, 0),
    ([(1, 0x7FFFFFFF)], .iadd (ops (.reg 3) (.reg 1) .none (.imm 1)) .s32 false, 3, 0x80000000),
    ([(1, 0x7FFFFFFF)], .iadd (ops (.reg 3) (.reg 1) .none (.imm 1)) .s32 true, 3, 0x7FFFFFFF),
    ([(1, 0x10000), (2, 0x10000)], .imul (ops (.reg 3) (.reg 1) (.reg 2) .none) .u32 true, 3, 0xFFFFFFFF),
    ([(1, 3), (2, 5), (3, 2)], .imad (ops (.reg 3) (.reg 1) (.reg 2) (.reg 3)) .s32 false, 3, 17),
    ([(1, 0xFFFFFFFF)], .imin (ops (.reg 3) (.reg 1) .none (.imm 1)) .s32, 3, 0xFFFFFFFF),
    ([(1, 0xFFFFFFFF)], .imax (ops (.reg 3) (.reg 1) .none (.imm 1)) .u32, 3, 0xFFFFFFFF)] : List (Cells Word × Instr × Nat × Word)).all gives = true := by decide

/-- R123, R124, R126-R130 and R132-R134: the controls of R128 (the third with its selectors three bits wide), the field of R127, shifts by the width or more, a byte sum, a scaled address. -/
theorem test_bits : ([([(31, 0x30000000)], .bfx (ops (.reg 32) (.reg 31) (.imm 0x1C) (.imm 4)) .u32, 32, 3),
    ([(1, 5), (3, 0xFFFFFFFF)], .bfi (ops (.reg 3) (.reg 1) (.imm 4) (.imm 4)) .u32, 3, 0xFFFFFF5F),
    ([(1, 0x0000F200), (3, 0x000E0001)], .prmt (ops (.reg 5) (.reg 1) (.reg 2) (.reg 3)), 5, 0xFFFFFFF2),
    ([(1, 0x44332211), (3, 0x53)], .prmt (ops (.reg 5) (.reg 1) (.reg 2) (.reg 3)), 5, 0x11223344),
    ([(1, 0x44332211), (3, 0xC008)], .prmt (ops (.reg 5) (.reg 1) (.reg 2) (.reg 3)), 5, 0x00002211),
    ([(1, 0xF0), (2, 0x30)], .andn (ops (.reg 3) (.reg 1) (.reg 2) .none) .u32, 3, 0xC0),
    ([(1, 1), (2, 32)], .shl (ops (.reg 3) (.reg 1) (.reg 2) .none) .u32, 3, 0),
    ([(1, 0x80000000), (2, 40)], .sar (ops (.reg 3) (.reg 1) (.reg 2) .none) .s32, 3, 0xFFFFFFFF),
    ([(1, 0x80000001), (2, 33)], .rotl (ops (.reg 3) (.reg 1) (.reg 2) .none) .u32, 3, 3),
    ([(2, 0xFF), (3, 0x80000000)], .popc (ops (.reg 4) (.pair 2) .none .none) .u64, 4, 9), ([], .clz (ops (.reg 3) (.reg 1) .none .none) .u32, 3, 32),
    ([(1, 1)], .brev (ops (.reg 3) (.reg 1) .none .none) .u32, 3, 0x80000000),
    ([(1, 0xFC030201), (2, 0x01010101)], .idp4 (ops (.reg 3) (.reg 1) (.reg 2) (.imm 10)) .s32 false .same, 3, 12),
    ([(1, 3), (4, 0), (5, 1)], .lea (ops (.pair 2) (.reg 1) (.pair 4) (.imm 4)) .u32, 2, 0x30),
    ([(1, 7), (2, 8)], .sel (ops (.reg 3) (.reg 1) (.reg 2) (.pred 5)) .u32, 3, 7),
    ([(1, 7), (2, 8)], .sel (ops (.reg 3) (.reg 1) (.reg 2) (.pred 6)) .u32, 3, 8),
    ([], .movi (ops (.pair 2) .none .none .none) .s64 0x80000000, 3, 0xFFFFFFFF)] : List (Cells Word × Instr × Nat × Word)).all gives = true := by decide

/-- R173-R178: one rounding, exact products, ordered zeros, classes told apart. -/
theorem test_float : ([([(1, 0x3F800000), (2, 0x33800000)], .fadd (ops (.reg 3) (.reg 1) (.reg 2) .none) .f32 .rne, 3, 0x3F800000),
    ([(1, 0x3F800000), (2, 0x33800000)], .fadd (ops (.reg 3) (.reg 1) (.reg 2) .none) .f32 .ru, 3, 0x3F800001),
    ([(1, 0x3F800000), (2, 0x40000000)], .fsub (ops (.reg 3) (.reg 1) (.reg 2) .none) .f32 .rne, 3, 0xBF800000),
    ([(1, 0x3F800001), (3, 0xBF800002)], .ffma (ops (.reg 3) (.reg 1) (.reg 1) (.reg 3)) .f32 .rne, 3, 0x28800000),
    ([(1, 0x7F800000)], .fmul (ops (.reg 3) (.reg 1) (.reg 2) .none) .f32 .rne, 3, 0x7FC00000),
    ([(1, 0x80000000)], .fmin (ops (.reg 3) (.reg 1) (.reg 2) .none) .f32, 3, 0x80000000),
    ([(1, 0x7FC12345), (2, 0x3F800000)], .fmax (ops (.reg 3) (.reg 1) (.reg 2) .none) .f32, 3, 0x3F800000),
    ([(1, 0x7F800001)], .fclass (ops (.reg 3) (.reg 1) .none .none) .f32, 3, 0x100), ([(1, 0x80000001)], .fclass (ops (.reg 3) (.reg 1) .none .none) .f32, 3, 4),
    ([(1, 0x3F800000)], .fscale (ops (.reg 3) (.reg 1) .none (.imm 0xFF)) .f32 .rne, 3, 0x3F000000),
    ([(3, 0x3F800000), (1, 0xC3FA0000)], .famax (ops (.reg 3) (.reg 1) .none (.imm 0)) .f32, 3, 0x43FA0000),
    ([(1, 0x7FC00000), (3, 0x3F800000)], .famax (ops (.reg 3) (.reg 1) .none (.imm 0)) .f32, 3, 0xBF800000),
    ([(1, 0x40A00000)], .welf (ops (.run 4 3) (.reg 1) .none .none) .rne, 5, 0x40A00000)] : List (Cells Word × Instr × Nat × Word)).all gives = true := by decide

/-- R179, R180: a third, the root of 2, and 2 to the first power. -/
theorem test_longLatency : ([([(1, 0x3F800000), (2, 0x40400000)], .fdiv (ops (.reg 3) (.reg 1) (.reg 2) .none) .f32 .rne, [0x3EAAAAAB]),
    ([(1, 0x40000000)], .fsqrt (ops (.reg 3) (.reg 1) .none .none) .f32 .rne, [0x3FB504F3]),
    ([], .frcp (ops (.reg 3) (.reg 1) .none .none) .f32 .rne, [0x7F800000]),
    ([(1, 0x3F800000)], .fexp2 (ops (.reg 3) (.reg 1) .none .none), [0x40000000])] : List (Cells Word × Instr × List Word)).all owes = true := by decide +kernel

/-- R195's example, and back. -/
theorem test_quantise : ([([(11, 0x00083C00), (13, 0x3F800000), (14, 0xBF800000), (15, 0x40200000), (16, 0x40600000), (17, 0xC1100000), (18, 0x40ECCCCD),
      (19, 0x42C80000)], .qnt (ops (.reg 20) (.run 12 8) (.reg 11) (.imm 2)) .f32 .rne, 20, 0xFF0CA798),
    ([(11, 0x00083C00), (20, 0xFF0CA798)], .dqnt (ops (.run 24 8) (.reg 20) (.reg 11) (.imm 2)) .f32 .rne, 29, 0xC1000000),
    ([(11, 0x00083C00), (20, 0xFF0CA798)], .dqnt (ops (.run 24 8) (.reg 20) (.reg 11) (.imm 2)) .f32 .rne, 31, 0x40E00000),
    ([(1, 0x3FC00000)], .cvt (ops (.reg 3) (.reg 1) .none (.imm 0x04)) .rz, 3, 1)] : List (Cells Word × Instr × Nat × Word)).all gives = true := by decide

/-- R131, R149, R150, R177: predicates. -/
theorem test_predicates : ([([(1, 0xFFFFFFFF)], .icmp (ops (.pred 1) (.reg 1) .none (.imm 1)) .s32 .lt, 0x22),
    ([(1, 0xFFFFFFFF)], .icmp (ops (.pred 5) (.reg 1) .none (.imm 1)) .u32 .lt, 0),
    ([(1, 0x7FC00000)], .fcmp (ops (.pred 2) (.reg 1) (.reg 1) .none) .f32 .ne, 0x24),
    ([(1, 0x7FC00000)], .fcmp (ops (.pred 5) (.reg 1) (.reg 1) .none) .f32 .eq, 0), ([], .pset (ops (.pred 4) (.pred 4) (.pred 4) (.imm 4)) .xor, 0x30),
    ([(1, 0x00FFFFFF), (2, 0x800001)], .pmov (ops .none (.reg 1) (.reg 2) .none), 0x800021)] : List (Cells Word × Instr × BitVec 24)).all
      (fun x => (ran x.1 x.2.1).any (fun t => t.preds == x.2.2)) = true := by decide

/-- R143-R146: a branch back by one unit, a call and its return address, an exit. -/
theorem test_control : (ran [] (.bra (ops .none .none .none .none) 0xFFFFFF)).map (·.pc) = some 0xFFFFFFC ∧
    (ran [(4, 0x20)] (.brx (ops .none (.pair 4) .none .none))).map (·.pc) = some 0x20 ∧
    ((ran [(1, 64)] (.call (ops .none .none .none .none) 4)).map (fun t => (t.pc, cget 0 t.regs 1))) = some (0x10000010, 56) ∧
    (ran [] (.exit (ops .none .none .none .none))).all (·.exited) = true := by decide

/-- R144, R145, R166, R167, R440, R117: causes with EPC and the handler's address. -/
theorem test_traps : ([([], .trap (ops .none .none .none (.imm 5)), 0x35, 0x10000008), ([], .bkpt (ops .none .none .none (.imm 7)), 0xA0, 0x10000008),
    ([(4, 2)], .brx (ops .none (.pair 4) .none .none), 0x43, 0x10000000), ([(1, 0)], .call (ops .none .none .none .none) 4, 0x24, 0x10000000),
    ([], .hret (ops .none .none .none .none), 0x08, 0x10000000),
    ([], .mxsync (ops .none .none .none .none), 0x07, 0x10000000)] : List (Cells Word × Instr × Nat × Dword)).all
      (fun x => (ran x.1 x.2.1).any (fun t => t.inHandler && (t.trap.cause == x.2.2.1) && (t.trap.epc == x.2.2.2) && (t.pc == 0x10000000))) = true := by decide

/-- R155-R158, R153, R154: the tile of R156 with lane 1 away, its prefix, a rotation, a match and a ballot. -/
theorem test_collectives : let ms (i : Instr) := membersOf i 13 [(0, 0x3F800000), (2, 0x33800000), (3, 0x33800000)]
    let all (i : Instr) (t : Nat) := (ms i).map (memberWords (ms i) t)
    all (.redux (ops (.reg 14) (.reg 2) (.reg 3) .none) .add (.flt .f32)) 4 = [[0x3F800001], [0x3F800001], [0x3F800001]] ∧
    all (.scan (ops (.reg 14) (.reg 2) (.reg 3) .none) .max (.int .u32)) 4 = [[0x3F800000], [0x3F800000], [0x3F800000]] ∧
    all (.matchL (ops (.reg 14) (.reg 2) (.reg 3) .none) .u32) 4 = [[1], [12], [12]] := by decide

/-- R199, R203: a signed byte of scratch, a pair of memory; a store and an atomic as their homes show them. -/
theorem test_memory : let s : State := { lab with crews := lab.crews.map (fun c => { c with scratch := [(68, 0x80)] }), mem := memWrite lab.mem 0x10002008 8 0x1122334455667788 }
    let owed (o : Out) (l : List Work) : Bool := match o with
      | .next w => w.flights.map (·.work) == l
      | _ => false
    let home (o : Out) (a v : Nat) : Bool := match o with
      | .next w => w.homeRead a 4 == v
      | _ => false
    owed (exec (.ld (ops (.reg 14) (.reg 1) (.imm 4) .none) .s8 .x) s) [.value [0xFFFFFF80]] = true ∧
    owed (exec (.ld (ops (.pair 14) (.pair 4) (.imm 8) .none) .w64 .g) s) [.value [0x55667788, 0x11223344]] = true ∧
    owed (exec (.atom (ops (.reg 14) (.pair 4) (.imm 8) (.reg 2)) .add .device) s) [.value [0x55667788]] = true ∧
    home (exec (.atom (ops (.reg 14) (.pair 4) (.imm 8) (.reg 2)) .add .device) s) 0x10002008 0x5566778F = true ∧
    home (exec (.st (ops .none (.pair 4) (.imm 8) (.reg 2)) .w32 .g) s) 0x10002008 0x55667788 = true := by decide

/-- R102, R140, R141: a pair reads before it writes, and a branch second starts at the second parcel. -/
theorem test_pairs : (ran [(1, 5), (4, 3), (6, 7)] (.compactPairIssue (.mov 3 1) (.imul 6 4))).map (fun t => (cget 0 t.regs 3, cget 0 t.regs 6, t.pc)) = some (5, 21, 0x10000008) ∧
    (ran [(1, 5)] (.compactPairIssue (.mov 3 1) (.bra 3))).map (fun t => (cget 0 t.regs 3, t.pc)) = some (5, 0x10000010) ∧
    (ran [(1, 5)] (.compactPairIssue (.mov 3 1) (.mov 3 2))).map (fun t => (t.trap.cause, t.trap.detail)) = some (4, 1) := by decide

/-- From reset with a word placed: the first step runs it. -/
theorem test_firstStep : (match step (State.reset.withFetchWord 64 (0x7C76 + 0xA0000 + 2 ^ 64 * 9)) with
    | .next w => (w.thread? probeActor).map (fun t => (t.pc, w.grp.who))
    | _ => none) = some (0x1000000C, some probeActor) ∧
    (match step (State.reset.withFetchWord 64 0x7CD9) with
    | .next w => (w.thread? probeActor).map (fun t => (t.trap.cause, t.inHandler))
    | _ => none) = some (2, true) := by decide

/-- Moves of special registers that pass R137's checks: a number of each width, draw counters at both ends, EPC by firmware. -/
theorem witness_SpecialRegisterMoves :
    ([0x00, 0x01, 0x0A, 0x11, 0x19, 0x21, 0x2F, 0x30, 0x33] : List (BitVec 8)).all (fun n => let x := ops (.reg 16) .none .none (.imm n)
      issuesB lab (issOf (.movs (movsArgs x))) (specialCheck (regNumber x) false lab probeActor (thr lab probeActor)) probeActor &&
      !(after lab (issOf (.movs (movsArgs x))) probeActor).drawsPending probeActor (regNumber x)) = true ∧
    ([(0x11, .reg 2), (0x19, .reg 2), (0x20, .reg 2), (0x32, .pair 2)] : List (BitVec 8 × Opnd)).all (fun n => let x := ops .none n.2 .none (.imm n.1)
      issuesB lab (issOf (.movsw x)) (specialCheck (regNumber x) true lab probeActor (thr lab probeActor)) probeActor &&
      !(after lab (issOf (.movsw x)) probeActor).drawsPending probeActor (regNumber x)) = true ∧
    isVector probeActor = true ∧ (lab.squad? (squadKey probeActor)).isSome = true ∧ (lab.thread? probeActor).isSome = true ∧
    (lab.crew? (crewOf probeActor)).isSome = true ∧ probeActor ≠ .mp ∧ lab.taskOf probeActor = none ∧ (thr lab probeActor).frontierSeen = none := by decide

/-- A thread of a task, which has read FRONTIER before; a thread of a launch that records and of one that replays; an Easel core. -/
theorem witness_SpecialRegisterMoves_domain : let task : Task := { launch := 1, key := 7 * 2 ^ 64, depth := 0, st := .running, root := some 0, crew := some 1 }
    let s : State := { labWith 0 (fun t => { t with frontierSeen := some 5 }) with
      crews := lab.crews.map (fun c => { c with task := some (7 * 2 ^ 64) }), tasks := [task] }
    let t := thr s probeActor
    let under (f : Packet → Packet) : State := { lab with launches := lab.launches.map (fun l => { l with pkt := f l.pkt }) }
    (s.taskOf probeActor = some task ∧ t.launch = some 1 ∧ s.frontier 1 = some (7 * 2 ^ 64) ∧ s.thread? probeActor = some t ∧ t.frontierSeen = some 5 ∧
      5 ≤ s.frontierKey probeActor t) ∧
    ((under (fun p => { p with record := true })).pktOf (thr lab probeActor)).record = true ∧
    ((under (fun p => { p with replay := true })).pktOf (thr lab probeActor)).replay = true ∧
    (isVector (.easel 3) = false ∧ scalarReads 0x00 = false ∧ scalarReads 0x20 = false) := by decide

/-- Numbers at the edges of what R137 lists: absent ones, the handler's, and read-only ones, in context 1 outside a handler. -/
theorem witness_SpecialRegisterMoves_refused : let t := thr (labWith 1 id) probeActor
    ([0x07, 0x0B, 0x22, 0x34, 0xFF] : List Nat).all (fun n => decide (n < 0x100) && (specialRegs n).isNone) = true ∧
    (t.inHandler = false ∧ t.ctx ≠ 0) ∧ ([0x00, 0x10, 0x1A, 0x2F] : List Nat).all (fun n => !specialWritable n && decide (n < 0x30)) = true := by decide

/-- Loads and stores of each space and width at the last place that gets through: scratch, global, private. -/
theorem witness_LoadsAndStores_scratch : let s := labWith 0 (fun t => { t with regs := [(6, 4088)] })
    let i := Instr.ld (ops (.pair 14) (.reg 6) (.imm 0) .none) .w64 .x
    let j := Instr.st (ops .none (.reg 6) (.imm 7) (.reg 2)) .u8 .x
    (∃ t v d u ws w, Issues s (issOf i) none probeActor t v d u ∧ Loads .x 8 false 0 probeActor t v u ws w) ∧
    (∃ t v d u ws w, Issues s (issOf j) none probeActor t v d u ∧ Stores .x 1 7 probeActor t v u ws w) :=
  ⟨⟨_, _, _, _, _, _, issues (by decide), .inl ⟨4088, Prod.ext (by decide) rfl, by decide, rfl⟩⟩,
   ⟨_, _, _, _, _, _, issues (by decide), rfl, .inl ⟨4095, _, Prod.ext (by decide) rfl, rfl⟩⟩⟩

theorem witness_LoadsAndStores_global : let i := Instr.ld (ops (.reg 14) (.pair 4) (.imm 0x80) .none) .s16 .g
    let j := Instr.stLong (ops .none (.pair 4) .none (.pair 2)) .w64 .g 0xFFFFFFF8
    (∃ t v d u ws w, Issues lab (issOf i) none probeActor t v d u ∧ Loads .g 2 true (-128) probeActor t v u ws w) ∧
    (∃ t v d u ws w, Issues lab (issOf j) none probeActor t v d u ∧ Stores .g 8 (-8) probeActor t v u ws w) :=
  ⟨⟨_, _, _, _, _, _, issues (by decide), .inr (.inr ⟨0x10001F80, 0x10001F80, _, 0, Prod.ext (by decide) rfl,
      Prod.ext (by decide) (Prod.ext (by decide) rfl), rfl⟩)⟩,
   ⟨_, _, _, _, _, _, issues (by decide), rfl, .inr (.inr ⟨0x10001FF8, 0x10001FF8, _, Prod.ext (by decide) rfl, rfl⟩)⟩⟩

/-- The management processor at the management space. -/
theorem witness_LoadsAndStores_mgmt : let s : State := { lab with grp := { who := some .mp }, threads := [(.mp, { regs := [(5, 0x04800000)], nregs := 64 })] }
    let i := Instr.ldLong (ops (.reg 14) (.pair 4) .none .none) .w32 .g 0x18
    let j := Instr.stLong (ops .none (.pair 4) .none (.reg 2)) .w32 .g 0x18
    (∃ t v d u ws w, Issues s (issOf i) none .mp t v d u ∧ Loads .g 4 false 0x18 .mp t v u ws w) ∧
    (∃ t v d u ws w, Issues s (issOf j) none .mp t v d u ∧ Stores .g 4 0x18 .mp t v u ws w) :=
  ⟨⟨_, _, _, _, _, _, issues (by decide), .inr (.inl ⟨0x18, Prod.ext (by decide) rfl, rfl⟩)⟩,
   ⟨_, _, _, _, _, _, issues (by decide), rfl, .inr (.inl ⟨0x18, _, Prod.ext (by decide) rfl, rfl⟩)⟩⟩

/-- LDT and STT of a scratch tensor of 8-bit codes and of 64-bit elements, and of a global one. -/
theorem witness_LoadsAndStores_tensor : ([(entry 64 0x80000000 3), (entry 64 0x80000000 12), (entry 0x10003000 0 10)] : List (List Word)).all
    (fun e => let s := lab.setPal 0 7 e
      let x := ops (.reg 14) (.run 24 4) .none (.imm 7)
      let y := ops .none (.run 24 4) (.reg 2) (.imm 7)
      let p := { issOf (.ldt x) with x := if palFormat e = 12 then { x with d := Opnd.asPair x.d } else x }
      let q := { issOf (.stt y) with x := if palFormat e = 12 then { y with b := Opnd.asPair y.b } else y }
      let ok (k : Acc) (u : State) (v : Vals) : Bool := match (u.reachPieces probeActor (thr s probeActor) k (isScratchEnt e) (tensorPieces e v.a)).1 with
        | .ok _ => true
        | .error _ => false
      palOk 7 (s.palEntry 0 7) && issuesB s p none probeActor && issuesB s q none probeActor &&
      ok .load (after s p probeActor) (vals s p probeActor) && ok .store (after s q probeActor) (vals s q probeActor) &&
      [Acc.load, .store].all (fun k => (s.limitPieces probeActor (thr s probeActor) k (isScratchEnt e) []).isNone)) = true := by decide

/-- The bounds of the checks of R199: an address one past a multiple, an access that ends at the footprint or one byte past it, the
window and one dword past it, the first die code that names nothing. -/
theorem witness_AccessChecks : (0 < 8 ∧ (65 : Dword).toNat % 8 ≠ 0) ∧
    ((4092 : Dword).toNat % 4 = 0 ∧ (4092 : Dword).toNat + 4 ≤ lab.footprint (crewOf probeActor)) ∧
    ((4096 : Dword).toNat % 1 = 0 ∧ lab.footprint (crewOf probeActor) < (4096 : Dword).toNat + 1) ∧
    ((64 : Dword).toNat % 8 = 0 ∧ (thr lab probeActor).privSize < (64 : Dword).toNat + 8) ∧
    ((0x0600000000000000 : Dword).toNat % 8 = 0 ∧ 6 ≤ (0x0600000000000000 : Dword).toNat / 2 ^ 56 ∧ probeActor ≠ .mp ∧
      lab.parkedOn probeActor 0 0x0600000000000000 = false ∧ lab.ownEarlier probeActor 0x0600000000000000 8 = none ∧
      lab.donePending probeActor 0x0600000000000000 8 = false) := by decide

theorem witness_AtomicOperations : let i := Instr.atom (ops (.reg 14) (.pair 4) (.imm 4) (.reg 3)) .maxS .device
    let j := Instr.atomLong (ops (.reg 14) (.pair 4) .none (.reg 3)) .add .crew 0x100
    (∃ t v d u ws w, Issues lab (issOf i) none probeActor t v d u ∧ Atomics 4 false .device 4 (fun v x => atomSpec .maxS x (v.c.headD 0).toNat) probeActor t v u ws w) ∧
    (∃ t v d u ws w, Issues lab (issOf j) none probeActor t v d u ∧ Atomics 4 true .crew 0x100 (fun v x => atomSpec .add x (v.c.headD 0).toNat) probeActor t v u ws w) :=
  ⟨⟨_, _, _, _, _, _, issues (by decide), by decide, by decide, 0x10002004, 0x10002004, _, 0, _, Prod.ext (by decide) rfl,
      Prod.ext (by decide) (Prod.ext (by decide) rfl), rfl, rfl⟩,
   ⟨_, _, _, _, _, _, issues (by decide), by decide, by decide, 0x10002100, 0x10002100, _, 0, _, Prod.ext (by decide) rfl,
      Prod.ext (by decide) (Prod.ext (by decide) rfl), rfl, rfl⟩⟩

theorem witness_CompareAndSwap : decodesTo ([0x14147E15, 0x00030040], .atomcas (ops (.reg 20) (.pair 10) (.imm 8) (.run 24 2)) false .crew) = true ∧
    decodesTo ([0x14147E16, 0x20030000, 16], .atomcasLong (ops (.pair 20) (.pair 10) .none (.run 24 4)) true .crew 16) = true ∧
    let i := Instr.atomcas (ops (.reg 14) (.pair 4) (.imm 4) (.run 24 2)) false .crew
    let j := Instr.atomcasLong (ops (.pair 14) (.pair 4) .none (.run 24 4)) true .device 0x100
    issuesWith lab probeActor i (fun v => v.c.length == 2) = true ∧ issuesWith lab probeActor j (fun v => v.c.length == 4) = true ∧
    (∃ t v d u ws w, Issues lab (issOf i) none probeActor t v d u ∧ Atomics 4 true .crew 4 (fun _ x => x) probeActor t v u ws w) ∧
    (∃ t v d u ws w, Issues lab (issOf j) none probeActor t v d u ∧ Atomics 8 true .device 0x100 (fun _ x => x) probeActor t v u ws w) :=
  ⟨by decide, by decide, by decide, by decide,
   ⟨_, _, _, _, _, _, issues (by decide), by decide, by decide, 0x10002004, 0x10002004, _, 0, _, Prod.ext (by decide) rfl,
      Prod.ext (by decide) (Prod.ext (by decide) rfl), rfl, rfl⟩,
   ⟨_, _, _, _, _, _, issues (by decide), by decide, by decide, 0x10002100, 0x10002100, _, 0, _, Prod.ext (by decide) rfl,
      Prod.ext (by decide) (Prod.ext (by decide) rfl), rfl, rfl⟩⟩

/-- A drained thread at every scope below SYSTEM (at SYSTEM the policy of the context's function decides), an object that is readable and writable, and bindings that are new, held, and of length 0. -/
theorem witness_FencesAndReleases : let x := ops (.pair 14) (.pair 4) (.imm 8) .none
    let y := ops .none (.pair 4) (.imm 8) (.pair 2)
    ([.crew, .cluster, .die, .device, .tenant] : List Scope).all (fun sc =>
      issuesB lab (issOf (.fence (ops .none .none .none .none) sc)) none probeActor && (lab.strictCause 0 sc).isNone && lab.drained probeActor &&
      issuesB lab (issOf (.acq x sc)) none probeActor && issuesB lab (issOf (.rel y sc)) none probeActor &&
      issuesB lab (issOf (.promo (ops .none (.pair 4) (.imm 8) .none) sc)) none probeActor &&
      issuesB lab (issOf (.promoLong (ops .none (.pair 4) .none .none) sc 8)) none probeActor &&
      issuesB lab (issOf (.acqLong (ops (.pair 14) (.pair 4) .none .none) sc 8)) none probeActor &&
      issuesB lab (issOf (.relLong (ops .none (.pair 4) .none (.pair 2)) sc 8)) none probeActor) = true ∧
    (lab.reach probeActor (thr lab probeActor) .load .g 0x10002008 8).1 = .go 0x10002008 0x10002008 ∧
    (lab.reach probeActor (thr lab probeActor) .store .g 0x10002008 8).1 = .go 0x10002008 0x10002008 ∧
    allIssue lab probeActor [.bind (ops (.pair 20) (.pair 4) (.imm 8) (.reg 2)), .bindLong (ops (.pair 20) (.pair 4) .none (.reg 15)) 8,
      .atomf (ops (.reg 14) (.pair 4) (.imm 4) (.reg 3)) .addF32 .crew, .atomfLong (ops (.reg 14) (.pair 4) .none (.reg 3)) .addF16x2 .device 4] = true ∧
    (0x10002008 : Dword).toNat % 8 = 0 := by decide

/-- A store of the thread to the bound region parks, and REL comes behind it. -/
def boundLab : State := { lab with
  flights := [{ flight (.store .g 0x10012040 4 0) with park := some 9, window := 4 }]
  next := 6
  ctxs := [{ id := 0, bindings := [(0x10002008, 0x10012040, 8)] }] }

theorem witness_FencesAndReleases_behind : let y := ops .none (.pair 4) (.imm 8) (.pair 2)
    ∃ t v d u ea pa u', Issues boundLab (issOf (.rel y .device)) none probeActor t v d u ∧ u.strictCause t.ctx .device = none ∧
      u.reach probeActor t .store .g (memEa .g v.a 8) 8 = (.go ea pa, u') ∧ u'.boundPending probeActor t.ctx (u'.boundTo probeActor t.ctx ea) u'.next = true :=
  ⟨_, _, _, _, 0x10002008, 0x10002008, _, issues (by decide), by decide, Prod.ext (by decide) rfl, by decide⟩

theorem witness_FencesAndReleases_free : let y := ops .none (.pair 4) (.imm 8) (.pair 2)
    ∃ t v d u ea pa u', Issues lab (issOf (.rel y .device)) none probeActor t v d u ∧ u.strictCause t.ctx .device = none ∧
      u.reach probeActor t .store .g (memEa .g v.a 8) 8 = (.go ea pa, u') ∧ u'.boundPending probeActor t.ctx (u'.boundTo probeActor t.ctx ea) u'.next = false :=
  ⟨_, _, _, _, 0x10002008, 0x10002008, _, issues (by decide), by decide, Prod.ext (by decide) rfl, by decide⟩

theorem witness_PrefetchesOnlyAdvance : allIssue lab probeActor [.pref (ops .none (.pair 2) (.imm 1) .none), .prefLong (ops .none (.pair 2) .none .none) 0x7FFFFFFF] = true := by
  decide

/-- An object at a multiple of 8, and one a byte past it. -/
theorem witness_Unbinding : allIssue lab probeActor [.unbind (ops .none (.pair 4) (.imm 8) .none), .unbindLong (ops .none (.pair 4) .none .none) 9] = true ∧
    (memEa .g (vals lab (issOf (.unbind (ops .none (.pair 4) (.imm 8) .none))) probeActor).a 8).toNat % 8 = 0 ∧
    (memEa .g (vals lab (issOf (.unbindLong (ops .none (.pair 4) .none .none) 9)) probeActor).a 9).toNat % 8 ≠ 0 ∧
    -- a second thread of the context, which keeps the binding that goes
    let b : Actor := .thread ⟨1, 0, false, 1⟩
    let s : State := { boundLab with threads := boundLab.threads ++ [(b, thr lab probeActor)] }
    b ≠ probeActor ∧ s.thread? b = some (thr s b) ∧ (thr s b).ctx = 0 ∧ (thr s b).exited = false ∧
    ((0x10002008, 0x10012040, 8) : Dword × Dword × Word) ∈ (s.ctxOf 0).bindings := by decide

/-- The small state with a future word at 0x10002000: empty, or full with value 5. -/
def futureLab (full : Bool) : State := { lab with mem := memWrite lab.mem 0x10002000 8 (if full then 2 ^ 32 + 5 else 0) }

/-- WAITA of a word that meets the condition and of one that does not; FUTR of a full and of an empty future; FUTW. -/
theorem witness_WaitingOnWords : let i := Instr.waita (ops (.reg 14) (.pair 4) (.imm 0) (.reg 2)) false .g
    let j := Instr.waitaLong (ops (.reg 14) (.pair 4) .none (.reg 2)) true .g 0
    let x := Instr.waita (ops (.reg 14) (.reg 6) (.imm 0) (.reg 2)) true .x
    let f := Instr.futr (ops (.reg 14) (.pair 4) (.imm 0) .none) .device
    let g := Instr.futw (ops .none (.pair 4) (.imm 0) (.reg 2)) .device
    allIssue lab probeActor [i, j, x, f, g, .futrLong (ops (.reg 14) (.pair 4) .none .none) .crew 0,
      .futwLong (ops .none (.pair 4) .none (.reg 2)) .crew 0, .waitaLong (ops (.reg 14) (.reg 6) .none (.reg 2)) false .x 0] = true ∧
    (∃ t v d u ea pa y u' u'', Issues lab (issOf i) none probeActor t v d u ∧ u.reach probeActor t .load .g (memEa .g v.a 0) 4 = (.go ea pa, u'') ∧
      u''.gReadHome { u''.portOf probeActor t.ctx .g with task := none } ea pa 4 = (y, false, u') ∧ word y ≠ v.c.headD 0) ∧
    (∃ t v d u ea pa y u' u'', Issues lab (issOf j) none probeActor t v d u ∧ u.reach probeActor t .load .g (memEa .g v.a 0) 4 = (.go ea pa, u'') ∧
      u''.gReadHome { u''.portOf probeActor t.ctx .g with task := none } ea pa 4 = (y, false, u') ∧ ¬ v.c.headD 0 ≤ word y) ∧
    (∃ t v d u o u', Issues lab (issOf x) none probeActor t v d u ∧ u.reach probeActor t .load .x (memEa .x v.a 0) 4 = (.scratch o, u') ∧
      u'.scratchFails 1 o 4 = false ∧
      ¬ v.c.headD 0 ≤ word (u'.scratchRead 1 o 4)) :=
  ⟨by decide,
   ⟨_, _, _, _, 0x10002000, 0x10002000, 0, _, _, issues (by decide), Prod.ext (by decide) rfl, Prod.ext (by decide) (Prod.ext (by decide) rfl), by decide⟩,
   ⟨_, _, _, _, 0x10002000, 0x10002000, 0, _, _, issues (by decide), Prod.ext (by decide) rfl, Prod.ext (by decide) (Prod.ext (by decide) rfl), by decide⟩,
   ⟨_, _, _, _, 64, _, issues (by decide), Prod.ext (by decide) rfl, by decide, by decide⟩⟩

theorem witness_WaitingOnWords_futures : let f := Instr.futr (ops (.reg 14) (.pair 4) (.imm 0) .none) .device
    (∃ t v d u ea pa u' y u'', Issues (futureLab true) (issOf f) none probeActor t v d u ∧ u.strictCause t.ctx .device = none ∧
      futCause (memEa .g v.a 0) .load = none ∧ u.reach probeActor t .load .g (memEa .g v.a 0) 8 = (.go ea pa, u') ∧
      u'.readFuture probeActor (u'.portOf probeActor t.ctx .g) ea pa .device = (some y, false, u'')) ∧
    (∃ t v d u ea pa u' u'', Issues (futureLab false) (issOf f) none probeActor t v d u ∧ u.strictCause t.ctx .device = none ∧
      futCause (memEa .g v.a 0) .load = none ∧ u.reach probeActor t .load .g (memEa .g v.a 0) 8 = (.go ea pa, u') ∧
      u'.readFuture probeActor (u'.portOf probeActor t.ctx .g) ea pa .device = (none, false, u'')) ∧
    (∃ t v d u ea pa u', Issues lab (issOf (.futw (ops .none (.pair 4) (.imm 0) (.reg 2)) .device)) none probeActor t v d u ∧
      u.strictCause t.ctx .device = none ∧ futCause (memEa .g v.a 0) .store = none ∧
      u.reach probeActor t .store .g (memEa .g v.a 0) 8 = (.go ea pa, u')) :=
  ⟨⟨_, _, _, _, 0x10002000, 0x10002000, _, 5, _, issues (by decide), by decide, by decide, Prod.ext (by decide) rfl,
      Prod.ext (by decide) (Prod.ext (by decide) rfl)⟩,
   ⟨_, _, _, _, 0x10002000, 0x10002000, _, _, issues (by decide), by decide, by decide, Prod.ext (by decide) rfl,
      Prod.ext (by decide) (Prod.ext (by decide) rfl)⟩,
   ⟨_, _, _, _, 0x10002000, 0x10002000, _, issues (by decide), by decide, by decide, Prod.ext (by decide) rfl⟩⟩

theorem witness_WaitingOnWords_steps : let s : State := { lab with flights := [flight (.futw 0x10002000 3 .device [(0x10012040, 8)])] }
    let w : State := labWith 0 (fun t => { t with wait := .addr (watch false 0x10002000 0x10002000 (some 3)) })
    let h : State := labWith 0 (fun t => { t with wait := .addr (watch false 0x0400000000002000 0x100000000002000 none) })
    let v : State := { lab with flights := [flight (.value [3])] }
    (∃ x, s.flight? 5 = some x ∧ x.work = .futw 0x10002000 3 .device [(0x10012040, 8)] ∧ x.park = none ∧
      s.boundPending x.owner x.ctx [(0x10012040, 8)] x.id = false ∧ s.placeOf x.ctx 0x10002000 = some 0x10002000) ∧
    (∃ t, w.thread? probeActor = some t ∧ t.wait = .addr (watch false 0x10002000 0x10002000 (some 3))) ∧
    (∃ t k, h.thread? probeActor = some t ∧ t.wait = .addr k ∧ k.scratch = false ∧ k.addr.toNat / 2 ^ 56 = 4 ∧ k.hit = none ∧
      k.met (word (h.homeRead k.pa 4)) = true) ∧
    (∃ f t, v.flight? 5 = some f ∧ f.orphan = false ∧ f.park = none ∧ f.work = .value [3] ∧ v.thread? f.owner = some t) :=
  ⟨⟨_, rfl, rfl, rfl, by decide, by decide⟩, ⟨_, rfl, rfl⟩, ⟨_, _, rfl, rfl, rfl, by decide, rfl, by decide⟩, ⟨_, _, rfl, rfl, rfl, rfl, rfl⟩⟩

/-- FIFO queues of context 0: one of 4-byte entries with an entry, an empty one, one whose spilled entry is due, one being released. -/
def queueLab : State := { labWith 0 (fun t => { t with regs := [(1, 64), (2, 7), (3, 8), (12, 9), (16, 5)] }) with
  queues := [{ id := 7, kind := 1, esize := 0, hostPush := true, hostPop := true, ondie := [{ words := [3], arrival := 0 }], arrivals := 1 },
    { id := 8, kind := 1, esize := 0, waiters := [{ id := 40, q := 8, sender := .actor .mp, ctx := 0, op := .pop 1, flight := some 41 }] },
    { id := 9, kind := 1, esize := 0, spillBase := 0x20000, spillLog := 5, spill := [{ words := [3], arrival := 0, slot := some 0 }] },
    { id := 10, kind := 1, esize := 0, releasing := true }] }

/-- Commands on their way from the thread: a push and a pop to queue 7. -/
def pushCmd : QCmd := { id := 50, q := 7, sender := .actor probeActor, ctx := 0, op := .push [4], flight := some 51 }
def popCmd : QCmd := { id := 50, q := 7, sender := .actor probeActor, ctx := 0, op := .pop 1, flight := some 51 }

/-- The one entry's read for an instruction that the thread waits at. -/
def readCmd : QCmd := { id := 50, q := 7, sender := .actor probeActor, ctx := 0, op := .read 2 1 1 50 }

theorem witness_Queues : let s := queueLab
    let x := ops .none (.reg 2) .none (.run 16 0)
    let y := ops (.run 20 0) (.reg 2) .none .none
    issuesB s (issOf (.push { x with c := sizedRun (s.entryRegs x) x.c } false)) none probeActor = true ∧
    issuesB s (issOf (.pop { y with d := sizedRun (s.entryRegs y) y.d } false)) none probeActor = true ∧ s.queueOk 0 7 = true ∧
    -- QCFG of a new queue 5 by the words 1, 0, ... and of the configured queue 9 by a descriptor of kind 0
    issuesWith (labWith 0 (fun t => { t with regs := [(2, 5), (24, 1)] })) probeActor (.qcfg (ops .none (.reg 2) .none (.run 24 8))) (fun v =>
      let q := descQueue 5 v.c 0
      decide (q.kind ≠ 0) && !(lab.descRefused q v.c) && (lab.queue? 5).isNone && !lab.sentTo probeActor 5) = true ∧
    issuesWith s probeActor (.qcfg (ops .none (.reg 12) .none (.run 24 8))) (fun v =>
      let q := descQueue 9 v.c 0
      decide (q.kind = 0) && !(s.descRefused q v.c) && ((s.queue? 9).map (fun z => !z.releasing)) == some true && !s.sentTo probeActor 9 &&
      !(s.launches.any (fun l => l.pkt.ordered && l.pkt.spawnq == 9 && !l.done))) = true ∧
    issuesWith s probeActor (.qstat (ops (.pair 14) (.reg 2) .none .none)) (fun _ => !s.sentTo probeActor 7 &&
      ((s.queue? 7).map (fun z => z.ctx == 0)) == some true) = true ∧
    (s.queue? 6 = none ∧ ∃ z, s.queue? 7 = some z ∧ z.releasing = false ∧ z.count < 2 ^ 32 ∧ z.ondie.length < 64 ∧ z.kind < 4 ∧ z.esize < 4) :=
  ⟨by decide, by decide, by decide, by decide, by decide, by decide, rfl, _, rfl, rfl, by decide, by decide, by decide, by decide⟩

theorem witness_Queues_steps : let s : State := { queueLab with qcmds := [pushCmd] }
    let u : State := { queueLab with qcmds := [popCmd] }
    let r : State := { queueLab with qcmds := [readCmd], threads := queueLab.threads.map (fun p => (p.1, { p.2 with wait := .command 50 })) }
    (∃ q, s.qcmds.find? (fun x => x.id == 50) = some pushCmd ∧ firstOf s.qcmds pushCmd = true ∧ s.senderHere pushCmd = true ∧
      pushCmd.filled = true ∧ s.pushReady pushCmd = true ∧ [(4 : Word)].length = 2 ^ 0 ∧
      s.queue? 7 = some q ∧ q.esize = 0 ∧ q.releasing = false ∧ s.senderOwns pushCmd q = true ∧ q.room = true ∧ ∀ w ∈ q.waiters, w.op.isPop = true) ∧
    (∃ q e, u.qcmds.find? (fun x => x.id == 50) = some popCmd ∧ firstOf u.qcmds popCmd = true ∧ u.senderHere popCmd = true ∧
      popCmd.filled = true ∧ u.queue? 7 = some q ∧ q.releasing = false ∧ u.senderOwns popCmd q = true ∧ u.sized popCmd q = true ∧ (∀ w ∈ q.waiters, w.op.isPop = false) ∧
      1 ≤ q.count ∧ ((State.qFetch { u with qcmds := [] } 7 1 1).queue? 7).bind (·.heads 1) = some [e]) ∧
    (∃ q e, r.qcmds.find? (fun x => x.id == 50) = some readCmd ∧ firstOf r.qcmds readCmd = true ∧ r.senderHere readCmd = true ∧
      readCmd.filled = true ∧ r.queue? 7 = some q ∧ q.releasing = false ∧ r.senderOwns readCmd q = true ∧ q.esize = 0 ∧ r.readGroup readCmd = [readCmd] ∧ (∀ w ∈ q.waiters, w.op.isPop = false) ∧
      1 ≤ q.count ∧ (State.qFetch { r with qcmds := [] } 7 1 1).awaits probeActor readCmd = true ∧
      ((State.qFetch { r with qcmds := [] } 7 1 1).queue? 7).bind (·.heads 1) = some [e] ∧ e.bad = false) ∧
    (let w := queueLab.qInsert 8 [6]
     ∃ x k e, w.queue? 8 = some x ∧ x.waiters.find? (fun w => w.op.isPop) = some k ∧ k.op = .pop 1 ∧ 1 ≤ x.count ∧
      ((State.qFetch (w.updQueue 8 (fun y => { y with waiters := y.waiters.filter (fun w => w.id != k.id) })) 8 1 1).queue? 8).bind
        (·.heads 1) = some [e]) ∧
    (∃ x, queueLab.queue? 9 = some x ∧ x.refillDue = true) ∧ (∃ x, queueLab.queue? 10 = some x ∧ x.releasing = true) :=
  ⟨⟨_, rfl, by decide, by decide, rfl, by decide, rfl, rfl, rfl, rfl, by decide, by decide, by decide⟩,
   ⟨_, _, rfl, by decide, by decide, rfl, rfl, rfl, by decide, by decide, by decide, by decide, rfl⟩,
   ⟨_, _, rfl, by decide, by decide, rfl, rfl, rfl, by decide, rfl, by decide, by decide, by decide, by decide, rfl, rfl⟩,
   ⟨_, _, _, rfl, rfl, rfl, by decide, rfl⟩, ⟨_, rfl, by decide⟩, ⟨_, rfl, rfl⟩⟩

/-- Reads of two channels by one instruction, whose queues both hold an entry, and of which one is empty; a waiter on the queue of a live
launch's spawns. -/
theorem witness_Queues_together : let other (n : Nat) : QCmd := { readCmd with id := 51, q := n, op := .read 3 1 1 50 }
    let x : BQueue := { id := 12, kind := 1, esize := 0, ondie := [{ words := [5], arrival := 0 }], arrivals := 1 }
    let s (n : Nat) : State := { queueLab with qcmds := [readCmd, other n], queues := queueLab.queues ++ [x] }
    let w : State := { queueLab with
      queues := [{ id := 7, kind := 2, esize := 3, waiters := [popCmd, pushCmd] }]
      launches := lab.launches.map (fun l => { l with pkt := { l.pkt with ordered := true, spawnq := 7 } }) }
    (∀ n ∈ [8, 12], (s n).qcmds.find? (fun k => k.id == 50) = some readCmd ∧ firstOf (s n).qcmds readCmd = true ∧ (s n).senderHere readCmd = true ∧
      readCmd.filled = true ∧ (∃ q, (s n).queue? 7 = some q ∧ q.releasing = false ∧ (s n).senderOwns readCmd q = true ∧ (s n).sized readCmd q = true) ∧
      1 < ((s n).readGroup readCmd).length) ∧
    (∃ u, (s 12).serveAll ((s 12).readGroup readCmd) = some u) ∧ (s 8).serveAll ((s 8).readGroup readCmd) = none ∧
    ∃ x, w.queue? 7 = some x ∧ w.spawnLive 7 = true ∧ x.waiters.head? = some popCmd := by
  refine ⟨?_, ⟨_, rfl⟩, by decide, ⟨_, rfl, by decide, rfl⟩⟩
  intro n hn
  simp only [List.mem_cons, List.not_mem_nil, or_false] at hn
  obtain rfl | rfl := hn <;> exact ⟨rfl, by decide, by decide, rfl, ⟨_, rfl, rfl, by decide, by decide⟩, by decide⟩

/-- A loader squad whose Palette names a global tensor and a scratch tile of 64 codes; registers hold an origin and a job run. -/
def copyLab : State := let s := labWith 0 (fun t => { t with regs := [(2, 0x0810), (28, 8), (31, 2), (32, 8), (35, 2), (36, 0x10002000), (41, 1)] })
  { ((s.setPal 0 7 (entry 0x10003000 0 3)).setPal 0 8 (entry 64 0x80000000 3)) with
    squads := [{ crew := 1, num := 0, shadow := false, role := 1 }] }

theorem witness_CopiesAndBatches : ([(.cpy, .cpy (ops .none (.run 24 4) (.run 28 4) (.imm 7))), (.cpyg, .cpyg (ops .none (.run 40 4) (.run 28 4) (.imm 7))),
      (.cpys, .cpys (ops .none (.run 24 4) (.run 28 4) (.imm 7))), (.cpyc, .cpyc (ops .none (.run 24 4) (.run 32 8) (.imm 7)))]
      : List (JobKind × Instr)).all (fun p => let i := issOf p.2
      let v := vals copyLab i probeActor
      let u := after copyLab i probeActor
      let t := thr copyLab probeActor
      issuesB copyLab i none probeActor && (copyChecks 7 ((v.b.headD 0).toNat % 256) (v.b.headD 0) (v.b.getD 3 0) (u.jobOf p.1 probeActor t 7 v)
        (u.isLoader probeActor) (u.footprint (crewOf probeActor))).isNone && u.slotFree 0 (1, 0, false) &&
      !(u.copyBehind probeActor (u.jobOf p.1 probeActor t 7 v))) = true ∧
    allIssue copyLab probeActor [.cseal (ops .none .none .none .none), .cwait (ops .none .none .none (.imm 0)),
      .chstat (ops (.reg 14) .none .none (.imm 15))] = true ∧ (thr copyLab probeActor).copyFaults = [] ∧
    (copyLab.openBatches (thr copyLab probeActor)).length = 0 := by decide

/-- CHSET of LOCAL, BASIN, EASEL and unset entries. -/
theorem witness_CopiesAndBatches_chset : ([0x15, 0x25, 0x35, 0x05] : List (BitVec 8)).all (fun c =>
      let x := ops .none (if c = 0x15 ∨ c = 0x25 then .reg 2 else .none) .none (.imm c)
      issuesB copyLab (issOf (.chset x)) (chsetCheck (copyId x) false probeActor (thr copyLab probeActor)) probeActor &&
      (match chanDesc 224 (copyId x / 16 % 4) ((vals copyLab (issOf (.chset x)) probeActor).a.headD 0) with
        | .ok _ => true
        | .error _ => false) && !(copyLab.chanUnfilled probeActor 5)) = true ∧
    let y := ops .none .none .none (.imm 0x15)
    issuesB copyLab (issOf (.chsetLong y 0x4010)) (chsetCheck (copyId y) false probeActor (thr copyLab probeActor)) probeActor = true ∧
    (match chanDesc 224 1 0x4010 with
      | .ok k => k == .loc 16 64
      | .error _ => false) = true := by decide

theorem witness_CopiesAndBatches_mxreq : let s := lab.updEngine 0 (fun e => { e with owner := some 0 })
    let p := issOf (.mxreq (ops .none (.run 24 8) .none .none))
    ∃ t v d u, Issues s p none probeActor t v d u ∧ u.mailboxAns probeActor t.ctx = .go ∧ u.writesDone probeActor = true :=
  ⟨_, _, _, _, issues (by decide), rfl, by decide⟩

/-- A job of the crew: a copy of 64 codes, or with an empty tile. -/
def job (k : JobKind) (st : JobSt) (tile : List Word) (us : List Nat) : Job :=
  { id := 60, core := 0, crew := 1, ctx := 0, kind := k, owner := some ⟨1, 0, false, 0⟩, gent := entry 0x10003000 0 3, tile := tile,
    org := [0, 0, 0, 0], n := 1, noact := true, vaddr := 0x10002000, st := st, units := us }

/-- One element of an entry's tensor. -/
def entry1 (e : List Word) : List Word := e.set 2 1

def jobLab (j : Job) : State := { copyLab with jobs := [j] }

theorem witness_CopiesAndBatches_steps : let tile := entry 64 0x80000000 3
    let empty := List.replicate 16 (0 : Word)
    ([.cpy, .cpyg, .cpys, .cpyc] : List JobKind).all (fun k => let j := job k .queued tile []
      ((jobLab j).job? 60 == some j) && (j.st == .queued) && !j.dead && j.park.isNone && j.owner.isSome && !j.emptyBox && (jobLab j).jobClear j &&
      !((jobLab j).scratchFails j.crew j.idxOff (4 * j.n))) = true ∧
    (let j := job .cpyg .queued tile []
     let s : State := { jobLab j with crews := (jobLab j).crews.map (fun c => { c with scratchBad := [j.idxOff + 3] }) }
     s.job? 60 = some j ∧ j.emptyBox = false ∧ s.jobClear j = true ∧ s.scratchFails j.crew j.idxOff (4 * j.n) = true) ∧
    (let j := job .cpy .started (entry1 tile) []
     ∃ k w, (jobLab j).job? 60 = some j ∧ j.st = .started ∧ j.dead = false ∧ j.park = none ∧ k ∉ j.units ∧ k ∈ j.unitKeys ∧
      (jobLab j).moveElems j (j.unitElems k) = (none, w)) ∧
    (let j := job .cpy .started tile [0x100030]
     (jobLab j).job? 60 = some j ∧ j.st = .started ∧ j.dead = false ∧ j.park = none ∧ (jobLab j).actionReady j = true ∧ ∀ k ∈ j.unitKeys, k ∈ j.units) ∧
    (∀ k ∈ [JobKind.cpy, .cpyc], let j := job k .queued empty []
     (jobLab j).job? 60 = some j ∧ j.begun = false ∧ j.owner ≠ none ∧ j.emptyBox = true ∧ (∀ i ∈ (jobLab j).earlierJobs j, i.begun = true) ∧
      (jobLab j).jobClear j = true ∧ (jobLab j).actionReady j = true) ∧
    (let j := { job .cpyc .queued empty [] with vaddr := 0 }
     ∃ i, ((jobLab j).runCpyc j).job? 60 = some i ∧ i.st = .started) :=
  ⟨by decide, by decide, ⟨0x100030, _, by decide, rfl, rfl, rfl, by decide, by decide, Prod.ext (by decide) rfl⟩, by decide, by decide, _, rfl, by decide⟩

theorem witness_CopiesAndBatches_crew : let s : State := { lab with crews := lab.crews.map (fun c => { c with at' := .draining 0 }) }
    let u : State := { lab with crews := lab.crews.map (fun c => { c with armCount := 1 }), launches := lab.launches.map (fun l => { l with pkt := { l.pkt with rolelow := 1 } }) }
    let w : State := { copyLab with crews := copyLab.crews.map (fun c => { c with deadlock := 65536 }) }
    (∃ c, s.crew? 1 = some c ∧ c.at' = .draining 0 ∧ ∀ j ∈ s.jobs, j.crew ≠ 1) ∧
    (∃ c l, u.crew? 1 = some c ∧ u.launch? c.launch = some l ∧ l.pkt.rolelow ≠ 0 ∧ l.pkt.deterministic = false ∧ l.pkt.roletime ≤ c.armCount) ∧
    (∃ c r t, w.crew? 1 = some c ∧ 65536 ≤ c.deadlock ∧ let y := w.updCrew 1 (fun c => { c with deadlock := 0 })
      y.deadlockTaker 1 = some r ∧ y.thread? (.thread r) = some t) :=
  ⟨⟨_, rfl, rfl, by decide⟩, ⟨_, _, rfl, rfl, by decide, rfl, by decide⟩, ⟨_, ⟨1, 0, false, 0⟩, _, rfl, by decide, by decide, rfl⟩⟩

/-- The Easel core of cluster 0, owned by context 0 and running for crew 1: registers hold an origin, a tile's operands and an address; Palette
entries of INT8 codes (7, and in scratch 8) and of FP32 (9). -/
def easelLab : State :=
  let s : State := { lab with
    grp := { lab.grp with who := some (.easel 0), by' := some (.easel 0), members := [.easel 0] }
    threads := (.easel 0, { nregs := 64, launch := some 1, pc := 0x10000000, regs := [(4, 0x10002000), (8, 7), (16, 0x00090707), (20, 32), (21, 1)] }) :: lab.threads }
  let s := ((s.setPal 0 7 (entry 0x10003000 0 3)).setPal 0 8 (entry 64 0x80000000 3)).setPal 0 9 (entry 0x10004000 0 10)
  s.updEngine 0 (fun e => { e with owner := some 0, cur := some 1, started := true })

/-- Whether a step posted by register operands passes its checks. -/
def stepPasses (i : Instr) (mk : Vals → StepOp × Nat × List Word) : Bool :=
  let u := after easelLab (issOf i) (.easel 0)
  let st := u.stepFor 0 0 (mk (vals easelLab (issOf i) (.easel 0)))
  issuesB easelLab (issOf i) none (.easel 0) && (u.engine 0).pending.isNone && decide ((u.engine 0).queue.length < 16) &&
  (stepChecks st (u.palEntry 0) (u.engine 0).epiNext).isNone && (u.stepScratch (u.engine 0).cur (epiScratch st (u.palEntry 0)) (stepBoxes st (u.engine 0).epiNext)).isNone

theorem witness_EaselInstructions_steps : let o : Opnd := .run 24 4
    (stepPasses (.mxla (ops .none o .none (.imm 7))) (fun v => (.mxla, 7, v.a)) &&
    stepPasses (.mxlb (ops .none o .none (.reg 8))) (fun v => (.mxlb, 7, v.a)) && stepPasses (.mxepi (ops .none o .none .none)) (fun v => (.mxepi, 0, v.a)) &&
    stepPasses (.mxtile (ops .none (.run 16 8) .none .none)) (fun v => (.mxtile, 0, v.a)) &&
    stepPasses (.cvld (ops .none o .none (.imm 9))) (fun v => (.cvld, 9, v.a)) && stepPasses (.cvst (ops .none o .none (.imm 9))) (fun v => (.cvst, 9, v.a)) &&
    stepPasses (.cvzero (ops .none .none .none .none)) (fun _ => (.cvzero, 0, [])) &&
    stepPasses (.mxmm (ops .none .none .none (.imm 128))) (fun _ => (.mxmm 128, 0, [])) &&
    stepPasses (.mxmm (ops .none .none .none (.imm 1))) (fun _ => (.mxmm 1, 0, []))) = true := by decide +kernel

theorem witness_EaselInstructions : let s : State := easelLab.updEngine 0 (fun e => { e with mailbox := [⟨1, .thread ⟨1, 1, false, 0⟩, none⟩, ⟨2, probeActor, some [1, 2, 3, 4, 5, 6, 7, 8]⟩] })
    let x := ops .none (.pair 4) (.imm 8) (.reg 8)
    allIssue easelLab (.easel 0) [.palw (ops .none (.run 32 16) .none (.imm 255)), .palr (ops (.run 32 16) .none .none (.reg 8)),
      .mxsync (ops .none .none .none .none), .mbxpop (ops (.run 40 8) .none .none (.pred 3)) true] = true ∧
    issuesWith easelLab (.easel 0) (.palw (ops .none (.run 32 16) .none (.imm 255))) (fun v =>
      (v.a.drop 12).all (· == 0) && decide (entGroup v.a ≤ 3) && (palId (ops .none .none .none (.imm 255)) v != 0)) = true ∧
    (easelLab.engine 0).pending = none ∧ (easelLab.engine 0).queue = [] ∧ popRequest (easelLab.engine 0).mailbox [] = none ∧
    issuesB s (issOf (.mbxpop (ops (.run 40 8) .none .none .none) false)) none (.easel 0) = true ∧
    (∃ r ws l, popRequest (s.engine 0).mailbox [] = some (r, ws, l) ∧ r.id = 2) ∧
    (∃ t v d u ea pa u', Issues easelLab (issOf (.mbxdone x)) none (.easel 0) t v d u ∧ (u.engine 0).pending = none ∧
      u.reach (.easel 0) t .store .g (memEa .g v.a 8) 4 = (.go ea pa, u')) ∧
    (∃ t v d u ea pa u', Issues easelLab (issOf (.mbxdoneLong (ops .none (.pair 4) .none (.reg 8)) 0x40)) none (.easel 0) t v d u ∧ (u.engine 0).pending = none ∧
      u.reach (.easel 0) t .store .g (memEa .g v.a 0x40) 4 = (.go ea pa, u')) :=
  ⟨by decide, by decide, by decide, by decide, by decide, by decide, ⟨_, _, _, rfl, rfl⟩,
   ⟨_, _, _, _, 0x10002008, 0x10002008, _, issues (by decide), by decide, Prod.ext (by decide) rfl⟩,
   ⟨_, _, _, _, 0x10002040, 0x10002040, _, issues (by decide), by decide, Prod.ext (by decide) rfl⟩⟩

/-- A drain to a row of 64 FP32 elements, at a phase: with row scales, and without column scales. -/
def drain (phase : Nat) : Sys2Proof.Machine.Step :=
  { id := 3, op := .cvst, pal := 8, ws := [0, 0, 0, 0], ents := [(8, entry 0x10003000 0 10), (9, entry 0x10004000 0 10)], phase := phase }

theorem witness_EaselInstructions_engine : let z : Sys2Proof.Machine.Step := { id := 3, op := .cvzero }
    let s (st : Sys2Proof.Machine.Step) : State := easelLab.updEngine 0 (fun e => { e with queue := [st], epi := [9, 0, 0, 0] })
    let u : State := easelLab.updEngine 0 (fun e => { e with queue := [z], mbxdones := [⟨2, 5, 0x10002000, 1⟩] })
    ((s z).engine 0).owner = some 0 ∧
    (((s z).engine 0).queue = [z] ∧ (s z).stepWaits 0 z = false ∧ ((z.micro ((s z).engine 0).tilePass).boxes z ((s z).engine 0).epi)[z.phase]? = none) ∧
    (((s (drain 1)).engine 0).queue = [drain 1] ∧ (s (drain 1)).stepWaits 0 (drain 1) = false ∧
      ∃ b, (((drain 1).micro ((s (drain 1)).engine 0).tilePass).boxes (drain 1) ((s (drain 1)).engine 0).epi)[(drain 1).phase]? = some b ∧
        (boxCut b.1 b.2.1).find? (fun x => !(drain 1).units.contains x.2) = none) ∧
    (((s (drain 0)).engine 0).queue = [drain 0] ∧ (s (drain 0)).stepWaits 0 (drain 0) = false ∧
      ∃ b y d w, (((drain 0).micro ((s (drain 0)).engine 0).tilePass).boxes (drain 0) ((s (drain 0)).engine 0).epi)[(drain 0).phase]? = some b ∧
        (boxCut b.1 b.2.1).find? (fun x => !(drain 0).units.contains x.2) = some y ∧ ((s (drain 0)).stepBegins (drain 0)).moveBox 0 0 (drain 0)
          ((drain 0).micro ((s (drain 0)).engine 0).tilePass) b (((boxCut b.1 b.2.1).filter (fun x => x.2 == y.2)).map (·.1)) = (.ok d, w)) ∧
    ((u.engine 0).mbxdones = [⟨2, 5, 0x10002000, 1⟩] ∧ (u.engine 0).owner = some 0 ∧ (∀ st ∈ (u.engine 0).queue, 2 < st.id) ∧
      (∀ f ∈ u.flightsOf (.easel 0), f.id < 5 → f.work.fenced = false) ∧ ∃ pa, u.placeOf 0 0x10002000 = some pa) :=
  ⟨by decide, by decide, ⟨by decide, by decide, _, rfl, by decide⟩, ⟨by decide, by decide, _, ((0, 0x10004000 * 8), 0x100040), _, _, rfl, by decide,
    Prod.ext (by rfl) rfl⟩, by decide, by decide, by decide, by decide, 0x10002000, by decide⟩

/-- The small state with a second region of 64 GiB mapped, so that a block can lie across the two, and a launch that replays. -/
def recordLab (cvbase : Dword) : State :=
  let m := memWrite lab.mem 0x202008 8 0x100000003B
  { lab with
    mem := memWrite m (cvbase.toNat % 2 ^ 36) 4 1
    launches := lab.launches.map (fun l => { l with pkt := { l.pkt with replay := true, choiceC := 1, cvbase := cvbase, raycount := 4, valecount := 2 } }) }

/-- A draw without a block, and one replayed from a block. -/
theorem witness_DrawsTasksAndRays_draw : let x := ops (.reg 14) .none .none (.imm 0)
    let s := recordLab 0xFFFFFFFE0
    let p := issOf (.draw x .u32)
    drawCheck .u64 lab probeActor (thr lab probeActor) = none ∧
    issuesB lab { issOf (.draw (ops (.pair 14) .none .none (.imm 7)) .u64) with logs := lab.usesBlock } none probeActor = true ∧
    (after lab (issOf (.draw x .u32)) probeActor).choice? probeActor (thr lab probeActor) = none ∧
    drawCheck .u32 s probeActor (thr s probeActor) = none ∧ issuesB s { p with logs := s.usesBlock } none probeActor = true ∧
    (match (after s { p with logs := s.usesBlock } probeActor).choice? probeActor (thr s probeActor) with
      | some b => (let u := after s { p with logs := s.usesBlock } probeActor
        let n := u.drawNext probeActor (thr s probeActor) 0
        match u.drawBlock (u.portOf probeActor 0 .g) (u.parkedOn probeActor 0) b 0 n.toNat (u.drawGen (thr s probeActor) 0 n).1 with
        | .word _ _ => true
        | .miss _ _ _ => false)
      | none => false) = true ∧
    allIssue lab probeActor [.drawk (ops (.pair 14) (.pair 4) (.imm 7) (.reg 2)) .u64] = true := by decide

/-- RESULT without a block, with one, and behind an earlier draw of the thread. -/
theorem witness_DrawsTasksAndRays_result : let s := recordLab 0xFFFFFFFBC
    let i := Instr.result (ops .none (.reg 2) .none (.imm 0))
    let p := { issOf i with logs := s.usesBlock }
    let b := (s.choice? probeActor (thr s probeActor)).getD ⟨0, 0, false⟩
    let s' : State := { s with flights := [{ flight (.draw 0 0 .u32 0 0 (some b)) with window := 4 }], next := 6 }
    issuesB lab { issOf i with logs := lab.usesBlock } none probeActor = true ∧ (after lab (issOf i) probeActor).choice? probeActor (thr lab probeActor) = none ∧
    (∃ t v d u y w, Issues s p none probeActor t v d u ∧ u.choice? probeActor t = some b ∧ u.blockBefore probeActor u.next = false ∧
      u.resultBlock (u.portOf probeActor t.ctx .g) (u.parkedOn probeActor t.ctx) b 0 (v.a.headD 0) = .word y w) ∧
    (∃ t v d u y w, Issues s' { issOf i with logs := s'.usesBlock } none probeActor t v d u ∧ u.choice? probeActor t = some b ∧
      u.blockBefore probeActor u.next = true ∧
      u.resultBlock (u.portOf probeActor t.ctx .g) (u.parkedOn probeActor t.ctx) b 0 (v.a.headD 0) = .word y w) ∧
    ∃ e ep u1 m mp u2 y u3, s.blockReach 0 (s.parkedOn probeActor 0) .store (b.res 0) 4 = (.go e ep, u1) ∧
      u1.blockReach 0 (s.parkedOn probeActor 0) .atomic b.mask 4 = (.go m mp, u2) ∧
      u2.gReadHome (s.portOf probeActor 0 .g) m mp 4 = (y, false, u3) := by
  refine ⟨by decide, by decide, ⟨_, _, _, _, _, _, issues (by decide), by decide, by decide, by rfl⟩,
    ⟨_, _, _, _, _, _, issues (by decide), by decide, by decide, by rfl⟩, ?_⟩
  exact ⟨0xFFFFFFFFC, 0xFFFFFFFFC, _, 0x100000000C, 0x100000000C, _, 0, _, Prod.ext (by decide) rfl, Prod.ext (by decide) rfl, Prod.ext (by decide) (Prod.ext (by decide) rfl)⟩

theorem witness_DrawsTasksAndRays_retire : let s : State := { lab with flights := [flight (.draw 0 7 .u32 1 2 none)] }
    ∃ f t, s.flight? 5 = some f ∧ f.orphan = false ∧ f.park = none ∧ f.work = .draw 0 7 .u32 1 2 none ∧ s.drawBefore f 0 = false ∧
      s.thread? f.owner = some t := ⟨_, _, rfl, rfl, rfl, rfl, by decide, rfl⟩

/-- A task of launch 1 that runs as crew 1: its timestamp, spawns made and depth. -/
def taskLab (ts calls depth : Nat) : State := { lab with
  launches := lab.launches.map (fun l => { l with pkt := { l.pkt with ordered := true } })
  crews := lab.crews.map (fun c => { c with task := some (ts * 2 ^ 64) })
  tasks := [{ launch := 1, key := ts * 2 ^ 64, depth := depth, st := .running, root := some 0, calls := calls, crew := some 1 }] }

/-- The last spawn a task may make, and the limits: no task, 255 spawns, depth 7, a timestamp below the own. -/
theorem witness_SpawnLimits : let i := Instr.spawn (ops .none (.pair 2) (.pair 4) (.imm 32))
    let at' (s : State) : Bool := issuesB s (issOf i) none probeActor
    let task (s : State) (f : Task → Bool) : Bool := ((after s (issOf i) probeActor).taskOf probeActor).any f
    at' lab = true ∧ (after lab (issOf i) probeActor).taskOf probeActor = none ∧
    (at' (taskLab 7 255 0) && task (taskLab 7 255 0) (fun k => k.calls == 255)) = true ∧
    (at' (taskLab 7 254 7) && task (taskLab 7 254 7) (fun k => k.calls != 255 && k.depth == 7)) = true ∧
    (at' (taskLab (2 ^ 63) 254 6) && task (taskLab (2 ^ 63) 254 6) (fun k => k.calls != 255 && k.depth != 7 &&
      decide ((dw ((vals lab (issOf i) probeActor).a.headD 0) ((vals lab (issOf i) probeActor).a.getD 1 0)).toNat < keyTs k.key))) = false ∧
    (at' (taskLab (2 ^ 64 - 1) 254 6) && task (taskLab (2 ^ 64 - 1) 254 6) (fun k => k.calls != 255 && k.depth != 7 &&
      decide ((dw ((vals lab (issOf i) probeActor).a.headD 0) ((vals lab (issOf i) probeActor).a.getD 1 0)).toNat < keyTs k.key))) = true := by decide

theorem witness_DrawsTasksAndRays_spawn : let i := Instr.spawn (ops .none (.pair 2) (.pair 4) (.imm 32))
    let s := taskLab 7 254 6
    (issuesB s (issOf i) none probeActor && !((after s (issOf i) probeActor).domainFull 1) &&
      ((after s (issOf i) probeActor).taskOf probeActor).any (fun k => k.calls != 255 && k.depth != 7 && k.launch == 1 &&
        decide (keyTs k.key ≤ (dw ((vals s (issOf i) probeActor).a.headD 0) ((vals s (issOf i) probeActor).a.getD 1 0)).toNat))) = true := by decide

/-- A descriptor across the two regions: no edit, the own thread, every address 0. -/
theorem witness_DrawsTasksAndRays_mutl : let s0 := recordLab 0xFFFFFFF00
    let s : State := { s0 with threads := s0.threads.map (fun p => (p.1, { p.2 with regs := [(4, 0xFFFFFFC0), (5, 15)] })), mem := memWrite lab.mem 0x202008 8 0x100000003B }
    let p := { issOf (.mutl (ops .none (.pair 4) .none .none)) with logs := true }
    let t := thr s probeActor
    let v := vals s p probeActor
    let u := after s p probeActor
    (issuesB s p none probeActor && u.drained probeActor && (dw (v.a.headD 0) (v.a.getD 1 0) == 0xFFFFFFFC0) &&
      (match (u.wbWhere (fun l => l.core == u.coreOf probeActor && l.ctx == t.ctx)).descLine probeActor t 0xFFFFFFFC0 with
        | (.ok w0, u1) => (match u1.descLine probeActor t 0x1000000000 with
          | (.ok w1, u2) => (dAt (w0 ++ w1) 4 % 64 == 0) && (dAt (w0 ++ w1) 6 % 16 == 0) && (dAt (w0 ++ w1) 8 % 4 == 0) &&
            !(descInvalid (u2.pktOf t) (w0 ++ w1))
          | _ => false)
        | _ => false)) = true := by decide +kernel

/-- A ray pool of 4, a table of 2 vales in the second region whose second names queue 7, and a record that can be queued. -/
def rayLab : State := let s0 := recordLab 0
  { s0 with
    mem := memWrite (memWrite lab.mem 0x202008 8 0x100000003B) 0x1000000050 4 7
    launches := s0.launches.map (fun l => { l with pkt := { l.pkt with raypool := 0x10003000, valetab := 0x1000000000 } })
    threads := s0.threads.map (fun p => (p.1, { p.2 with regs := [(2, 3), (3, 1)] }))
    queues := [{ id := 7, kind := 1, esize := 0 }] }

/-- The last handle of the pool at the last vale of the table. -/
theorem witness_DrawsTasksAndRays_trace : let P := { issOf (.trace (ops .none (.reg 2) (.reg 3) .none)) with logs := true }
    ∃ t v d u pa r u1 e pe u2 px u3, Issues rayLab P none probeActor t v d u ∧ (u.pktOf t).raycount ≠ 0 ∧ (v.a.headD 0).toNat < (u.pktOf t).raycount ∧
      (v.b.headD 0).toNat < (u.pktOf t).valecount ∧ u.drained probeActor = true ∧
      (u.wbWhere (fun l => l.core == u.coreOf probeActor && l.ctx == t.ctx)).lineHome probeActor t.ctx .load
        (dword ((u.pktOf t).rayAt (v.a.headD 0).toNat)) = (.ok (pa, r), u1) ∧
      u1.lineHome probeActor t.ctx .load (dword ((u.pktOf t).valeAt (v.b.headD 0).toNat)) = (.ok (pe, e), u2) ∧ u2.valeQueueOk t.ctx e = true ∧
      u2.translate t.ctx .store (dword ((u.pktOf t).rayAt (v.a.headD 0).toNat)) = (.ok px, u3) ∧ recordReason r = none :=
  ⟨_, _, _, _, 0x100030C0, List.replicate 16 0, _, [0, 0, 0, 0, 7, 0, 0, 0, 0, 0, 0, 0, 0, 0, 0, 0], 0x1000000040, _, 0x100030C0, _, issues (by decide), by decide, by decide, by decide, by decide,
    Prod.ext (by rfl) rfl, Prod.ext (by rfl) rfl, by decide,
    Prod.ext (by rfl) rfl, by decide⟩

/-- A queued task, a finished frontier task, and a deferred thread of the frontier task. -/
theorem witness_TaskRelaunchAndRaySteps_tasks : let l := (lab.launches.map (fun l => { l with pkt := { l.pkt with ordered := true } }))
    let task : Task := { launch := 1, key := 7 * 2 ^ 64, depth := 0, st := .queued, root := some 0 }
    let s : State := { lab with launches := l, crews := [], threads := [], squads := [], tasks := [task] }
    let u : State := { s with tasks := [{ task with st := .finished }] }
    let w : State := { taskLab 7 0 0 with threads := (taskLab 7 0 0).threads.map (fun p => (p.1, { p.2 with wait := .deferred })) }
    (∃ l, s.launch? 1 = some l ∧ s.lowestQueued 1 = some task ∧ s.mayPlace (taskCrew l task) 0 = true) ∧
    (∃ t, u.tasks.find? (fun t => t.launch == 1 && u.frontier 1 == some t.key) = some t ∧ t.st = .finished ∧
      (∀ f ∈ u.flights, f.orphan = true → f.launch ≠ some 1) ∧ ∀ j ∈ u.jobs, j.task = some (1, t.key) → j.finished = true) ∧
    (∃ t, w.thread? probeActor = some t ∧ t.wait = .deferred ∧ w.resident probeActor = true ∧ (w.taskOf probeActor).isSome = true ∧
      w.speculative probeActor = false) :=
  ⟨⟨_, rfl, rfl, by decide⟩, ⟨_, rfl, rfl, by decide, by decide⟩, ⟨_, rfl, rfl, by decide, by decide, by decide⟩⟩

theorem witness_TaskRelaunchAndRaySteps_relaunch : let r : Relaunch := { id := 20, launch := 1, ctx := 0, desc := List.replicate 32 0 }
    let l := lab.launches.map (fun l => { l with pkt := { l.pkt with replay := true, choiceC := 1 } })
    let s : State := { lab with launches := l, crews := [], threads := [], squads := [], relaunches := [r] }
    let u : State := { s with relaunches := [{ r with crew := some 30 }] }
    (∃ l, s.relaunches.find? (fun x => x.id == 20) = some r ∧ s.launch? r.launch = some l ∧ r.crew = none ∧ r.park = none ∧ r.invalid = none ∧ r.fault = none ∧
      s.firstRelaunch r = true ∧ s.targetGone r l.pkt = true) ∧
    (∃ x l, u.relaunches.find? (fun x => x.id == 20) = some x ∧ u.launch? x.launch = some l ∧ x.park = none ∧ u.relaunchRan x = true) :=
  ⟨⟨_, rfl, rfl, rfl, rfl, rfl, rfl, by decide, by decide⟩, ⟨_, _, rfl, rfl, rfl, by decide⟩⟩

/-- A vale whose queue on die 3 holds a handle, and a handle kept for queue 7. -/
theorem witness_TaskRelaunchAndRaySteps_rays : let ray : Ray := { launch := 1, handle := 3, vale := 1, q := 7, kept := some 2 }
    let q : BQueue := { id := 8192 * 3 + 7, kind := 1, esize := 0, ondie := [{ words := [3], arrival := 0, seq := 4 }] }
    let s : State := { (rayLab.setMg (coreBlock 319) 3) with
      mem := memWrite (memWrite lab.mem 0x202008 8 0x100000003B) 0x1000000050 4 (8192 * 3 + 7), queues := [q], rays := [{ ray with q := q.id, kept := none }] }
    let u : State := { rayLab with rays := [ray] }
    (319 < 320 ∧ (s.mg (coreBlock 319)).getLsbD 1 = true ∧ ∃ l, chooseVale (s.eligible (dieOfCore 319)) = some ⟨1, 1, 8192 * 3 + 7, 1, 4, false⟩ ∧ s.launch? 1 = some l) ∧
    (∃ r x, u.rays[0]? = some r ∧ r.kept = some 2 ∧ u.queue? r.q = some x ∧ x.room = true ∧ (∀ y ∈ x.waiters, y.op.isPop = true) ∧
      ∀ y ∈ u.rays, y.q = r.q → ∀ j, y.kept = some j → 2 ≤ j) :=
  ⟨⟨by decide, by decide, _, by decide, rfl⟩, ⟨_, _, rfl, rfl, rfl, by decide, by decide, by
    intro y hy _ j hj
    simp only [List.mem_singleton] at hy
    subst hy
    simp at hj
    omega⟩⟩

theorem witness_ValeChoice : let a : Eligible := ⟨1, 0, 7, 3, 9, false⟩
    let b : Eligible := ⟨1, 1, 8, 3, 4, false⟩
    let c : Eligible := ⟨1, 2, 9, 1, 5, true⟩
    ([a, b] ≠ [] ∧ chooseVale [a, b] = some b ∧ (∀ x ∈ [a, b], x.aged = false)) ∧ (chooseVale [a, b, c] = some b ∧ ∃ x ∈ [a, b, c], x.aged = true) := by
  decide

/-- A thread in its handler, and the operand shapes of the handler's instructions. -/
theorem witness_HandlerInstructions : let s := labWith 1 (fun t => { t with inHandler := true })
    allIssue s probeActor [.hinsp (ops (.reg 14) .none .none (.imm 47)), .hpoke (ops .none (.reg 2) .none (.imm 47)),
      .hpoke (ops .none (.reg 2) .none (.imm 3)), .hresume (ops .none .none .none (.imm 1)), .hret (ops .none .none .none .none)] = true ∧
    allIssue lab probeActor [.replay (ops .none (.pair 4) (.reg 1) (.imm 0)), .replay (ops .none (.pair 4) (.reg 1) (.imm 2)),
      .replay (ops .none (.reg 4) .none (.imm 1)), .replay (ops .none (.reg 4) .none (.imm 3)), .tlbinv (ops .none (.pair 4) (.reg 1) (.imm 0)),
      .tlbinv (ops .none .none (.reg 1) (.imm 1)), .tlbinv (ops .none .none .none (.imm 2))] = true ∧ (∀ k < 3, (after lab (issOf (.tlbinv (ops .none .none .none (.imm 2)))) probeActor).staleAccess (invDrops k 1 0x10002000) = false) ∧ trapListed 47 = true ∧ trapWritable 47 = true ∧ trapWritable 3 = true ∧ trapListed 15 = false := by
  decide

theorem witness_HandlerReturns : let s := labWith 1 (fun t => { t with inHandler := true, trap := { t.trap with dests := [.reg 14], res0 := 5 } })
    let x := ops .none .none .none (.imm 0)
    let y := ops .none .none .none .none
    (∃ t v d u t', Issues s (issOf (.hresume x)) none probeActor t v d u ∧ u.thread? probeActor = some t ∧ u.thread? probeActor = some t') ∧
    ∃ t v d u, Issues s (issOf (.hret y)) none probeActor t v d u ∧ u.thread? probeActor = some t ∧ t.trap.fetch = false ∧ t.trap.dests = [.reg 14] ∧
      14 < t.nregs :=
  ⟨⟨_, _, _, _, _, issues (by decide), rfl, rfl⟩, ⟨_, _, _, _, issues (by decide), rfl, rfl, rfl, by decide⟩⟩

/-- Events of the trap system: a pending cause, a handler past its limit, a stepped instruction, a soft error. -/
theorem witness_HandlerInstructions_events : let r : TRef := ⟨1, 0, false, 0⟩
    let s1 := labWith 0 (fun t => { t with pending := some ({ code := 0x40 }, {}) })
    let s2 := labWith 0 (fun t => { t with inHandler := true, handlerCycles := 2 })
    let s2 : State := { s2 with mem := memWrite s2.mem 0x10002C 4 1 }
    let s3 := labWith 0 (fun t => { t with stepping := 2 })
    (∃ t c q, s1.thread? (.thread r) = some t ∧ t.pending = some (c, q) ∧ s1.resident (.thread r) = true ∧ s1.settled (.thread r) = true ∧ t.exited = false) ∧
    (∃ t, s2.thread? (.thread r) = some t ∧ t.inHandler = true ∧ t.exited = false ∧ s2.resident (.thread r) = true ∧
      s2.ctxField t.ctx 44 4 ≠ 0 ∧ s2.ctxField t.ctx 44 4 < t.handlerCycles) ∧
    (∃ t, s3.thread? (.thread r) = some t ∧ s3.stepWhole (.thread r) t = true) ∧
    ∃ t, lab.thread? (.thread r) = some t ∧ t.exited = false ∧ lab.resident (.thread r) = true ∧ 223 < t.nregs ∧ t.region = none :=
  ⟨⟨_, _, _, rfl, rfl, by decide, by decide, rfl⟩, ⟨_, rfl, rfl, rfl, by decide, by decide, by decide⟩, ⟨_, rfl, by decide⟩, ⟨_, rfl, rfl, by decide, by decide, rfl⟩⟩

/-- A replayed item, a record for queue 0, and a page of 64 KiB in stack 2 with a free frame in stack 1. -/
theorem witness_HandlerInstructions_memory : let i : Item := ⟨3, 0, .page 0 0, .relaunch 1, .proceed, 0, 0⟩
    let r : FaultRec := ⟨0, List.replicate 8 0⟩
    let s : State := { lab with items := [i], records := [r], queues := [{ id := 0, kind := 1, esize := 3 }] }
    let m := memWrite (memWrite (memWrite lab.mem 0x202010 8 0x204001) 0x204000 8 0x206001) 0x206000 8 0x200030003B
    let x : BQueue := { id := 5, kind := 1, esize := 1, ondie := [{ words := [0, 0x10], arrival := 0 }] }
    let u : State := { lab.setMg 0x028 0x10005 with mem := m, queues := [x] }
    (s.item? 3 = some i ∧ s.itemFree i = true ∧ ∀ j ∈ s.items, j.id < 3 → j.key = i.key → j.table = i.table → j.st = i.st → s.itemFree j = false) ∧
    (∃ x, s.records[0]? = some r ∧ s.queue? (s.ctxField r.ctx 40 2) = some x ∧ x.kind = 1 ∧ x.esize = 3 ∧ x.ctx = r.ctx ∧ x.releasing = false ∧ x.room = true) ∧
    (u.walkCtx 0 0x2000000000 = .leaf 0 0x200030003B ∧ (0x200030003B : Nat).testBit 7 = false ∧ pteAddr 0x200030003B < 2 ^ 39 ∧ pteAddr 0x200030003B / 2 ^ 36 ≠ 1 ∧
      u.freeFrame 1 = some (5, 0x1000000000) ∧ leafAt u.mem 3 (u.root 0 0) 0x2000000000 = some 0x206000 ∧ u.aliased 0x2000300000 0x206000 = false) :=
  ⟨by decide, ⟨_, rfl, rfl, by decide, by decide, by decide, by decide, by decide⟩, by decide⟩
theorem witness_PrivilegeAtDecode : let s := labWith 1 id
    (∃ t, s.grp.who = some probeActor ∧ s.thread? probeActor = some t ∧ s.canIssue probeActor t = true ∧ isVector probeActor = true ∧
      t.inHandler = false ∧ t.ctx ≠ 0) ∧
    (0x30 ≤ regNumber (ops (.reg 14) .none .none (.imm 0x33)) ∧ regNumber (ops (.reg 14) .none .none (.imm 0x33)) ≤ 0x33) ∧
    wrongEngine probeActor (issOf (.mxsync (ops .none .none .none .none))) = true ∧
    (∃ t, lab.grp.who = some probeActor ∧ lab.thread? probeActor = some t ∧ lab.canIssue probeActor t = true ∧ t.inHandler = false) ∧
    (let h := labWith 1 (fun t => { t with inHandler := true })
     ∃ t, h.grp.who = some probeActor ∧ h.thread? probeActor = some t ∧ h.canIssue probeActor t = true ∧ t.ctx ≠ 0 ∧
      wrongEngine probeActor (issOf (.tlbinv (ops .none .none .none (.imm 2)))) = false ∧
      privileged probeActor t (issOf (.tlbinv (ops .none .none .none (.imm 2)))).priv = true) :=
  ⟨⟨_, rfl, rfl, by decide, rfl, rfl, by decide⟩, by decide, by decide, ⟨_, rfl, rfl, by decide, rfl⟩,
   ⟨_, rfl, rfl, by decide, by decide, by decide, by decide⟩⟩

/-- A register past the thread's count in an instruction without checks of its own, in one with them, and in LDT, STT, PUSH and POP with the run
that their tensor or queue gives them: of 63 registers. -/
theorem witness_PrivilegeAtDecode_checks : let t : Thread := { thr queueLab probeActor with nregs := 63 }
    let i := Instr.iadd (ops (.reg 63) (.reg 1) (.reg 2) .none) .s32 false
    let j := Instr.movsw (ops .none (.reg 63) .none (.imm 0x11))
    let p := ops .none (.reg 2) .none (.run 63 0)
    let q := ops (.run 63 0) (.reg 2) .none .none
    let m := ops .none (.run 24 4) (.reg 62) (.imm 9)
    let l := ops (.reg 62) (.run 24 4) .none (.imm 9)
    let s := lab.setPal 0 9 (entry 0x10004000 0 12)
    (i.args.isSome && j.args.isSome) = true ∧
    i.op ∉ [0x1E, 0x1F, 0x33, 0x34, 0x62, 0x63, 0x64, 0x82, 0x83, 0x91, 0x92, 0xA6, 0xE0, 0xE6, 0xE7] ∧ j.op ∉ [0x1E, 0x82, 0x83, 0x91, 0x92] ∧
    (decodeCheck probeActor t (issOf i) none).isSome = true ∧ (decodeCheck probeActor t (issOf j) none).isSome = true ∧
    (decodeCheck probeActor t (issOf (.push { p with c := sizedRun (queueLab.entryRegs p) p.c } false)) none).isSome = true ∧
    (decodeCheck probeActor t (issOf (.pop { q with d := sizedRun (queueLab.entryRegs q) q.d } false)) none).isSome = true ∧
    (s.fp64Tensor m = true ∧ (decodeCheck probeActor t
      { issOf (.stt m) with x := if s.fp64Tensor m then { m with b := Opnd.asPair m.b } else m } none).isSome = true) ∧
    (s.fp64Tensor l = true ∧ l.d.isChan = false ∧ (decodeCheck probeActor t
      { issOf (.ldt l) with x := if s.fp64Tensor l then { l with d := Opnd.asPair l.d } else l } none).isSome = true) := by decide


/-- Before and after 64 cycles. -/
theorem witness_PickerSteps : let s := labWith 0 (fun t => { t with yielded := some (5, []) })
    let at' (n : Nat) : State := { s with cycles := [(.core 0, n)] }
    Issuer.exists' (.core 319) = true ∧ lab.grp.rest = [] ∧
    (∀ n ∈ [68, 69], ∃ t, (at' n).thread? probeActor = some t ∧ t.yielded = some (5, [])) ∧
    5 + 64 ≤ (at' 69).cycle ((at' 69).issuerOf probeActor) ∧ (at' 68).cycle ((at' 68).issuerOf probeActor) < 5 + 64 ∧
    chooseGroup true [(probeActor, thr lab probeActor)] = [probeActor] ∧ chooseGroup false [(probeActor, thr s probeActor)] = [probeActor] ∧
    -- a formed meeting of two lanes and a lone thread at another program counter
    (let f := formedLab 0 (.sqbar (ops .none .none .none (.imm 5))) [0, 2]
     let m (n : Nat) : Actor × Thread := let a := .thread ⟨1, 0, false, n⟩; (a, thr f a)
     let o : Actor × Thread := (.thread ⟨1, 0, false, 1⟩, { thr lab probeActor with pc := 0x10000040 })
     unitsOf [m 0, o, m 2] [] = [[m 0, m 2], [o]] ∧ sameMeeting (m 0) (m 2) = true ∧ ((m 0).2.met.isSome ∧ o.2.met = none) ∧
     chooseGroup true [o, m 0, m 2] = [(m 0).1, (m 2).1] ∧ chooseGroup false [o, m 0, m 2] = [o.1]) := by
  refine ⟨by decide, by decide, ?_, by decide, by decide, by decide, by decide, by decide⟩
  intro n hn
  simp only [List.mem_cons, List.not_mem_nil, or_false] at hn
  obtain rfl | rfl := hn <;> exact ⟨_, rfl, rfl⟩

/-- The small state with its crew elsewhere. -/
def crewLab (r : Residence) : State := { lab with crews := lab.crews.map (fun c => { c with at' := r }) }

theorem witness_CrewSteps_dispatch : let x : Accept := { id := 9, ctx := 0, words := List.replicate 8 0 }
    let s : State := { lab with accepts := [x] }
    let q : BQueue := { id := 5, kind := 2, esize := 3, ondie := [{ words := List.replicate 8 0, arrival := 0 }] }
    let u : State := { ((lab.setMg 0x17F8 5).setMg 0x17FC 1) with queues := [q] }
    let w : State := { lab with crews := [] }
    (s.plat.stopped = false ∧ s.accepts.find? (fun y => y.ctx == 0) = some x ∧ x.park = none) ∧
    (u.accepts = [] ∧ u.nextQueue 0 = some (255, q) ∧ ∃ e, q.next? = some e ∧ e.bad = false) ∧
    ∃ l, w.launch? 1 = some l ∧ w.launchOver l = true :=
  ⟨by decide, ⟨rfl, by decide, _, rfl, rfl⟩, _, rfl, by decide⟩

theorem witness_CrewSteps_place : let s := crewLab (.ready 0)
    let u : State := { (crewLab (.ready 1)) with launches := lab.launches.map (fun l => { l with pkt := { l.pkt with deterministic := true } }) }
    let v := crewLab (.saved 0)
    let g : SavedEngine := { ctx := 0, engine := {}, easel := none, crews := [1], num := 80 }
    let w : State := { v with savedEngines := [g], launches := lab.launches.map (fun l => { l with pkt := { l.pkt with eentry := 0x10000000 } }) }
    (∃ c, s.crew? 1 = some c ∧ c.at' = .ready 0 ∧ s.mayPlace c 79 = true) ∧
    (∃ c, u.oldestReady 1 = some c ∧ (∀ x ∈ u.crews, x.at'.die? ≠ some 0) ∧ u.fitsDie c 0 = true ∧ (u.crewPkt c).deterministic = true ∧
      u.allRetired 0 = true ∧ u.victimOf 0 = some 1) ∧
    (∃ c, v.crew? 1 = some c ∧ c.at' = .saved 0 ∧ v.mayPlace c 79 = true ∧ v.savedWith c = none) ∧
    (∃ c x, w.crew? 1 = some c ∧ c.at' = .saved 0 ∧ w.mayPlace c 79 = true ∧ w.savedWith c = some g ∧
      (w.restoreOn 1 79).restoreGroup (clusterOfCore 79) (g.crews.filter (fun m => m != 1)) = some x) ∧
    ∃ c, lab.crew? 1 = some c ∧ c.at' = .on 0 :=
  ⟨⟨_, rfl, rfl, by decide⟩, ⟨_, rfl, by decide, by decide, by decide, by decide, by decide⟩, ⟨_, rfl, rfl, by decide, by decide⟩,
   ⟨_, _, rfl, rfl, by decide, by rfl, by rfl⟩, ⟨_, rfl, rfl⟩⟩

/-- A context with a crew on core 0 and one with none; a core with little, and one with much scratchpad in use, and one enabled. -/
theorem witness_CrewSteps_traversal : let p : State := { lab with plat := { lab.plat with verified := true } }
    let big : State := { p with crews := p.crews.map (fun c => { c with scratchSize := 131080 }) }
    let on : State := p.setMg (coreBlock 319) 2
    (∃ c, lab.residentOf 0 = [(c, 0)]) ∧ (lab.residentOf 1 = [] ∧ lab.jobsBusy 1 = false) ∧
    ((p.mg (coreBlock 0)).getLsbD 1 = false ∧ ((p.setMg (coreBlock 0) 1).setEnabling 0 true).scratchUsed 0 ≤ 131072) ∧ (on.mg (coreBlock 319)).getLsbD 1 = true ∧
    (big.mg (coreBlock 0)).getLsbD 1 = false ∧ 131072 < ((big.setMg (coreBlock 0) 1).setEnabling 0 true).scratchUsed 0 ∧
    (∃ c, sortBy (fun a b => decide (b.placed ≤ a.placed)) (((big.setMg (coreBlock 0) 1).setEnabling 0 true).crewsOn 0) = [c]) ∧
    0 ∉ p.plat.enabling ∧ p.plat.verified = true ∧
    -- an enabling under way, TRAVEN written 0 meanwhile and not
    (∀ v ∈ [(0 : Word), 1], let m (s : State) : State := (s.setEnabling 0 true).setMg (coreBlock 0) v
      0 ∈ (m p).plat.enabling ∧ ((m p).mg (coreBlock 0)).getLsbD 1 = false ∧ ((m p).setEnabling 0 true).scratchUsed 0 ≤ 131072 ∧
      131072 < ((m big).setEnabling 0 true).scratchUsed 0 ∧
      ∃ c, sortBy (fun a b => decide (b.placed ≤ a.placed)) (((m big).setEnabling 0 true).crewsOn 0) = [c]) := by
  refine ⟨⟨_, rfl⟩, ⟨rfl, by decide⟩, by decide, by decide, by decide, by decide, ⟨_, rfl⟩, by decide, rfl, ?_⟩
  intro v hv
  simp only [List.mem_cons, List.not_mem_nil, or_false] at hv
  obtain rfl | rfl := hv <;> exact ⟨by decide, by decide, by decide, by decide, ⟨_, rfl⟩⟩

/-- Whatever the free number, one clause applies to a context without crews on the device, and one to a context that is away. -/
theorem witness_CrewSteps_depart : let away : State := { lab with ctxs := [{ id := 1, away := true }] }
    (lab.residentOf 1 = [] ∧ lab.jobsBusy 1 = false ∧ (lab.ctxOf 1).away = false) ∧
    (away.residentOf 1 = [] ∧ away.jobsBusy 1 = false ∧ (away.ctxOf 1).away = true) ∧
    ∃ n u, away.freeNat = (n, u) ∧ (n % 3 = 0 ∨ n % 3 = 2 ∨ n % 3 = 1) :=
  ⟨by decide, by decide, _, _, rfl, by omega⟩

/-- A new thread of a compute squad and of a shadow one, in a state that holds it; a seat with a lane born exited. -/
theorem witness_NewThreads : let c : Crew := (lab.crew? 1).getD default
    let p : Packet := { regs := 2, privSize := 64, kentry := 0x10000000, sentry := 0x10000040 }
    let s (sh : Bool) : State := { lab with threads := [(.thread ⟨1, 0, sh, 3⟩, newThread c p 3 3 3 0 sh [])] }
    let x : Seat := ⟨1, true, 1, fun l => if l = 31 then none else some (32 + l)⟩
    (∀ sh ∈ [false, true], (s sh).thread? (.thread ⟨1, 0, sh, 3⟩) = some (newThread c p 3 3 3 0 sh [])) ∧
    ((⟨1, 0, true, 3⟩ : TRef).shadow = true → (1 : Nat) ≠ 0) ∧ (1 < p.regs ∧ ¬ 1 < (({ regs := 1 } : Packet)).regs) ∧
    (x.shadow = true ∧ 30 < 32 ∧ x.wid 30 = some 62 ∧ x.wid 31 = none) := by decide

/-- A crew with an Easel entry at a free engine; a stream to start with a window that fits and with none, and one that runs. -/
theorem witness_NewThreads_easel : let c : Crew := (lab.crew? 1).getD default
    let s : State := { lab with
      launches := lab.launches.map (fun l => { l with pkt := { l.pkt with eentry := 0x10000000 } })
      mem := memWrite lab.mem 0x100038 4 1 }
    let e (n : Nat) (b : Bool) : State := s.updEngine 0 (fun e => { e with owner := some 0, launch := some 1, started := b, pkt := { e.pkt with privSize := n } })
    ((s.crewPkt c).eentry ≠ 0 ∧ (s.engine (clusterOfCore 3)).owner = none) ∧
    (∀ n ∈ [0, 64], ((e n false).engine 0).owner = some 0 ∧ ((e n false).engine 0).launch = some 1 ∧ ((e n false).engine 0).started = false ∧
      (((e n false).engine 0).pkt.privSize = 0 ∨ ((e n false).windowFor 0 ((e n false).engine 0).pkt.privSize).isSome = true)) ∧
    ((e 0 true).engine 0).started = true := by decide

/-- A crew that leaves no room over, one with the traversal unit enabled, and one with an Easel entry. -/
theorem witness_RoomOnACore : let s : State := { crewLab (.ready 0) with
      crews := (crewLab (.ready 0)).crews.map (fun c => { c with squads := 18, scratchSize := 393216 })
      launches := lab.launches.map (fun l => { l with pkt := { l.pkt with eentry := 0x10000000 } }), squads := [] }
    let u : State := { (crewLab (.ready 0)).setMg (coreBlock 3) 3 with
      crews := (crewLab (.ready 0)).crews.map (fun c => { c with squads := 18, scratchSize := 131072 }) }
    (∃ c, s.crew? 1 = some c ∧ s.fits c 3 = true ∧ (s.crewPkt c).eentry ≠ 0) ∧
    ∃ c, u.crew? 1 = some c ∧ u.fits c 3 = true ∧ (u.mg (coreBlock 3)).toNat % 4 ≠ 0 :=
  ⟨⟨_, rfl, by decide, by decide⟩, ⟨_, rfl, by decide, by decide⟩⟩

theorem witness_WindowAndServiceSteps_window : let x : BQueue := { id := 5, kind := 1, esize := 3, hostPush := true, hostPop := true }
    let s : State := { (lab.setMg (slotQAt 0 15) 0x80000005) with queues := [x] }
    let u : State := s.setSlot { s.slot 0 15 with done := false }
    s.fnOn 0 = true ∧ (s.slot 0 15).done = true ∧ s.slotQueue 0 15 = some 5 ∧ s.queue? 5 = some x ∧ (u.slot 0 15).done = false := by decide

/-- A service queue of a function with a request, by firmware's own choice of the slot. -/
def serviceLab (fn : Nat) (ws : List Word) : State := { lab with
  plat := { lab.plat with verified := true }
  mem := memWrite (memWrite (memWrite lab.mem 0x100020 8 0x400000) 0x400000 8 0x402001) 0x402000 8 0x3B
  mgmt := [(0, 0x100000), (4, 0), (8, 1), (slotQAt fn (Config.serviceSlot fn).val, 0x80000007)]
  queues := [{ id := 7, kind := 1, esize := 3, hostPush := true, ondie := [{ words := ws, arrival := 0 }] }] }

theorem serviceLab_queue (fn : Nat) (ws : List Word) :
    (serviceLab fn ws).serviceQueue fn = some { id := 7, kind := 1, esize := 3, hostPush := true, ondie := [{ words := ws, arrival := 0 }] } := by
  have h : (serviceLab fn ws).slotQueue fn (Config.serviceSlot fn).val = some 7 := by
    have e : slotQAt fn (Config.serviceSlot fn).val ≠ 0 ∧ slotQAt fn (Config.serviceSlot fn).val ≠ 4 ∧ slotQAt fn (Config.serviceSlot fn).val ≠ 8 := by
      refine ⟨?_, ?_, ?_⟩ <;> (unfold slotQAt fnBlock; omega)
    have m : (serviceLab fn ws).mg (slotQAt fn (Config.serviceSlot fn).val) = 0x80000007 := by
      simp [State.mg, serviceLab, aget, e.1, e.2.1, e.2.2]
    have u : ((serviceLab fn ws).slot fn (Config.serviceSlot fn).val).unbind = false := rfl
    unfold State.slotQueue
    rw [m, u]
    rfl
  unfold State.serviceQueue
  rw [h]
  rfl

/-- Its request is the first pushed. -/
theorem serviceLab_first (fn : Nat) (ws : List Word) : (serviceLab fn ws).attestFirst fn = true := by
  simp only [State.attestFirst, serviceLab_queue, Option.bind_some, BQueue.next?]
  simp
  intros
  split <;> simp

theorem witness_WindowAndServiceSteps_services : let fn := Config.ctxFunction 0
    let rep : List Word := [1, 0, 0x1000, 0x02000000, 0, 0, 0, 0]
    let att : List Word := [5, 0, 0x1000, 0x04000000, 0, 0, 0, 0]
    (∃ q e, (serviceLab fn rep).serviceQueue fn = some q ∧ q.next? = some e ∧ e.bad = false ∧ wAt e.words 0 % 256 = 1 ∧
      (e.words.getD 0 0).getLsbD 8 = false ∧ Config.ctxFunction (wAt e.words 4 % 65536) = fn) ∧
    (∃ q e, (serviceLab fn (2 :: rep.drop 1)).serviceQueue fn = some q ∧ q.next? = some e ∧ e.bad = false ∧ wAt e.words 0 % 256 = 2 ∧
      (e.words.getD 0 0).getLsbD 8 = false ∧ Config.ctxFunction (wAt e.words 4 % 65536) = fn) ∧
    (∃ q e, (serviceLab 0 (3 :: att.drop 1)).serviceQueue 0 = some q ∧ q.next? = some e ∧ e.bad = false ∧ wAt e.words 0 % 256 = 3 ∧
      dAt e.words 2 / 2 ^ 56 = 4 ∧ (dAt e.words 2).testBit 55 = false ∧ dAt e.words 2 % 4096 = 0) ∧
    (∃ q e, (serviceLab 0 [4, 0x018, 1500, 0, 0, 0, 0, 0]).serviceQueue 0 = some q ∧ q.next? = some e ∧ e.bad = false ∧ wAt e.words 0 % 256 = 4 ∧
      ctlSize (wAt e.words 1) = some 4) ∧
    ∃ q e pa u, (serviceLab fn att).serviceQueue fn = some q ∧ q.next? = some e ∧ e.bad = false ∧ wAt e.words 0 % 256 = 5 ∧
      (serviceLab fn att).attestFirst fn = true ∧
      Config.ctxFunction (wAt e.words 4 % 65536) = fn ∧ dAt e.words 2 / 2 ^ 56 = 4 ∧ (dAt e.words 2).testBit 55 = false ∧ dAt e.words 2 % 4096 = 0 ∧
      ((serviceLab fn att).qTake q.id 1).translate (wAt e.words 4 % 65536) .atomic (dword (dAt e.words 2)) = (.ok pa, u) :=
  ⟨⟨_, _, serviceLab_queue _ _, rfl, rfl, rfl, rfl, rfl⟩, ⟨_, _, serviceLab_queue _ _, rfl, rfl, rfl, rfl, rfl⟩,
   ⟨_, _, serviceLab_queue _ _, rfl, rfl, rfl, by decide, by decide, by decide⟩, ⟨_, _, serviceLab_queue _ _, rfl, rfl, rfl, by decide⟩,
   ⟨_, _, _, _, serviceLab_queue _ _, rfl, rfl, rfl, serviceLab_first _ _, rfl, by decide, by decide, by decide, Prod.ext (by rfl) rfl⟩⟩

theorem witness_FirmwareWrites : let c := Config.ctxFunction 0
    let x : BQueue := { id := 65535, kind := 1, esize := 3 }
    let s : State := { lab with plat := { lab.plat with verified := true }, queues := [x] }
    (s.queue? (0x1FFFF % 65536) = some x ∧ Config.ctxFunction x.ctx = c ∧ c < 17) ∧ (s.slot 16 15).done = true ∧ s.plat.verified = true ∧
    isCounter 0x800 = true ∧ isCounter 0x20004 = true ∧ isCounter (coreBlock 319 + 0x304) = true ∧
    (0xFFFC % 4 = 0 ∧ mgKind 0xFFFC = .absent) :=
  ⟨⟨by rfl, rfl, (Config.owner 0).isLt⟩, by rfl, rfl, by decide, by decide, by decide, by decide⟩

/-- A slot bound to queue 7 whose command is in progress, no unbinding asked for. -/
theorem witness_FirmwareWrites_slot : let s : State := { (lab.setMg (slotQAt 16 15) 0x80000007) with
      plat := { lab.plat with verified := true }, slots := [{ fn := 16, num := 15, done := false, cmdQ := 7 }] }
    s.plat.verified = true ∧ (s.slot 16 15).done = false ∧ s.slotQueue 16 15 = some 7 ∧ (s.mg (slotQAt 16 15)).getLsbD 31 = true ∧
    (s.slot 16 15).unbind = false ∧ (s.slot 16 15).cmdQ = 7 := by decide

/-- A core that traces and samples, whose last SYNC is 65,536 records ago and whose sample is due, with a thread and with none. -/
theorem witness_FirmwareWrites_trace : let s : State := { ((lab.setMg (trctlAt 0) 3).setMg (coreBlock 0 + 0x10C) 1) with
      traces := [{ core := 0, sinceSync := 65536 }], cycles := [(.core 0, 1024)] }
    let all (s : State) := (s.actorsOn 0).filterMap (fun a => (s.thread? a).map (fun t => (a, t)))
    s.trEn 0 = true ∧ 65536 ≤ (s.traceUnit 0).sinceSync ∧ s.trSampling 0 = true ∧ (s.mg (coreBlock 0 + 0x10C)).toNat % 65536 ≠ 0 ∧
    s.cycle (.core 0) % (1024 * ((s.mg (coreBlock 0 + 0x10C)).toNat % 65536)) = 0 ∧ (s.traceUnit 0).lastSample < s.cycle (.core 0) ∧
    all s ≠ [] ∧ all { s with threads := [] } = [] := by decide

/-- Right after reset; an image that fails or passes; a stopped stream; a page of a peer's request. -/
theorem witness_PlatformSteps : let r : State := { State.reset with plat := { State.reset.plat with recovery := true } }
    let s : State := { ((easelLab.updEngine 0 (fun e => { e with stopped := true }))) with plat := { lab.plat with verified := true } }
    (State.reset.plat.verified = false ∧ State.reset.plat.recovery = false) ∧ r.plat.recovery = true ∧
    (15 ∉ (List.range 15) ∧ ¬(List.range 15).length < 15 ∧ 15 ∉ lab.plat.portsDown ∧ lab.plat.portsDown.length < 15 ∧ 31 ∉ lab.plat.unreachable ∧ lab.plat.stopped = false) ∧
    (∃ t, (s.engine 0).stopped = true ∧ s.plat.verified = true ∧ s.thread? (.easel 0) = some t) ∧
    (∃ pa u, (peerNeeds (.load 256)).2 = 256 ∧ lab.translate 0 (peerNeeds (.load 256)).1 (dword (0 * 2 ^ 56 + 0x10000100 % 2 ^ 48)) = (.ok pa, u)) ∧
    2147483648 * 32 / 2 ^ 36 = 1 :=
  ⟨by decide, rfl, by decide, ⟨_, by decide, rfl, rfl⟩, ⟨_, _, rfl, Prod.ext (by rfl) rfl⟩, by decide⟩

/-- The sum of the infinities is a NaN. -/
theorem witness_CanonicalNans : let r := fBin .f32 (fun f => fAdd f .rne) { d := [], a := [0x7F800000], b := [0xFF800000], c := [] }
    fElems .f32 r = [0x7FC00000] ∧ ((FTy.fmt .f32).decode 0x7FC00000).isNan = true ∧ (FTy.fmt .f32).nanPat = 0x7FC00000 := by decide

theorem witness_CompactMemoryAndPairs : let s := labWith 0 (fun t => { t with regs := (5, 1) :: t.regs })
    (allIssue s probeActor [.nopC false, .movC false 14 1, .iaddC false 1 2, .shlC false 1 0x7F, .iaddiC false 1 0x7FFF, .imulC false 1 2, .faddC false 1 2,
      .ldC false 14 1 0, .stC false 2 1 0x7F, .braC false 0] = true) ∧
    (∃ t, s.grp.who = some probeActor ∧ s.thread? probeActor = some t ∧ s.canIssue probeActor t = true ∧ t.replay = none ∧
      compactEngine probeActor (.mov 14 1) = none ∧ compactEngine probeActor (.bra 5) = none ∧ pairFault t.pc (.mov 14 1) (.bra 5) true = none ∧
      pairFault t.pc (.mov 14 1) (.iadd 5 2) true = some 1 ∧ pairFault t.pc (.mov 14 1) (.mov 15 2) true = none ∧
      compactRegs probeActor t (.mov 14 1) = none ∧ compactRegs probeActor t (.bra 5) = none ∧ s.windowsOpen probeActor 2 = true ∧
      s.scoreboard probeActor ((compactReads (.mov 14 1) ++ compactReads (.bra 5)).map (·.toNat) ++ (compactDest (.mov 14 1)).codes ++
        (compactDest (.bra 5)).codes) = true) :=
  ⟨by decide, _, rfl, rfl, by decide, rfl, rfl, rfl, by decide, by decide, by decide, by decide, by decide, by decide, by decide⟩

/-- One pair for each rule: an address off 8, a second parcel that is none, a clash in the first, one across the two, and none. -/
theorem witness_PairRules : pairFault 4 (.mov 1 2) (.mov 3 4) true = some 0 ∧ pairFault 8 (.mov 1 2) (.mov 3 4) false = some 1 ∧
    pairFault 8 (.iadd 1 5) (.mov 3 4) true = some 0 ∧ pairFault 8 (.iadd 1 2) (.mov 3 5) true = some 1 ∧
    pairFault 8 (.iadd 1 2) (.mov 3 4) true = none ∧ pairFault 8 (.iadd 1 2) (.mov 3 1) true = some 1 ∧
    -- the first's RD named as a source and as a destination; a branch first; two memory operations
    pairFault 8 (.mov 1 2) (.mov 1 3) true = some 1 ∧ pairFault 8 (.bra 1) (.mov 3 4) true = some 0 ∧ pairFault 8 (.ld 1 2 0) (.ld 3 5 0) true = some 1 ∧
    pairFault 8 (.ld 1 2 0) (.bra 4) true = some 1 := by decide

theorem witness_StepRunsTheDecodedInstruction : let s0 := State.reset.withFetchWord 64 0x00007C01
    let s : State := { s0 with tick := s0.tick + 1, grp := { s0.grp with who := some probeActor, rest := [] } }
    s0.grp.rest = [probeActor] ∧ ∃ t p0 p1 p2 u i, s.thread? probeActor = some t ∧ s.canIssue probeActor t = true ∧ t.softErr = none ∧ s.breaks t = false ∧
      s.fetch t = (.got p0 p1 p2, u) ∧ decode p0 p1 p2 = .ok i ∧ t.met = none :=
  ⟨rfl, _, 0x00007C01, 0, 0, _, .nop ⟨⟨31, false⟩, 0, .none, .none, .none, .none⟩, rfl, by decide, rfl, by decide, Prod.ext (by rfl) rfl, by rfl, rfl⟩

theorem witness_StepRunsTheDecodedInstruction_formed : let q : TRef := ⟨1, 0, false, 2⟩
    let s0 := formedLab 5 (.sqbar (ops .none .none .none (.imm 5))) [0, 2]
    let s : State := { s0 with grp := { s0.grp with who := some (.thread q), rest := [] }, tick := s0.tick + 1 }
    ∃ t m, s.thread? (.thread q) = some t ∧ s.canIssue (.thread q) t = true ∧ t.met = some m := ⟨_, _, rfl, by decide, rfl⟩

theorem witness_StepTakesTheNextEvent : State.reset.grp.rest = [] ∧ State.reset.agenda = [.boot] ∧ lab.grp.rest = [] ∧ ({ lab with agenda := [] } : State).agenda = [] := by decide

theorem witness_GuardedOffInstructionsOnlyAdvance : ∃ x t, (Instr.iadd ⟨⟨0, false⟩, 0, .reg 14, .reg 2, .reg 3, .none⟩ .s32 false).args = some x ∧
    lab.grp.who = some probeActor ∧ lab.thread? probeActor = some t ∧ guardOn t x.guard = false := ⟨_, _, rfl, rfl, rfl, by decide⟩

theorem witness_RegisterOnlyFrame : let i := Instr.iadd (ops (.reg 14) (.reg 2) (.reg 3) .none) .s32 false
    registerOnly i = true ∧ (∃ t v d u, Issues lab (issOf i) none probeActor t v d u) ∧ (match exec i lab with
      | .next w => (w.thread? probeActor).isSome
      | _ => false) = true :=
  ⟨by decide, ⟨_, _, _, _, issues (by decide)⟩, by decide⟩

/-- A store to scratch and one to memory; a load from each. -/
theorem witness_StoreFrame : let x := ops .none (.reg 1) (.imm 4) (.reg 2)
    let y := ops .none (.pair 4) (.imm 4) (.reg 2)
    (∃ t v u o u', Issues lab (issOf (.st x .w32 .x)) none probeActor t v .none u ∧ u.reach probeActor t .store .x (memEa .x v.a (offsetOf x)) 4 = (.scratch o, u')) ∧
    ∃ t v u ea pa u', Issues lab (issOf (.st y .w32 .g)) none probeActor t v .none u ∧ u.reach probeActor t .store .g (memEa .g v.a (offsetOf y)) 4 = (.go ea pa, u') ∧
      (u'.portOf probeActor t.ctx .g).version? ea = none :=
  ⟨⟨_, _, _, 0x44, _, issues (by decide), Prod.ext (by decide) rfl⟩, ⟨_, _, _, 0x10002004, 0x10002004, _, issues (by decide), Prod.ext (by decide) rfl, by decide⟩⟩

theorem witness_LoadFrame : let x := ops (.reg 14) (.reg 1) (.imm 4) .none
    let y := ops (.reg 14) (.pair 4) (.imm 4) .none
    (∃ t v d u ws w, Issues lab (issOf (.ld x .w32 .x)) none probeActor t v d u ∧ Loads .x 4 (Width.sgn .w32) (offsetOf x) probeActor t v u ws w) ∧
    ∃ t v d u ws w, Issues lab (issOf (.ld y .w32 .g)) none probeActor t v d u ∧ Loads .g 4 (Width.sgn .w32) (offsetOf y) probeActor t v u ws w :=
  ⟨⟨_, _, _, _, _, _, issues (by decide), .inl ⟨0x44, Prod.ext (by decide) rfl, by decide, rfl⟩⟩,
   ⟨_, _, _, _, _, _, issues (by decide), .inr (.inr ⟨0x10002004, 0x10002004, _, 0, Prod.ext (by decide) rfl, Prod.ext (by decide) (Prod.ext (by decide) rfl), rfl⟩)⟩⟩

theorem witness_TrapEntryRecord : ∃ t, lab.thread? (.thread ⟨1, 0, false, 0⟩) = some t ∧ t.inHandler = false ∧ t.reissuing = false ∧
    lab.speculative (.thread ⟨1, 0, false, 0⟩) = false ∧ lab.settled (.thread ⟨1, 0, false, 0⟩) = true ∧ (({ code := 0x42 } : Cause)).next = false :=
  ⟨_, rfl, rfl, rfl, by decide, by decide, rfl⟩

/-- Lanes 3 and 31 of one group write s5 in the other order. -/
theorem witness_SquadRegistersTakeTheHighestLane : let ws : List (Nat × Word) := [(31, 7), (3, 8)]
    let s : State := { lab with grp := { lab.grp with num := 9, swrites := ws.map (fun x => ((1, 0, false), 5, x.1, x.2)) } }
    (∃ q, s.squad? (1, 0, false) = some q ∧ (cget (0, 0) q.swrote 5).1 < s.grp.num) ∧
    s.grp.swrites = ws.map (fun x => ((1, 0, false), 5, x.1, x.2)) ∧ (31, 7) ∈ ws ∧ (∀ x ∈ ws, x.1 ≤ 31) ∧ ∀ x ∈ ws, x.1 = 31 → x.2 = 7 :=
  ⟨⟨_, rfl, by decide⟩, rfl, by decide, by decide, by decide⟩

theorem witness_invariants : Memory.wf lab.mem = true ∧ (∀ e ∈ lab.agenda, isEvent e = true) ∧ (match step (State.reset.withFetchWord 64 0x00007C01) with
    | .next t => Memory.wf t.mem
    | _ => false) = true := by decide

/-- Each compact form that stands alone issues. -/
theorem witness_CompactFormsActAsFullOnes : allIssue lab probeActor [.nopC false, .movC false 14 1, .iaddC false 1 2, .isubC false 1 2, .andC false 1 2,
    .orC false 1 2, .xorC false 1 2, .shlC false 1 31, .shrC false 1 31, .sarC false 1 31, .iaddiC false 1 0x7F, .moviC false 1 0x7FFF, .imulC false 1 2,
    .iminC false 1 2, .imaxC false 1 2, .faddC false 1 2, .fmulC false 1 2, .fmaxC false 1 2, .fminC false 1 2,
    .nop ⟨⟨31, false⟩, 0, .none, .none, .none, .none⟩] = true := by decide

end Sys2Proof.Tests
end

/-! ## Canonical NaNs

Every NaN that a floating result holds is the canonical one (R78). A pattern is NaN exactly where its magnitude, the bits
below its sign, exceeds that of an infinity; every function of R173-R180 ends in the canonical NaN, in a sign over a magnitude no
more than an infinity's, or in an operand that is no NaN; and packing results into registers keeps their bits. -/

namespace Sys2Proof.Machine

/-! ### Patterns of one format -/

/-- A pattern that, if it is a NaN, is the canonical one (R78). -/
def Fmt.NanCanonical (f : Fmt) (p : Nat) : Prop := (f.decode p).isNan = true → p = f.nanPat

theorem Fmt.infPat_add_eq_signBit (f : Fmt) : f.infPat + 2 ^ f.mb = f.signBit := by
  have he : 1 ≤ 2 ^ f.eb := Nat.one_le_two_pow
  calc f.infPat + 2 ^ f.mb = (2 ^ f.eb - 1 + 1) * 2 ^ f.mb := by rw [Fmt.infPat, Nat.succ_mul]
    _ = f.signBit := by rw [Nat.sub_add_cancel he, Fmt.signBit, Nat.pow_add]

theorem Fmt.infPat_lt_signBit (f : Fmt) : f.infPat < f.signBit := by
  have := f.infPat_add_eq_signBit
  have := Nat.two_pow_pos f.mb
  omega

theorem Fmt.two_pow_width (f : Fmt) : 2 ^ f.width = 2 * f.signBit := by
  rw [Fmt.width, Fmt.signBit, Nat.add_assoc, Nat.pow_add, Nat.pow_one]

theorem Fmt.nanPat_lt_two_pow_width (f : Fmt) : f.nanPat < 2 ^ f.width := by
  have hq : 2 ^ (f.mb - 1) ≤ 2 ^ f.mb := Nat.pow_le_pow_right (by decide) (Nat.sub_le ..)
  have := f.infPat_add_eq_signBit
  have := f.infPat_lt_signBit
  rw [f.two_pow_width, Fmt.nanPat]
  omega

/-- The magnitude of a pattern: its mantissa below its exponent. -/
theorem Fmt.mod_signBit (f : Fmt) (p : Nat) : p % f.signBit = p % 2 ^ f.mb + 2 ^ f.mb * (p / 2 ^ f.mb % 2 ^ f.eb) := by
  rw [Fmt.signBit, Nat.add_comm f.eb, Nat.pow_add, Nat.mod_mul]

/-- A NaN is a pattern whose magnitude exceeds an infinity's. -/
theorem Fmt.decode_isNan_iff (f : Fmt) (p : Nat) : (f.decode p).isNan = true ↔ f.infPat < p % f.signBit := by
  have hm : p % 2 ^ f.mb < 2 ^ f.mb := Nat.mod_lt _ (Nat.two_pow_pos _)
  have he : p / 2 ^ f.mb % 2 ^ f.eb < 2 ^ f.eb := Nat.mod_lt _ (Nat.two_pow_pos _)
  rw [f.mod_signBit, Fmt.infPat, Nat.mul_comm]
  unfold Fmt.decode
  dsimp only
  split
  next top =>
    rw [top]
    split
    next h => simp [Exact.isNan, h]
    next h => simp only [Exact.isNan, true_iff]; omega
  next below =>
    have hmul : 2 ^ f.mb * (p / 2 ^ f.mb % 2 ^ f.eb + 1) ≤ 2 ^ f.mb * (2 ^ f.eb - 1) := Nat.mul_le_mul_left _ (by omega)
    rw [Nat.mul_succ] at hmul
    simp only [Exact.isNan, Bool.false_eq_true, false_iff]
    omega

namespace Fmt.NanCanonical

variable {f : Fmt} {p q : Nat}

theorem nanPat : f.NanCanonical f.nanPat := fun _ => rfl

theorem of_not_isNan (h : (f.decode p).isNan = false) : f.NanCanonical p := fun hn => by simp [h] at hn

/-- A sign over a magnitude that is at most an infinity's is no NaN. -/
theorem signed (s : Bool) (h : p ≤ f.infPat) : f.NanCanonical (b2n s * f.signBit + p) := by
  have hlt := Nat.lt_of_le_of_lt h f.infPat_lt_signBit
  intro hn
  rw [f.decode_isNan_iff, Nat.mul_add_mod_self_right, Nat.mod_eq_of_lt hlt] at hn
  omega

theorem signedInf (s : Bool) : f.NanCanonical (b2n s * f.signBit + f.infPat) := signed s (Nat.le_refl _)

theorem signedZero (s : Bool) : f.NanCanonical (b2n s * f.signBit) := signed s (Nat.zero_le _)

theorem inf : f.NanCanonical f.infPat := by simpa [b2n] using signedInf (f := f) false

theorem negInf : f.NanCanonical (f.signBit + f.infPat) := by simpa [b2n] using signedInf (f := f) true

theorem zero : f.NanCanonical 0 := by simpa [b2n] using signedZero (f := f) false

theorem ite {c : Prop} [Decidable c] (hp : f.NanCanonical p) (hq : f.NanCanonical q) : f.NanCanonical (if c then p else q) := by
  split <;> assumption

/-- A pattern cut to its format's width keeps its magnitude. -/
theorem mod_width (h : f.NanCanonical p) : f.NanCanonical (p % 2 ^ f.width) := by
  intro hn
  rw [f.decode_isNan_iff, f.two_pow_width, Nat.mod_mul_left_mod, ← f.decode_isNan_iff] at hn
  rw [h hn, Nat.mod_eq_of_lt f.nanPat_lt_two_pow_width]

end Fmt.NanCanonical

/-! ### The functions of R173-R180 -/

/-- Rounding (R80) gives the canonical NaN, or a sign over a magnitude that overflow holds to at most an infinity's. -/
theorem Fmt.round_nanCanonical (f : Fmt) (m : Rnd) (x : Exact) : f.NanCanonical (f.round m x) := by
  cases x with
  | nan => exact .nanPat
  | inf s => exact .signedInf s
  | fin s n d =>
    refine .ite (.signedZero s) (.signed s ?_)
    split
    · split <;> omega
    · omega

/-- FMIN and FMAX pick an operand that is no NaN where there is one (R176). -/
theorem fPick_nanCanonical (f : Fmt) (greater : Bool) (a b : Nat) : f.NanCanonical (fPick f greater a b) := by
  unfold fPick
  split
  next => exact .nanPat
  next hb => exact .of_not_isNan hb
  next ha _ => exact .of_not_isNan ha
  next ha hb => exact .ite (.of_not_isNan hb) (.of_not_isNan ha)

theorem fSqrt_nanCanonical (f : Fmt) (m : Rnd) (p : Nat) : f.NanCanonical (fSqrt f m p) := by
  unfold fSqrt
  split
  next => exact .nanPat
  next => exact .ite .nanPat .inf
  next s _ _ _ => exact .ite (.signedZero s) (.ite .nanPat (f.round_nanCanonical _ _))

theorem fRsq_nanCanonical (p : Nat) : fp32.NanCanonical (fRsq p) := by
  unfold fRsq
  split
  next => exact .nanPat
  next => exact .ite .nanPat .zero
  next s _ _ _ => exact .ite (.signedInf s) (.ite .nanPat (fp32.round_nanCanonical _ _))

theorem fExp2_nanCanonical (p : Nat) : fp32.NanCanonical (fExp2 p) := by
  unfold fExp2
  split
  next => exact .nanPat
  next => exact .ite .zero .inf
  next => exact .ite (.ite .zero .inf) (fp32.round_nanCanonical _ _)

theorem fLog2_nanCanonical (p : Nat) : fp32.NanCanonical (fLog2 p) := by
  unfold fLog2
  split
  next => exact .nanPat
  next => exact .ite .nanPat .inf
  next => exact .ite .negInf (.ite .nanPat (fp32.round_nanCanonical _ _))

theorem fSinPi_nanCanonical (p : Nat) : fp32.NanCanonical (fSinPi p) := by
  unfold fSinPi
  split
  next => exact .nanPat
  next => exact .nanPat
  next s _ _ _ => exact .ite (.signedZero s) (.ite (fp32.round_nanCanonical _ _) (fp32.round_nanCanonical _ _))

theorem fCosPi_nanCanonical (p : Nat) : fp32.NanCanonical (fCosPi p) := by
  unfold fCosPi
  split
  next => exact .nanPat
  next => exact .nanPat
  next => exact .ite .zero (.ite (fp32.round_nanCanonical _ _) (fp32.round_nanCanonical _ _))

theorem fTanh_nanCanonical (p : Nat) : fp32.NanCanonical (fTanh p) := by
  unfold fTanh
  split
  next => exact .nanPat
  next => exact fp32.round_nanCanonical _ _
  next s _ _ _ => exact .ite (.signedZero s) (.ite (fp32.round_nanCanonical _ _) (fp32.round_nanCanonical _ _))

/-! ### Elements in registers (R168) -/

theorem pairsOf_flatMap_wordsOf (es : List Nat) : pairsOf (es.flatMap (wordsOf true)) = es.map (· % 2 ^ 64) := by
  induction es with
  | nil => rfl
  | cons e es ih =>
    have he : natOf [word e, word (e / 2 ^ 32)] = e % 2 ^ 64 := by
      simp only [natOf, BitVec.toNat_ofNat]
      omega
    rw [List.flatMap_cons, List.map_cons, ← he, ← ih]
    rfl

/-- The halves of packed words are the elements cut to 16 bits; the upper half past an odd number of them is 0. -/
theorem mem_halvesOf_halves {es : List Nat} {p : Nat}
    (h : p ∈ (halves es).flatMap (fun w => [w.toNat % 2 ^ 16, w.toNat / 2 ^ 16])) : p = 0 ∨ ∃ e ∈ es, p = e % 2 ^ 16 := by
  induction es using halves.induct with
  | case1 => simp [halves] at h
  | case2 a =>
    simp only [halves, List.flatMap_cons, List.flatMap_nil, List.append_nil, List.mem_cons, List.not_mem_nil, or_false,
      BitVec.toNat_ofNat] at h
    rcases h with h | h
    · exact .inr ⟨a, by simp, by omega⟩
    · exact .inl (by omega)
  | case3 a b r ih =>
    simp only [halves, List.flatMap_cons, List.mem_append, List.mem_cons, List.not_mem_nil, or_false, BitVec.toNat_ofNat] at h
    rcases h with (h | h) | h
    · exact .inr ⟨a, by simp, by omega⟩
    · exact .inr ⟨b, by simp, by omega⟩
    · exact (ih h).imp_right (fun ⟨e, he, hp⟩ => ⟨e, by simp [he], hp⟩)

/-- What is read back of packed elements are the elements cut to their format's width, and zeros. -/
theorem mem_fElems_fPack {t : FTy} {es : List Nat} {p : Nat} (h : p ∈ fElems t (fPack t es)) :
    p = 0 ∨ ∃ e ∈ es, p = e % 2 ^ (FTy.fmt t).width := by
  cases t with
  | f32 => exact .inr (by simpa [fElems, fPack, FTy.fmt, Fmt.width, fp32, eq_comm] using h)
  | f64 =>
    rw [fElems, fPack, pairsOf_flatMap_wordsOf] at h
    exact .inr (by simpa [FTy.fmt, Fmt.width, fp64, eq_comm] using h)
  | f16x2 => exact mem_halvesOf_halves h
  | bf16x2 => exact mem_halvesOf_halves h

/-- Result words whose elements, where they are NaNs, are canonical. -/
def NansCanonical (t : FTy) (ws : List Word) : Prop := ∀ p ∈ fElems t ws, (FTy.fmt t).NanCanonical p

theorem fPack_nansCanonical {t : FTy} {es : List Nat} (h : ∀ e ∈ es, (FTy.fmt t).NanCanonical e) : NansCanonical t (fPack t es) := by
  intro p hp
  obtain rfl | ⟨e, he, rfl⟩ := mem_fElems_fPack hp
  · exact .zero
  · exact (h e he).mod_width

theorem fPack_map_nansCanonical {α : Type} {t : FTy} {g : α → Nat} (h : ∀ x, (FTy.fmt t).NanCanonical (g x)) (xs : List α) :
    NansCanonical t (fPack t (xs.map g)) :=
  fPack_nansCanonical (List.forall_mem_map.mpr fun x _ => h x)

theorem fPack_zipWith_nansCanonical {α β : Type} {t : FTy} {g : α → β → Nat} (h : ∀ x y, (FTy.fmt t).NanCanonical (g x y))
    (xs : List α) (ys : List β) : NansCanonical t (fPack t (List.zipWith g xs ys)) := by
  rw [← List.map_uncurry_zip_eq_zipWith]
  exact fPack_map_nansCanonical (fun x : α × β => h x.1 x.2) _

theorem fBin_nansCanonical {t : FTy} {g : Fmt → Nat → Nat → Nat} (h : ∀ (f : Fmt) a b, f.NanCanonical (g f a b)) (v : Vals) :
    NansCanonical t (fBin t g v) :=
  fPack_zipWith_nansCanonical (h (FTy.fmt t)) _ _

theorem fUn_nansCanonical {t : FTy} {g : Fmt → Nat → Nat} (h : ∀ (f : Fmt) p, f.NanCanonical (g f p)) (v : Vals) :
    NansCanonical t (fUn t g v) :=
  fPack_map_nansCanonical (h (FTy.fmt t)) _

theorem ffmaWords_nansCanonical (t : FTy) (m : Rnd) (v : Vals) : NansCanonical t (ffmaWords t m v) :=
  fPack_zipWith_nansCanonical (fun _ _ => Fmt.round_nanCanonical _ m _) _ _

/-- A scalar result is one packed element. -/
theorem f32Un_nansCanonical {g : Nat → Nat} (h : ∀ p, fp32.NanCanonical (g p)) (v : Vals) : NansCanonical .f32 (f32Un g v) :=
  fPack_map_nansCanonical (t := .f32) h [natOf v.a]

end Sys2Proof.Machine

namespace Sys2Proof.Safety

open Sys2Proof.Machine

/-- Settles O8: each row's words are packed elements of a function whose NaNs are canonical. -/
theorem canonicalNans : Obligations.CanonicalNans := by
  unfold Obligations.CanonicalNans
  rintro i t (⟨x, m, row⟩ | ⟨x, row⟩ | ⟨rfl, x, row⟩)
  · -- FADD, FSUB, FMUL, FFMA, FSCALE, FDIV, FSQRT, FRCP
    rcases row with rfl | rfl | rfl | rfl | rfl | rfl | rfl | rfl
    · exact ⟨_, completes_of_issue (fun _ => rfl), fBin_nansCanonical fun f _ _ => f.round_nanCanonical m _⟩
    · exact ⟨_, completes_of_issue (fun _ => rfl), fBin_nansCanonical fun f _ _ => f.round_nanCanonical m _⟩
    · exact ⟨_, completes_of_issue (fun _ => rfl), fBin_nansCanonical fun f _ _ => f.round_nanCanonical m _⟩
    · exact ⟨_, completes_of_issue (fun _ => rfl), ffmaWords_nansCanonical t m⟩
    · exact ⟨_, completes_of_issue (fun _ => rfl), fun _ => fPack_map_nansCanonical (fun _ => Fmt.round_nanCanonical _ m _) _⟩
    · exact ⟨_, completes_of_issue (fun _ => rfl), fBin_nansCanonical fun f _ _ => f.round_nanCanonical m _⟩
    · exact ⟨_, completes_of_issue (fun _ => rfl), fUn_nansCanonical fun f p => fSqrt_nanCanonical f m p⟩
    · exact ⟨_, completes_of_issue (fun _ => rfl), fUn_nansCanonical fun f _ => f.round_nanCanonical m _⟩
  · -- FMIN, FMAX
    rcases row with rfl | rfl
    · exact ⟨_, completes_of_issue (fun _ => rfl), fBin_nansCanonical fun f a b => fPick_nanCanonical f false b a⟩
    · exact ⟨_, completes_of_issue (fun _ => rfl), fBin_nansCanonical fun f a b => fPick_nanCanonical f true a b⟩
  · -- FRSQ, FEXP2, FLOG2, FSINPI, FCOSPI, FTANH
    rcases row with rfl | rfl | rfl | rfl | rfl | rfl
    · exact ⟨_, completes_of_issue (fun _ => rfl), f32Un_nansCanonical fRsq_nanCanonical⟩
    · exact ⟨_, completes_of_issue (fun _ => rfl), f32Un_nansCanonical fExp2_nanCanonical⟩
    · exact ⟨_, completes_of_issue (fun _ => rfl), f32Un_nansCanonical fLog2_nanCanonical⟩
    · exact ⟨_, completes_of_issue (fun _ => rfl), f32Un_nansCanonical fSinPi_nanCanonical⟩
    · exact ⟨_, completes_of_issue (fun _ => rfl), f32Un_nansCanonical fCosPi_nanCanonical⟩
    · exact ⟨_, completes_of_issue (fun _ => rfl), f32Un_nansCanonical fTanh_nanCanonical⟩

end Sys2Proof.Safety

/-! ## The Easel core and its matrix engine

Every group 6 instruction runs behind the same gate, the pending step fault of R310: with none pending its own body runs. One lemma
per gate and one for the posting of a step settle the instructions; what the engine does with the oldest step is said once for each
of its three outcomes: the box's next unit, the box's end, and the end of the boxes. -/

namespace Sys2Proof.Machine

/-! ### The gate of a pending step fault (R310) -/

theorem easelBody_of_pending_none {go : Nat → Thread → Vals → State → Body} {k : Nat} {t : Thread} {v : Vals} {s : State}
    (h : (s.engine k).pending = none) : easelBody go (.easel k) t v s = go k t v s := by
  simp [easelBody, h]

theorem palBody_of_pending_none {go : Actor → Thread → Vals → State → Body} {a : Actor} {t : Thread} {v : Vals} {s : State}
    (h : ∀ k, a = .easel k → (s.engine k).pending = none) : palBody go a t v s = go a t v s := by
  cases a with
  | easel k => exact easelBody_of_pending_none (go := fun _ => go (.easel k)) (h k rfl)
  | thread r => rfl
  | mp => rfl

/-! ### The mailbox (R292) -/

/-- The request taken has its words, its thread holds none back, and none of that thread stands before it. -/
theorem popRequest_eq_some {l q : List MailReq} {held : List Actor} {r : MailReq} {ws : List Word}
    (h : popRequest l held = some (r, ws, q)) :
    r.words = some ws ∧ r.owner ∉ held ∧ ∃ p t, l = p ++ r :: t ∧ q = p ++ t ∧ ∀ x ∈ p, x.owner ≠ r.owner := by
  induction l generalizing held q with
  | nil => simp [popRequest] at h
  | cons y l ih =>
    -- A request passed over: its owner is held back for those behind it.
    have skip : ∀ held' : List Actor, y.owner ∈ held' → held ⊆ held' →
        (popRequest l held').map (fun x => (x.1, x.2.1, y :: x.2.2)) = some (r, ws, q) →
        r.words = some ws ∧ r.owner ∉ held ∧ ∃ p t, y :: l = p ++ r :: t ∧ q = p ++ t ∧ ∀ x ∈ p, x.owner ≠ r.owner := by
      intro held' hy hsub hm
      obtain ⟨⟨r', ws', q'⟩, hpop, heq⟩ := Option.map_eq_some_iff.mp hm
      obtain ⟨rfl, rfl, rfl⟩ : r' = r ∧ ws' = ws ∧ y :: q' = q := by simpa using heq
      obtain ⟨hw, hfree, p, t, rfl, rfl, hp⟩ := ih hpop
      have hne : y.owner ≠ r'.owner := fun e => hfree (e ▸ hy)
      exact ⟨hw, fun hin => hfree (hsub hin), y :: p, t, rfl, rfl, by simpa [hne] using hp⟩
    cases hw : y.words with
    | none =>
      rw [popRequest, hw] at h
      exact skip (y.owner :: held) (by simp) (by simp) h
    | some ws' =>
      rw [popRequest, hw] at h
      by_cases hheld : y.owner ∈ held
      · exact skip held hheld (List.Subset.refl held) (by simpa [hheld] using h)
      · obtain ⟨rfl, rfl, rfl⟩ : y = r ∧ ws' = ws ∧ l = q := by simpa [hheld] using h
        exact ⟨hw, hheld, [], l, rfl, rfl, by simp⟩

theorem popRequest_cons_of_words {r : MailReq} {ws : List Word} (l : List MailReq) (h : r.words = some ws) :
    popRequest (r :: l) [] = some (r, ws, l) := by
  simp [popRequest, h]

/-! ### The engine's step (R264, R307, R312) -/

section
variable {s : State} {k ctx : Nat} {st : Step} {r : List Step}

/-- Past the last box of its operation, the oldest step takes effect. -/
theorem execMatrixStepExecute_of_boxes_end (hq : (s.engine k).queue = st :: r) (ho : (s.engine k).owner = some ctx)
    (hw : s.stepWaits k st = false)
    (hb : ((st.micro (s.engine k).tilePass).boxes st (s.engine k).epi)[st.phase]? = none) :
    execMatrixStepExecute k s = .next (s.endPart k ctx st (st.micro (s.engine k).tilePass)) := by
  simp [execMatrixStepExecute, hq, ho, hw, hb]

/-- Before that it goes on with the box it stands at. -/
theorem execMatrixStepExecute_of_box {b : Box} (hq : (s.engine k).queue = st :: r) (ho : (s.engine k).owner = some ctx)
    (hw : s.stepWaits k st = false)
    (hb : ((st.micro (s.engine k).tilePass).boxes st (s.engine k).epi)[st.phase]? = some b) :
    execMatrixStepExecute k s = .next (s.stepBox k ctx st (st.micro (s.engine k).tilePass) b) := by
  simp [execMatrixStepExecute, hq, ho, hw, hb]

variable {m : Micro} {b : Box}

theorem State.stepBox_of_units_end (hu : (boxCut b.1 b.2.1).find? (fun x => !st.units.contains x.2) = none) :
    s.stepBox k ctx st m b = s.updHead k (fun h => { h with
      phase := h.phase + 1, got := h.got ++ [(List.range b.2.1.length).map (fun i => aget st.codes i)], units := [], codes := [] }) := by
  rw [State.stepBox, hu]

/-- A unit whose elements move is counted, and so is its crew's streamer, where it has one. -/
theorem State.stepBox_of_moved {y : (Nat × Int) × Nat} {d : Cells Nat} {w : State}
    (hu : (boxCut b.1 b.2.1).find? (fun x => !st.units.contains x.2) = some y)
    (hm : (s.stepBegins st).moveBox k ctx st m b (((boxCut b.1 b.2.1).filter (fun x => x.2 == y.2)).map (·.1)) = (.ok d, w)) :
    s.stepBox k ctx st m b =
      let v := (w.chargeBox st b.1 (((boxCut b.1 b.2.1).filter (fun x => x.2 == y.2)).map (·.1))).updHead k
        (fun h => { h with units := y.2 :: h.units, codes := d })
      match st.crew with
      | some n => v.jobMoved n
      | none => v := by
  cases hc : st.crew <;> simp only [State.stepBox, hu, hm, hc]

end

/-- The oldest MBXDONE is stored once the steps and the writes before it have finished (R293). -/
theorem execMbxdoneStore_of_ready {s : State} {k ctx pa : Nat} {m : Mbxdone} {r : List Mbxdone} (hm : (s.engine k).mbxdones = m :: r)
    (ho : (s.engine k).owner = some ctx) (hsteps : ∀ st ∈ (s.engine k).queue, m.after < st.id)
    (hwrites : ∀ f ∈ s.flightsOf (.easel k), f.id < m.before → f.work.fenced = false) (hp : s.placeOf ctx m.ea = some pa) :
    execMbxdoneStore k s =
      .next ((((s.fixLoads pa 4).homeWrite pa 4 m.v.toNat).stampCopies).updEngine k (fun g => { g with mbxdones := r })) := by
  have steps : (s.engine k).queue.any (fun st => decide (st.id ≤ m.after)) = false := by
    simpa using hsteps
  have writes : (s.flightsOf (.easel k)).any (fun f => decide (f.id < m.before) && f.work.fenced) = false := by
    simpa using hwrites
  simp [execMbxdoneStore, hm, ho, steps, writes, hp]

end Sys2Proof.Machine

namespace Sys2Proof.Safety

open Sys2Proof.Machine

/-! ### The instructions of group 6 -/

/-- An instruction of the Easel core completes with what its body is done with behind the gate. -/
theorem completesIf_of_easelBody {i : Instr} {eff : Actor → Thread → Vals → State → List Word → State → Prop}
    {go : Nat → Thread → Vals → State → Body} (h : ∀ s, exec i s = issue s (issOf i) (easelBody go))
    (hb : ∀ a t v u ws w, eff a t v u ws w → ∃ k, a = .easel k ∧ (u.engine k).pending = none ∧ go k t v u = .done ws w) :
    CompletesIf i eff := by
  refine completesIf_of_issue h ?_
  intro a t v u ws w he
  obtain ⟨k, rfl, hpend, hgo⟩ := hb a t v u ws w he
  rw [easelBody_of_pending_none hpend, hgo]

/-- An instruction whose body posts a step completes with its checked step posted. -/
theorem completesIf_postsStep {i : Instr} {mk : Vals → StepOp × Nat × List Word}
    (h : ∀ s, exec i s = issue s (issOf i) (stepBody mk)) : CompletesIf i (PostsStep mk) := by
  refine completesIf_of_easelBody h ?_
  rintro a t v u ws w ⟨rfl, k, rfl, hpend, hroom, hchecks, hscratch, rfl⟩
  exact ⟨k, rfl, hpend, by simp [Nat.not_le.mpr hroom, hchecks, hscratch]⟩

theorem palw_completesIf (x : Args) : CompletesIf (.palw x) (fun a t v u ws w => ws = [] ∧ palId x v ≠ 0 ∧ (∀ y ∈ v.a.drop 12, y = 0) ∧
    entGroup v.a ≤ 3 ∧ (∀ k, a = .easel k → (u.engine k).pending = none) ∧ w = u.setPal t.ctx (palId x v) v.a) := by
  refine completesIf_of_issue (fun _ => rfl) ?_
  rintro a t v u ws w ⟨rfl, hid, hreserved, hgroup, hpend, rfl⟩
  rw [palBody_of_pending_none hpend]
  simpa [hid, hgroup] using hreserved

theorem palr_completesIf (x : Args) : CompletesIf (.palr x) (fun a t v u ws w => palId x v ≠ 0 ∧
    (∀ k, a = .easel k → (u.engine k).pending = none) ∧ ws = u.palEntry t.ctx (palId x v) ∧ w = u) := by
  refine completesIf_of_issue (fun _ => rfl) ?_
  rintro a t v u ws w ⟨hid, hpend, rfl, rfl⟩
  rw [palBody_of_pending_none hpend]
  simp [hid]

theorem mxsync_completesIf (x : Args) : CompletesIf (.mxsync x) (fun a _ _ u ws w => ws = [] ∧ w = u ∧
    ∃ k, a = .easel k ∧ (u.engine k).pending = none ∧ (u.engine k).queue = []) := by
  refine completesIf_of_easelBody (fun _ => rfl) ?_
  rintro a t v u ws w ⟨rfl, rfl, k, rfl, hpend, hqueue⟩
  exact ⟨k, rfl, hpend, by simp [hqueue]⟩

/-- MBXDONE in either form: the store is posted where its checks let it through. -/
theorem completesIf_of_mbxdoneBody {i : Instr} {off : Int} (h : ∀ s, exec i s = issue s (issOf i) (mbxdoneBody off)) :
    CompletesIf i (fun a t v u ws w => ws = [] ∧ ∃ k ea pa u', a = .easel k ∧ (u.engine k).pending = none ∧
      u.reach (.easel k) t .store .g (memEa .g v.a off) 4 = (.go ea pa, u') ∧ w = u'.updEngine k (fun e => { e with mbxdones :=
        e.mbxdones ++ [⟨((e.queue.getLast?).map (·.id)).getD 0, u'.next, ea, v.c.headD 0⟩] })) := by
  refine completesIf_of_easelBody h ?_
  rintro a t v u ws w ⟨rfl, k, ea, pa, u', rfl, hpend, hreach, rfl⟩
  exact ⟨k, rfl, hpend, by simp [hreach]⟩

/-- Settles O28: the instructions by the gate of R310 and their bodies' cases, the engine's steps by the case of the oldest step they
are in. -/
theorem easelInstructions : Obligations.EaselInstructions := by
  unfold Obligations.EaselInstructions
  have steps {i : Instr} {mk} (h : ∀ s, exec i s = issue s (issOf i) (stepBody mk)) := completesIf_postsStep h
  refine ⟨⟨palw_completesIf, palr_completesIf, fun _ => steps fun _ => rfl, fun _ => steps fun _ => rfl, fun _ => steps fun _ => rfl,
      fun _ => steps fun _ => rfl, fun _ => steps fun _ => rfl, fun _ => steps fun _ => rfl, fun _ => steps fun _ => rfl,
      fun _ => steps fun _ => rfl, mxsync_completesIf, ?_, ?_, fun _ => completesIf_of_mbxdoneBody fun _ => rfl,
      fun _ _ => completesIf_of_mbxdoneBody fun _ => rfl⟩, ?_, fun _ _ l => popRequest_cons_of_words l, rfl, ?_, ?_⟩
  · -- MBXPOP with a request taken
    intro x tr
    refine completesIf_of_easelBody (fun _ => rfl) ?_
    rintro a t v u ws w ⟨k, r, l, rfl, hpend, hpop, rfl⟩
    refine ⟨k, rfl, hpend, ?_⟩
    cases tr <;> cases x.c <;> simp [hpop]
  · -- MBXPOP.try without one
    intro x
    refine completesIf_of_easelBody (fun _ => rfl) ?_
    rintro a t v u ws w ⟨k, rfl, hpend, hpop, rfl, rfl⟩
    refine ⟨k, rfl, hpend, ?_⟩
    cases x.c <;> simp [hpop]
  · -- the request taken
    intro l r ws q h
    obtain ⟨hwords, -, split⟩ := popRequest_eq_some h
    exact ⟨hwords, split⟩
  · -- MATRIX_STEP_EXECUTE
    intro s k st r ctx hq ho hw
    refine ⟨execMatrixStepExecute_of_boxes_end hq ho hw, fun b hb => ?_⟩
    have box : exec (.matrixStepExecute k) s = _ := execMatrixStepExecute_of_box hq ho hw hb
    refine ⟨fun hu => ?_, fun y hu d w hm => ?_⟩
    · rw [box, State.stepBox_of_units_end hu]
    · exact box.trans (congrArg _ (State.stepBox_of_moved hu hm))
  · -- MBXDONE_STORE
    intro s k m r ctx pa hm ho hsteps hwrites hp
    exact execMbxdoneStore_of_ready hm ho hsteps hwrites hp

end Sys2Proof.Safety

/-! ## Boot, links, peers, scrubbing and thermal limits

Each step of the platform answers with one state under its condition: one lemma per step, or per outcome of a step, says which. Only
THERMAL_SHUTDOWN needs more. That no crew is left rests on two facts: the stop of a crew takes exactly its own records off, and the
end of a launch, whose completion record is translated and written, gives none back. -/

namespace Sys2Proof.Machine

/-! ### What leaves the crews alone -/

/-- A fold of steps that each leave the crews alone leaves them alone. -/
theorem State.foldl_crews {β : Type} {f : State → β → State} (h : ∀ u x, (f u x).crews = u.crews) (l : List β) (s : State) :
    (l.foldl f s).crews = s.crews := by
  induction l generalizing s with
  | nil => rfl
  | cons x r ih => rw [List.foldl_cons, ih, h]

section
variable (s : State)

@[simp] theorem State.homeWrite_crews (pa n v : Nat) : (s.homeWrite pa n v).crews = s.crews := rfl

@[simp] theorem State.homeWriteMask_crews (pa : Nat) (k : BitVec 8) (v : Dword) : (s.homeWriteMask pa k v).crews = s.crews := by
  refine State.foldl_crews ?_ _ _
  exact fun _ _ => rfl

@[simp] theorem State.countMg_crews (off : Nat) : (s.countMg off).crews = s.crews := by
  unfold State.countMg
  split <;> rfl

@[simp] theorem State.demote_crews (ctx : Nat) (sc : Scope) : (s.demote ctx sc).crews = s.crews := by
  unfold State.demote
  split <;> simp

@[simp] theorem State.translatePeer_crews (ctx : Nat) (k : Acc) (ea : Nat) : (s.translatePeer ctx k ea).2.crews = s.crews := by
  unfold State.translatePeer
  simp only [apply_ite Prod.snd, apply_ite State.crews, State.freeNat_crews, ite_self]
  cases s.peerKept ctx (ea / 2 ^ 51 % 32) <;> rfl

@[simp] theorem State.keepTlb_crews (owner ctx lvl pte ea : Nat) : (s.keepTlb owner ctx lvl pte ea).crews = s.crews := rfl

@[simp] theorem State.translate_crews (ctx : Nat) (k : Acc) (ea : Dword) : (s.translate ctx k ea).2.crews = s.crews := by
  unfold State.translate
  simp only [apply_ite Prod.snd, apply_ite State.crews, State.translatePeer_crews]
  cases s.mtlb.find? (fun t => t.covers (ea.toNat / 2 ^ 56) ctx ea.toNat) with
  | none => cases s.walkCtx ctx ea.toNat <;> simp
  | some t => cases s.freeBit.2.walkCtx ctx ea.toNat <;> simp [apply_ite Prod.snd, apply_ite State.crews]

@[simp] theorem State.wbHome_crews (ctx ea : Nat) : (s.wbHome ctx ea).2.crews = s.crews := by
  unfold State.wbHome
  split
  · split <;> rfl
  · rfl

@[simp] theorem State.wbLine_crews (l : L1Line) : (s.wbLine l).crews = s.crews := by
  have home := s.wbHome_crews l.ctx (8 * l.gran)
  unfold State.wbLine
  split
  · rfl
  · split <;> simp_all

@[simp] theorem State.wbWhere_crews (p : L1Line → Bool) : (s.wbWhere p).crews = s.crews := by
  refine State.foldl_crews (fun u l => ?_) _ _
  split <;> simp

/-- The state that a read of words leaves. -/
def HomeAns.state : HomeAns → State
  | .ok _ u | .bad _ u | .absent _ u => u

@[simp] theorem State.homeWords_state_crews (ctx : Nat) (k : Acc) (ea n : Nat) : (s.homeWords ctx k ea n).state.crews = s.crews := by
  have home := s.translate_crews ctx k (dword ea)
  unfold State.homeWords
  split
  next pa u h =>
    rw [h] at home
    split <;> exact home
  next h => rw [h] at home; exact home
  next h => rw [h] at home; exact home

@[simp] theorem State.readEntries_crews (ctx : Nat) (lost : List Nat) (more : List Word → Bool) (ea n : Nat) :
    (s.readEntries ctx lost more ea n).2.2.crews = s.crews := by
  induction n generalizing s ea with
  | zero => rfl
  | succ n ih =>
    have read := s.homeWords_state_crews ctx .load ea 16
    unfold State.readEntries
    split
    · rfl
    split
    next h => rw [h] at read; exact read
    next h => rw [h] at read; exact read
    next b u h =>
      rw [h] at read
      split
      · exact (ih u (ea + 64)).trans read
      · exact read

@[simp] theorem State.judgeLost_crews (ctx : Nat) (lost : List Nat) (addr : Nat) :
    (s.judgeLost ctx lost addr).2.crews = s.crews := by
  have read := s.readEntries_crews ctx lost (fun _ => true) (addr + 192) 1
  unfold State.judgeLost
  split <;> simp_all

@[simp] theorem State.writeDone_crews (l : Launch) : (s.writeDone l).2.crews = s.crews := by
  have home := (s.wbWhere (fun x => x.ctx == l.ctx)).translate_crews l.ctx .store (dword (l.pkt.doneaddr.toNat / 16 * 16))
  unfold State.writeDone
  dsimp only
  split
  · simp
  · split <;> simp_all

@[simp] theorem State.endLaunch_crews (l : Launch) : (s.endLaunch l).crews = s.crews := by
  have done := s.writeDone_crews { l with done := true }
  unfold State.endLaunch
  dsimp only
  split <;> simp_all

@[simp] theorem State.refuseEntry_crews (x : Accept) (c o : Nat) (p : Packet) : (s.refuseEntry x c o p).crews = s.crews := by
  unfold State.refuseEntry
  simp

@[simp] theorem State.freeWindow_crews (ctx : Nat) (base : Dword) : (s.freeWindow ctx base).crews = s.crews := by
  simp [State.freeWindow]

@[simp] theorem State.endOwnership_crews (k : Nat) : (s.endOwnership k).crews = s.crews := by
  unfold State.endOwnership
  simp only [State.setEngine_crews, State.dropItems_crews]
  split
  · split <;> simp
  · rfl

@[simp] theorem State.checkOwnership_crews (k : Nat) : (s.checkOwnership k).crews = s.crews := by
  unfold State.checkOwnership
  split
  · split <;> simp
  · rfl

/-! ### What takes crews off -/

/-- The stop of a crew takes off the records of that number, and no other. -/
theorem State.stopCrew_crews (n : Nat) : (s.stopCrew n).crews = s.crews.filter (fun c => c.id != n) := by
  unfold State.stopCrew
  split
  next h =>
    have other : ∀ c ∈ s.crews, (c.id != n) = true := by
      simpa [State.crew?] using h
    exact (List.filter_eq_self.mpr other).symm
  next c h =>
    dsimp only
    split
    · rw [State.checkOwnership_crews]
      split
      · rfl
      · exact State.freeWindow_crews _ _ _
    · split
      · rfl
      · exact State.freeWindow_crews _ _ _

/-- The stop of the crews of a list leaves those of other numbers. -/
theorem State.mem_foldl_stopCrew_crews {l : List Crew} {c : Crew} :
    c ∈ (l.foldl (fun (u : State) d => u.stopCrew d.id) s).crews ↔ c ∈ s.crews ∧ ∀ d ∈ l, c.id ≠ d.id := by
  induction l generalizing s with
  | nil => simp
  | cons d r ih => simp [ih, State.stopCrew_crews, and_assoc]

/-- The stop of every crew leaves none. -/
theorem State.foldl_stopCrew_all_crews : (s.crews.foldl (fun (u : State) d => u.stopCrew d.id) s).crews = [] := by
  refine List.eq_nil_iff_forall_not_mem.mpr fun c hc => ?_
  obtain ⟨hmem, hne⟩ := (s.mem_foldl_stopCrew_crews).mp hc
  exact hne c hmem rfl

/-- The removal of a context takes off its crews, and no other: the end of its launches gives none back. -/
theorem State.removeCtx_crews (ctx : Nat) : (s.removeCtx ctx).crews = s.crews.filter (fun c => c.ctx != ctx) := by
  have launches := State.foldl_crews (f := fun (u : State) (l : Launch) => if l.done then u else u.endLaunch { l with status := 0x0C })
    (fun u l => by split <;> simp) (s.launches.filter (fun l => l.ctx == ctx)) s
  unfold State.removeCtx
  dsimp only
  congr 1
  refine (State.foldl_crews (fun u x => ?_) _ _).trans launches
  have judged := u.judgeLost_crews ctx x.lost (dAt x.words 4)
  split <;> simp_all

/-- No crew comes back while contexts are removed. -/
theorem State.foldl_removeCtx_crews_of_nil (h : s.crews = []) (l : List Nat) :
    (l.foldl (fun (u : State) c => u.removeCtx c) s).crews = [] :=
  List.foldlRecOn (motive := fun u : State => u.crews = []) l _ h fun u hu c _ => by rw [State.removeCtx_crews, hu, List.filter_nil]

end

/-! ### Boot and recovery (R454, R468) -/

section
variable {s : State}

theorem execBoot_of_reset (hv : s.plat.verified = false) (hr : s.plat.recovery = false) :
    execBoot s = .next (s.bootImage (s.plat.flash.getD Config.flashImage)) := by
  simp [execBoot, hv, hr]

theorem execRecoveryImageWrite_of_recovery (l : List Byte) (hr : s.plat.recovery = true) :
    execRecoveryImageWrite l s = .next (s.bootImage l) := by
  simp [execRecoveryImageWrite, hr]

/-- An image that passes its check runs, and the PF is READY. -/
theorem State.bootImage_of_verified {l : List Byte} (h : Config.sm2Verify (Config.sm3 l) l = true) :
    s.bootImage l = State.setThread { s with plat := { s.plat with
      image := l, verified := true, recovery := false, ready := 1, reports := 0, flash := some l } } .mp
      { pc := Config.mpEntry l, nregs := 64 } := by
  simp [State.bootImage, h]

/-- An image that fails its check leaves the machine in recovery. -/
theorem State.bootImage_of_not_verified {l : List Byte} (h : Config.sm2Verify (Config.sm3 l) l = false) :
    s.bootImage l = { s with plat := { s.plat with image := [], verified := false, recovery := true, ready := 0, reports := 0 } } := by
  simp [State.bootImage, h]

/-! ### Links (R453, R466) -/

theorem firstUpTo_mem {l : List Nat} {n k : Nat} (hk : k ∈ l) (hn : k ≤ n) : firstUpTo l n ∈ l ∧ firstUpTo l n ≤ n := by
  have found : (l.find? (fun x => decide (x ≤ n))).isSome = true := List.find?_isSome.mpr ⟨k, hk, by simpa using hn⟩
  obtain ⟨x, hx⟩ := Option.isSome_iff_exists.mp found
  rw [firstUpTo, hx]
  exact ⟨List.mem_of_find?_eq_some hx, by simpa using List.find?_some hx⟩

/-- In a falling list the first of at most a bound is the greatest of them. -/
theorem le_firstUpTo {l : List Nat} {n k : Nat} (hl : l.Pairwise (· ≥ ·)) (hk : k ∈ l) (hn : k ≤ n) : k ≤ firstUpTo l n := by
  induction l with
  | nil => simp at hk
  | cons x r ih =>
    obtain ⟨hx, hr⟩ := List.pairwise_cons.mp hl
    by_cases hxn : x ≤ n
    · have first : firstUpTo (x :: r) n = x := by simp [firstUpTo, hxn]
      rw [first]
      rcases List.mem_cons.mp hk with rfl | hk
      · exact Nat.le_refl _
      · exact hx k hk
    · have later : firstUpTo (x :: r) n = firstUpTo r n := by simp [firstUpTo, hxn]
      rw [later]
      rcases List.mem_cons.mp hk with rfl | hk
      · exact absurd hn hxn
      · exact ih hr hk

/-- The generations are 5, 6 and 7. -/
theorem firstUpTo_gens {g : Nat} (h : 5 ≤ g) : firstUpTo [7, 6, 5] g = min g 7 := by
  obtain ⟨hmem, hle⟩ := firstUpTo_mem (l := [7, 6, 5]) (k := 5) (by simp) h
  have greatest : ∀ k ∈ [7, 6, 5], k ≤ g → k ≤ firstUpTo [7, 6, 5] g := fun k => le_firstUpTo (by decide)
  simp only [List.mem_cons, List.not_mem_nil, or_false, forall_eq_or_imp, forall_eq] at hmem greatest
  omega

/-- A width the other end supports is found. -/
theorem firstUpTo_widths_ne_zero {w : Nat} (h : 1 ≤ w) : firstUpTo [16, 8, 4, 1] w ≠ 0 := by
  have positive : 1 ≤ firstUpTo [16, 8, 4, 1] w := le_firstUpTo (by decide) (by simp) h
  omega

theorem execPcieLinkTrain_of_supported {g w : Nat} (hg : 5 ≤ g) (hw : 1 ≤ w) : execPcieLinkTrain g w s =
    .next { s with plat := { s.plat with pcieGen := min g 7, pcieWidth := firstUpTo [16, 8, 4, 1] w } } := by
  have gen : min g 7 ≠ 0 := by omega
  simp only [execPcieLinkTrain, firstUpTo_gens hg, if_neg gen, if_neg (firstUpTo_widths_ne_zero hw)]

theorem execLinkFlitReplay_of_link {l : Nat} (h : l < 17) : execLinkFlitReplay l s = .next (s.countMg (linkReplayAt l)) := by
  simp [execLinkFlitReplay, h]

@[simp] theorem State.countMg_plat (s : State) (off : Nat) : (s.countMg off).plat = s.plat := by
  unfold State.countMg
  split <;> rfl

/-- A port that drops out is counted; with the last of the 16 every module is cut. -/
theorem execPortDown_of_up {p : Nat} (hp : p < 16) (hup : p ∉ s.plat.portsDown) : execPortDown p s =
    .next (if s.plat.portsDown.length < 15
      then State.countMg { s with plat := { s.plat with portsDown := p :: s.plat.portsDown } } (portDownAt p)
      else (List.range 32).foldl State.cutModule
        (State.countMg { s with plat := { s.plat with portsDown := p :: s.plat.portsDown } } (portDownAt p))) := by
  simp [execPortDown, hp, hup, Nat.succ_lt_succ_iff]

theorem execModuleUnreachable_of_reached {d : Nat} (hd : d < 32) (hup : d ∉ s.plat.unreachable) : execModuleUnreachable d s =
    .next (State.cutModule { s with plat := { s.plat with unreachable := d :: s.plat.unreachable } } d) := by
  simp [execModuleUnreachable, hd, hup]

/-! ### Peers (R467) -/

/-- A peer's access whose page is present is performed at the home. -/
theorem execJenahPeerRequest_of_present {ctx die va pa n : Nat} {k : Acc} {op : PeerOp} {u : State} (hop : ∀ t f, op ≠ .replay t f)
    (hneeds : peerNeeds op = (k, n)) (hdie : die < 4) (hne : n ≠ 0) (hdvd : 256 % n = 0) (hle : n ≤ 256) (hva : va % n = 0)
    (h : s.translate ctx k (dword (die * 2 ^ 56 + va % 2 ^ 48)) = (.ok pa, u)) :
    execJenahPeerRequest ctx die va op s = .next (u.peerPerform pa op) := by
  have wellFormed : ¬(4 ≤ die ∨ n = 0 ∨ 256 < n ∨ 256 % n ≠ 0 ∨ va % n ≠ 0) := by omega
  unfold execJenahPeerRequest
  split
  next t f => exact absurd rfl (hop t f)
  next =>
    rw [hneeds]
    refine (if_neg wellFormed).trans ?_
    rw [h]

/-! ### The Easel stream (R290) -/

@[simp] theorem State.thread?_updEngine (s : State) (k : Nat) (f : Engine → Engine) (a : Actor) :
    (s.updEngine k f).thread? a = s.thread? a := rfl

@[simp] theorem State.engine_updThread (s : State) (a : Actor) (f : Thread → Thread) (k : Nat) :
    (s.updThread a f).engine k = s.engine k := by
  simp [State.engine]

@[simp] theorem State.engine_wake (s : State) (a : Actor) (k : Nat) : (s.wake a).engine k = s.engine k :=
  State.engine_updThread ..

theorem State.thread?_updThread_self {a : Actor} {t : Thread} (h : s.thread? a = some t) (f : Thread → Thread) :
    (s.updThread a f).thread? a = some (f t) := by
  simp [h]

theorem State.thread?_wake_self {a : Actor} {t : Thread} (h : s.thread? a = some t) :
    (s.wake a).thread? a = some { t with wait := s.restWait a, elig := s.cycle (s.issuerOf a) } :=
  State.thread?_updThread_self h _

/-- The stream of a stopped engine goes on at an address. -/
theorem execEaselStreamResume_at {k : Nat} (hs : (s.engine k).stopped = true) (hv : s.plat.verified = true) (pc : Dword) :
    execEaselStreamResume k (some pc) s = .next (((s.updEngine k (fun e => { e with stopped := false })).wake (.easel k)).updThread (.easel k)
      (fun t => { t with pc := pc, replay := none })) := by
  simp [execEaselStreamResume, hs, hv]

/-- The stream of a stopped engine ends. -/
theorem execEaselStreamResume_end {k : Nat} (hs : (s.engine k).stopped = true) (hv : s.plat.verified = true) :
    execEaselStreamResume k none s = .next ((s.updEngine k (fun e => { e with stopped := false })).exitThread (.easel k)) := by
  simp [execEaselStreamResume, hs, hv]

/-- A stream that ends has exited. -/
theorem State.thread?_exitThread_easel {k : Nat} {t : Thread} (h : s.thread? (.easel k) = some t) :
    (s.exitThread (.easel k)).thread? (.easel k) = some { t with exited := true, wait := .none } := by
  simp [State.exitThread, h]

/-! ### Scrubbing and thermal limits (R452, R483) -/

/-- A scrub of a sector of the stack: nothing, a corrected error counted, or the sector failing. -/
theorem execMemoryScrub_of_sector {k n : Nat} (hk : k < 8) (hn : n * 32 / 2 ^ 36 = k) :
    execMemoryScrub k n .clean s = .next s ∧ execMemoryScrub k n .corrected s = .next (s.countMg (scrubFixAt k)) ∧
      execMemoryScrub k n .uncorrectable s = .next (s.failSector n) := by
  have there : ¬(8 ≤ k ∨ n * 32 / 2 ^ 36 ≠ k) := by omega
  exact ⟨if_neg there, if_neg there, if_neg there⟩

/-- All bytes of a failing sector fail. -/
theorem State.failSector_failing (s : State) (n : Nat) : cget 0 (s.failSector n).failing n = BitVec.allOnes 32 := by
  simp [State.failSector, cget_cset]

/-- Above 110 degrees the device stops: no function is READY and no crew is left. -/
theorem execThermalShutdown_of_hot {c : Nat} (hc : 110 < c) (hs : s.plat.stopped = false) :
    ∃ w, execThermalShutdown c s = .next w ∧ w.plat.stopped = true ∧ w.plat.ready = 0 ∧ w.crews = [] := by
  have hot : ¬(c ≤ 110 ∨ s.plat.stopped = true) := by simp [hs, hc]
  exact ⟨_, if_neg hot, rfl, rfl, State.foldl_removeCtx_crews_of_nil _ (State.foldl_stopCrew_all_crews _) _⟩

end

end Sys2Proof.Machine

namespace Sys2Proof.Safety

open Sys2Proof.Machine

/-- Settles O42: each step by the lemma that says what it answers. -/
theorem platformSteps : Obligations.PlatformSteps := by
  unfold Obligations.PlatformSteps
  refine ⟨fun s hv hr => execBoot_of_reset hv hr, fun s l hr => execRecoveryImageWrite_of_recovery l hr, fun s l => ⟨fun h => ?_, fun h => ?_⟩,
    fun s g w hg hw => ?_, fun s l h => execLinkFlitReplay_of_link h, fun s p hp hup => execPortDown_of_up hp hup,
    fun s d hd hup => execModuleUnreachable_of_reached hd hup, fun s k t hs hv hk ht => ⟨fun pc => ?_, ?_⟩,
    fun s ctx die va op pa u hop hdie hne hdvd hle hva h => execJenahPeerRequest_of_present hop rfl hdie hne hdvd hle hva h,
    fun s k n hk hn => ?_, fun s m c => rfl, fun s c hc hs => execThermalShutdown_of_hot hc hs⟩
  · -- an image that passes
    rw [State.bootImage_of_verified h]
    exact ⟨rfl, rfl, rfl, _, State.thread?_setThread _ _ _ _, rfl⟩
  · -- an image that fails
    rw [State.bootImage_of_not_verified h]
    exact ⟨rfl, rfl, rfl⟩
  · -- PCIE_LINK_TRAIN
    obtain ⟨hmem, hle⟩ := firstUpTo_mem (l := [16, 8, 4, 1]) (k := 1) (by simp) hw
    exact ⟨_, execPcieLinkTrain_of_supported hg hw, rfl, hle, hmem, fun k => le_firstUpTo (by decide)⟩
  · -- the stream goes on
    have woken := State.thread?_wake_self (s := s.updEngine k (fun e => { e with stopped := false })) ht
    exact ⟨_, _, execEaselStreamResume_at hs hv pc, State.thread?_updThread_self woken _, rfl, rfl, by simp⟩
  · -- the stream ends
    exact ⟨_, _, execEaselStreamResume_end hs hv, State.thread?_exitThread_easel ht, rfl⟩
  · -- MEMORY_SCRUB
    obtain ⟨clean, corrected, failing⟩ := execMemoryScrub_of_sector (s := s) hk hn
    exact ⟨clean, corrected, _, failing, rfl, s.failSector_failing n⟩

end Sys2Proof.Safety

/-! ## Draws, results, spawned tasks, mutations and rays

Each body of these instructions is a chain of checks before one effect. One lemma per body says what it answers where every check
passes; the retiring of a draw is said for a draw without a block, the oldest of its stream. That a block's accesses are checked at issue
and posted behind earlier ones is the model's reading (assumption log 44), and so are MUTL's operand-log entry (log 45) and that
TRACE brings a task's versions to their homes first (log 47). -/

namespace Sys2Proof.Machine

/-! ### DRAW (R321-R323, R331) -/

section
variable {s : State} {a : Actor} {t : Thread} {v : Vals} {st : Nat} {kind : DrawKind}

/-- What a DRAW leaves outstanding: its coordinate, the two words generated there, and the block it uses. -/
def State.drawWork (s : State) (a : Actor) (t : Thread) (st : Nat) (kind : DrawKind) : Work :=
  .draw st (s.drawNext a t st) kind (s.drawGen t st (s.drawNext a t st)).1 (s.drawGen t st (s.drawNext a t st)).2.1 (s.choice? a t)

theorem drawBody_of_no_block (h : s.choice? a t = none) : drawBody st kind a t v s = .fly (s.drawWork a t st kind) s := by
  simp only [drawBody, State.drawWork, h]

/-- Block accesses that get through leave only their translations behind at issue. -/
theorem drawBody_of_block_word {b : Block} {z : Word} {w : State} (h : s.choice? a t = some b)
    (hw : s.drawBlock (s.portOf a t.ctx .g) (s.parkedOn a t.ctx) b st (s.drawNext a t st).toNat
      (s.drawGen t st (s.drawNext a t st)).1 = .word z w) :
    drawBody st kind a t v s = .fly (s.drawWork a t st kind) { s with mtlb := w.mtlb, tick := w.tick } := by
  simp only [drawBody, State.drawWork, h, hw]

end

/-! ### RESULT (R334) -/

section
variable {s u : State} {a : Actor} {t : Thread} {v : Vals} {b : Block} {n : Nat} {y : Word}

theorem resultBody_of_no_block (h : s.choice? a t = none) : resultBody n a t v s = .done [] s := by
  simp only [resultBody, h]

/-- With no earlier block access outstanding the word is stored at once. -/
theorem resultBody_of_first (h : s.choice? a t = some b) (hb : s.blockBefore a s.next = false)
    (hw : s.resultBlock (s.portOf a t.ctx .g) (s.parkedOn a t.ctx) b n (v.a.headD 0) = .word y u) :
    resultBody n a t v s = .done [] u := by
  simp only [resultBody, h, hw, hb, Bool.false_eq_true, if_false]

/-- Behind one the store is posted (R330). -/
theorem resultBody_of_behind (h : s.choice? a t = some b) (hb : s.blockBefore a s.next = true)
    (hw : s.resultBlock (s.portOf a t.ctx .g) (s.parkedOn a t.ctx) b n (v.a.headD 0) = .word y u) :
    resultBody n a t v s = .fly (.result b n (v.a.headD 0)) { s with mtlb := u.mtlb, tick := u.tick } := by
  simp only [resultBody, h, hw, hb, if_true, if_true]

/-- Where both accesses get through, the word and its mask bit are stored. -/
theorem State.resultBlock_of_go {p : Port} {held : Dword → Bool} {x : Word} {e m : Dword} {ep mp z : Nat} {u1 u2 u3 : State}
    (hres : s.blockReach p.ctx held .store (b.res n) 4 = (.go e ep, u1))
    (hmask : u1.blockReach p.ctx held .atomic b.mask 4 = (.go m mp, u2)) (hread : u2.gReadHome p m mp 4 = (z, false, u3)) :
    s.resultBlock p held b n x = .word 0 ((u3.gWriteHome p e ep 4 x.toNat).gWriteHome p m mp 4 (z ||| 2 ^ n)) := by
  simp [State.resultBlock, hres, hmask, hread]

end

/-! ### A draw retires (R320, R325) -/

section
variable {s : State} {f : Flight} {t : Thread} {st : Nat} {n g0 g1 : Word} {kind : DrawKind}

/-- A writeback for a thread that still runs retires its flight. -/
theorem execLongLatencyWriteback_of_thread {op : Nat} (hf : s.flight? op = some f) (ho : f.orphan = false)
    (ht : s.thread? f.owner = some t) : execLongLatencyWriteback f.owner op s = .next (s.retire f) := by
  simp [execLongLatencyWriteback, hf, ho, ht]

/-- The oldest draw of its stream, without a block, writes its words and advances the counter. -/
theorem State.retire_draw_of_no_block (ho : f.orphan = false) (hp : f.park = none) (hw : f.work = .draw st n kind g0 g1 none)
    (hb : s.drawBefore f st = false) : s.retire f =
      ((s.writeDestLate f.owner f.group f.dest (drawWords kind g0 g1)).updThread f.owner
        (fun y => { y with dcount := cset 0 y.dcount st (n + 1) })).delFlight f.id := by
  simp [State.retire, hp, hw, hb, State.retireDraw, ho]

end

/-! ### SPAWN (R369, R370) -/

/-- Within its limits and with room in its domain a task queues the child. -/
theorem spawnBody_of_room {n : Nat} {a : Actor} {t : Thread} {v : Vals} {s : State} {k : Task} (hk : s.taskOf a = some k)
    (hcalls : k.calls ≠ 255) (hdepth : k.depth ≠ 7) (hts : keyTs k.key ≤ (dw (v.a.headD 0) (v.a.getD 1 0)).toNat)
    (hroom : s.domainFull k.launch = false) : spawnBody n a t v s =
      .done [] (s.addChild k (dw (v.a.headD 0) (v.a.getD 1 0)).toNat (v.b.headD 0) (v.b.getD 1 0) n) := by
  simp only [spawnBody, hk, hcalls, hdepth, Nat.not_lt.mpr hts, hroom, if_false, Bool.not_false, if_true]

/-! ### MUTL (R335, R338) -/

theorem alignCause_of_aligned {a n : Nat} (h : a % n = 0) : alignCause a n = none := by
  simp [alignCause, h]

/-- The relaunch that a checked descriptor `w` queues, numbered with the next identifier. -/
def State.newRelaunch (s : State) (t : Thread) (w : List Word) : Relaunch :=
  { id := s.next, launch := t.launch.getD 0, ctx := t.ctx, desc := w, rc := ({ s with next := s.next + 1 } : State).fw 60000 }

theorem State.queueMutation_of_valid {s : State} {t : Thread} {w : List Word} (hprop : dAt w 4 % 64 = 0) (hrec : dAt w 6 % 16 = 0)
    (hcount : dAt w 8 % 4 = 0) (hvalid : descInvalid (s.pktOf t) w = false) :
    s.queueMutation t w = .done [] { s with next := s.next + 1, relaunches := s.relaunches ++ [s.newRelaunch t w] } := by
  simp [State.queueMutation, alignCause_of_aligned, hprop, hrec, hcount, hvalid, State.fresh, State.newRelaunch]

/-- With the thread's earlier accesses performed and both its lines read, the descriptor is checked and queued. -/
theorem mutlBody_of_lines {a : Actor} {t : Thread} {v : Vals} {s u1 u2 : State} {w0 w1 : List Word} (hd : s.drained a = true)
    (hal : (dw (v.a.headD 0) (v.a.getD 1 0)).toNat % 64 = 0)
    (h0 : (s.wbWhere (fun l => l.core == s.coreOf a && l.ctx == t.ctx)).descLine a t (dw (v.a.headD 0) (v.a.getD 1 0)) = (.ok w0, u1))
    (h1 : u1.descLine a t (dw (v.a.headD 0) (v.a.getD 1 0) + 64) = (.ok w1, u2)) :
    mutlBody a t v s = u2.queueMutation t (w0 ++ w1) := by
  simp only [mutlBody, hd, hal, h0, h1, ne_eq, not_true_eq_false, Bool.not_true, Bool.false_eq_true, if_false]

/-! ### TRACE (R396, R397) -/

/-- The ray that a TRACE makes of handle `h` at vale `n`. -/
def tracedRay (t : Thread) (h : Word) (n q : Nat) : Ray := { launch := t.launch.getD 0, handle := h, vale := n, q := q }

/-- The ray joins the rays under way, in the place of an earlier one of its handle. -/
def State.putRay (s : State) (y : Ray) : State :=
  { s with rays := s.rays.filter (fun r => !(r.launch == y.launch && r.handle == y.handle)) ++ [y] }

/-- The state in which TRACE reads: the lines of its core written back, a task's versions at their homes. -/
def State.traceFlush (s : State) (a : Actor) (t : Thread) : State :=
  let u := s.wbWhere (fun l => l.core == s.coreOf a && l.ctx == t.ctx)
  match u.taskOf a with
  | some k => u.flushTask k.launch k.key
  | none => u

/-- A record that is not refused, at a vale whose queue is usable, is QUEUED and its handle sent. -/
theorem traceBody_of_accepted {a : Actor} {t : Thread} {v : Vals} {s u1 u2 u3 : State} {pa px pe : Nat} {r e : List Word}
    (hpool : (s.pktOf t).raycount ≠ 0) (hhandle : (v.a.headD 0).toNat < (s.pktOf t).raycount)
    (hvale : (v.b.headD 0).toNat < (s.pktOf t).valecount) (hd : s.drained a = true)
    (hrec : (s.traceFlush a t).lineHome a t.ctx .load (dword ((s.pktOf t).rayAt (v.a.headD 0).toNat)) = (.ok (pa, r), u1))
    (hent : u1.lineHome a t.ctx .load (dword ((s.pktOf t).valeAt (v.b.headD 0).toNat)) = (.ok (pe, e), u2))
    (hq : u2.valeQueueOk t.ctx e = true)
    (hst : u2.translate t.ctx .store (dword ((s.pktOf t).rayAt (v.a.headD 0).toNat)) = (.ok px, u3)) (hok : recordReason r = none) :
    traceBody a t v s = sendCmd a t.ctx (wAt e 4) (.push [v.a.headD 0]) false none
      ((u3.queueRay pa (v.b.headD 0).toNat).putRay (tracedRay t (v.a.headD 0) (v.b.headD 0).toNat (wAt e 4))) := by
  simp only [State.traceFlush] at hrec
  cases htask : (s.wbWhere (fun l => l.core == s.coreOf a && l.ctx == t.ctx)).taskOf a with
  | none | some k =>
    rw [htask] at hrec
    simp only [traceBody, htask, hpool, Nat.not_le.mpr hhandle, Nat.not_le.mpr hvale, hd, hrec, hent, hq, hst, hok, or_self,
      if_false, Bool.not_true, Bool.false_eq_true, State.putRay, tracedRay]

end Sys2Proof.Machine

namespace Sys2Proof.Safety

open Sys2Proof.Machine

/-! ### The instructions -/

/-- A command sent is the work of `cmdSent`. -/
theorem sendCmd_eq_fly_cmdSent (a : Actor) (ctx q : Nat) (op : QOp) (tr : Bool) (tp : Option Nat) (s : State) :
    sendCmd a ctx q op tr tp s = .fly (cmdSent a ctx q op tr tp s).1 (cmdSent a ctx q op tr tp s).2 := rfl

/-- DRAW leaves outstanding what its body does, where its entry's own check passes. -/
theorem exec_draw_of_fly {x : Args} {k : DrawKind} {s u w : State} {a : Actor} {t : Thread} {v : Vals} {d : Dest} {g : Work}
    (hc : drawCheck k s a t = none) (hi : Issues s { issOf (.draw x k) with logs := s.usesBlock } none a t v d u)
    (hb : drawBody (immOf x.c) k a t v u = .fly g w) :
    exec (.draw x k) s = .next (flies w a t { issOf (.draw x k) with logs := s.usesBlock } d v g) := by
  rw [← hc] at hi
  calc exec (.draw x k) s = _ := issueChk_of_issues (drawBody (immOf x.c) k) hi
    _ = _ := by rw [hb]; rfl

theorem result_completesAs (x : Args) : CompletesAs (.result x) (fun s => { issOf (.result x) with logs := s.usesBlock })
    (fun _ _ _ => none) (fun a t v u ws w => ws = [] ∧ ((u.choice? a t = none ∧ w = u) ∨
      ∃ b y, u.choice? a t = some b ∧ u.blockBefore a u.next = false ∧
        u.resultBlock (u.portOf a t.ctx .g) (u.parkedOn a t.ctx) b (immOf x.c) (v.a.headD 0) = .word y w)) := by
  refine completesAs_of_issue (fun _ => rfl) ?_
  rintro s a t v u ws w - - ⟨rfl, ⟨hnone, rfl⟩ | ⟨b, y, hblock, hfirst, hword⟩⟩
  · exact resultBody_of_no_block hnone
  · exact resultBody_of_first hblock hfirst hword

theorem result_sendsIf (x : Args) : SendsIf (.result x) (fun s => { issOf (.result x) with logs := s.usesBlock })
    (fun a t v u k w => ∃ b y z, u.choice? a t = some b ∧ u.blockBefore a u.next = true ∧
      u.resultBlock (u.portOf a t.ctx .g) (u.parkedOn a t.ctx) b (immOf x.c) (v.a.headD 0) = .word y z ∧
      k = .result b (immOf x.c) (v.a.headD 0) ∧ w = { u with mtlb := z.mtlb, tick := z.tick }) := by
  refine sendsIf_of_issue (fun _ => rfl) ?_
  rintro s a t v u k w - - ⟨b, y, z, hblock, hbehind, hword, rfl, rfl⟩
  exact resultBody_of_behind hblock hbehind hword

/-- Settles O29: each instruction by what its body answers where its checks pass, the retiring draw by its flight's work. -/
theorem drawsTasksAndRays : Obligations.DrawsTasksAndRays := by
  unfold Obligations.DrawsTasksAndRays
  refine ⟨⟨fun x k s a t v d u hc hi => ⟨fun hnone => ?_, fun b z w hblock hword => ?_⟩, fun x k => ?_, result_completesAs,
    result_sendsIf, fun u p held b n x e ep u1 m mp u2 y u3 hres hmask hread => State.resultBlock_of_go hres hmask hread,
    fun s op f t st n k g0 g1 hf ho hp hw hb ht => ?_⟩, fun x => ?_, fun x => ?_, fun x => ?_⟩
  · -- DRAW without a block
    exact exec_draw_of_fly hc hi (drawBody_of_no_block hnone)
  · -- DRAW with one
    exact exec_draw_of_fly hc hi (drawBody_of_block_word hblock hword)
  · -- DRAWK
    refine sendsIf_of_issue (fun _ => rfl) ?_
    rintro s a t v u g w - - ⟨rfl, rfl⟩
    rfl
  · -- LONG_LATENCY_WRITEBACK of a draw
    calc exec (.longLatencyWriteback f.owner op) s = _ := execLongLatencyWriteback_of_thread hf ho ht
      _ = _ := by rw [State.retire_draw_of_no_block ho hp hw hb]
  · -- SPAWN
    refine completesIf_of_issue (fun _ => rfl) ?_
    rintro a t v u ws w ⟨rfl, k, hk, hcalls, hdepth, hts, hroom, rfl⟩
    exact spawnBody_of_room hk hcalls hdepth hts hroom
  · -- MUTL
    refine completesAs_of_issue (fun _ => rfl) ?_
    rintro s a t v u ws w - - ⟨rfl, hd, hal, w0, w1, u1, u2, h0, h1, hprop, hrec, hcount, hvalid, rfl⟩
    rw [mutlBody_of_lines hd hal h0 h1, State.queueMutation_of_valid hprop hrec hcount hvalid]
    rfl
  · -- TRACE
    refine sendsIf_of_issue (fun _ => rfl) ?_
    rintro s a t v u k w - - ⟨hpool, hhandle, hvale, hd, pa, r, u1, e, pe, u2, px, u3, hrec, hent, hq, hst, hok, hsent⟩
    obtain ⟨rfl, rfl⟩ := Prod.ext_iff.mp hsent
    rw [traceBody_of_accepted hpool hhandle hvale hd hrec hent hq hst hok, sendCmd_eq_fly_cmdSent]
    rfl

end Sys2Proof.Safety

/-! ## Steps of tasks, relaunches and rays

Each step checks a condition on the state and then takes one effect: one lemma per step says which effect under its condition. Only
TASK_COMMIT and DEFERRED_FAULT_REISSUE are asked about single parts of the state they leave. The commit's release writes back and drops
L1 lines beyond the version store's reach and stamps the copies; that it does so, and that the commit waits for orphans and copies,
is the model's reading (assumption logs 9 and 46). It leaves tasks and crews alone, and memory too where no such line stands. -/

namespace Sys2Proof.Machine

/-! ### What a write-back leaves alone (R200) -/

section
variable (s : State)

@[simp] theorem State.homeWriteMask_tasks (pa : Nat) (k : BitVec 8) (v : Dword) : (s.homeWriteMask pa k v).tasks = s.tasks :=
  List.foldlRecOn (motive := fun u : State => u.tasks = s.tasks) _ _ rfl fun _ hu _ _ => hu

@[simp] theorem State.wbHome_tasks (ctx ea : Nat) : (s.wbHome ctx ea).2.tasks = s.tasks := by
  unfold State.wbHome
  cases s.keptHome ctx ea with
  | none => rfl
  | some kept => simp [apply_ite Prod.snd, apply_ite State.tasks]

@[simp] theorem State.wbLine_tasks (l : L1Line) : (s.wbLine l).tasks = s.tasks := by
  have home := s.wbHome_tasks l.ctx (8 * l.gran)
  unfold State.wbLine
  split
  · rfl
  · split <;> simp_all

@[simp] theorem State.wbWhere_tasks (p : L1Line → Bool) : (s.wbWhere p).tasks = s.tasks :=
  List.foldlRecOn (motive := fun u : State => u.tasks = s.tasks) _ _ rfl fun u hu l _ => by
    split
    · exact (u.wbLine_tasks l).trans hu
    · exact hu

/-- A write-back that picks none of the lines changes nothing. -/
theorem State.wbWhere_of_none {p : L1Line → Bool} (h : ∀ l ∈ s.l1, p l = false) : s.wbWhere p = s :=
  List.foldlRecOn (motive := fun u : State => u = s) _ _ rfl fun u hu l hl => by simp [h l hl, hu]

end

/-! ### Tasks (R372, R377, R378, R382, R386) -/

section
variable {s : State} {n core : Nat} {l : Launch} {t : Task}

theorem execTaskDispatch_of_mayPlace (hl : s.launch? n = some l) (ht : s.lowestQueued n = some t)
    (hp : s.mayPlace (taskCrew l t) core = true) : execTaskDispatch n core s = .next (s.placeTask l t core) := by
  simp only [execTaskDispatch, hl, ht, hp, if_true]

@[simp] theorem State.commitRelease_tasks (s : State) (ctx : Nat) : (s.commitRelease ctx).tasks = s.tasks :=
  s.wbWhere_tasks _

@[simp] theorem State.commitRelease_crews (s : State) (ctx : Nat) : (s.commitRelease ctx).crews = s.crews :=
  s.wbWhere_crews _

/-- With no line of the context at die code 4 or above the release writes nothing. -/
theorem State.commitRelease_mem_of_inner {ctx : Nat} (h : ∀ l ∈ s.l1, l.ctx = ctx → 8 * l.gran / 2 ^ 56 < 4) :
    (s.commitRelease ctx).mem = s.mem := by
  have inner : ∀ l ∈ s.l1, (l.ctx == ctx && decide (4 ≤ 8 * l.gran / 2 ^ 56)) = false := by
    intro l hl
    by_cases hc : l.ctx = ctx
    · simpa [hc] using h l hl hc
    · simp [hc]
  exact (congrArg State.mem (s.wbWhere_of_none inner) :)

/-- The state in which a finished frontier task has committed. -/
def State.committed (s : State) (n : Nat) (t : Task) : State :=
  let u := (s.performVersions t).commitRelease (((s.launch? n).map (·.ctx)).getD 0)
  State.showFrontier { u with tasks := u.tasks.filter (fun x => !(x.launch == n && x.key == t.key)) } n

theorem execTaskCommit_of_finished (ht : s.tasks.find? (fun t => t.launch == n && s.frontier n == some t.key) = some t)
    (hst : t.st = .finished) (hf : ∀ f ∈ s.flights, f.orphan = true → f.launch ≠ some n)
    (hj : ∀ j ∈ s.jobs, j.task = some (n, t.key) → j.finished = true) : execTaskCommit n s = .next (s.committed n t) := by
  have still : ¬(t.st ≠ .finished ∨ s.flights.any (fun f => f.orphan && f.launch == some n) = true ∨
      s.jobs.any (fun j => j.task == some (n, t.key) && !j.finished) = true) := by
    simpa [hst] using And.intro hf hj
  unfold execTaskCommit
  rw [ht]
  exact if_neg still

/-- The deferred instruction is to issue again once its thread is awake. -/
theorem execDeferredFaultReissue_of_frontier {r : TRef} {t : Thread} (ht : s.thread? (.thread r) = some t) (hw : t.wait = .deferred)
    (hr : s.resident (.thread r) = true) (hk : (s.taskOf (.thread r)).isSome = true) (hs : s.speculative (.thread r) = false) :
    execDeferredFaultReissue r s = .next ((s.wake (.thread r)).updThread (.thread r) (fun u => { u with reissuing := true })) := by
  simp [execDeferredFaultReissue, ht, hw, hr, hk, hs]

@[simp] theorem State.restWait_updThread (s : State) (a b : Actor) (f : Thread → Thread) :
    (s.updThread a f).restWait b = s.restWait b := by
  simp [State.restWait]

end

/-! ### Relaunches (R339, R342, R343) -/

section
variable {s : State} {n : Nat} {r : Relaunch} {l : Launch}

theorem execRelaunch_of_first (hr : s.relaunches.find? (fun r => r.id == n) = some r) (hl : s.launch? r.launch = some l)
    (hcrew : r.crew = none) (hpark : r.park = none) (hinv : r.invalid = none) (hfault : r.fault = none)
    (hfirst : s.firstRelaunch r = true) (hgone : s.targetGone r l.pkt = true) : execRelaunch n s = .next (s.startRelaunch r l) := by
  simp [execRelaunch, hr, hl, hcrew, hpark, hinv, hfault, hfirst, hgone]

theorem execRelaunchCompare_of_ran (hr : s.relaunches.find? (fun r => r.id == n) = some r) (hl : s.launch? r.launch = some l)
    (hpark : r.park = none) (hran : s.relaunchRan r = true) : execRelaunchCompare n s = .next (s.compareRelaunch r l.pkt) := by
  simp [execRelaunchCompare, hr, hl, hpark, hran]

end

/-! ### Rays (R398-R401) -/

section
variable {s : State} {n core : Nat}

theorem execValeService_of_chosen {e : Eligible} {l : Launch} (hc : core < 320) (hon : (s.mg (coreBlock core)).getLsbD 1 = true)
    (he : chooseVale (s.eligible (dieOfCore core)) = some e) (hl : s.launch? e.launch = some l) :
    execValeService core s = .next (s.serve (dieOfCore core) e l) := by
  have serves : ¬(320 ≤ core ∨ (s.mg (coreBlock core)).getLsbD 1 = false) := by simp [hc, hon]
  simp only [execValeService, if_neg serves, he, hl]

/-- The handle kept first for its queue is pushed where the queue has room and no push waits. -/
theorem execPendingHandlePush_of_first {r : Ray} {k : Nat} {x : BQueue} (hr : s.rays[n]? = some r) (hk : r.kept = some k)
    (hx : s.queue? r.q = some x) (hroom : x.room = true) (hpops : ∀ y ∈ x.waiters, y.op.isPop = true)
    (hfirst : ∀ y ∈ s.rays, y.q = r.q → ∀ j, y.kept = some j → k ≤ j) : execPendingHandlePush n s =
      .next ((s.updRay r.launch r.handle (fun y => { y with kept := none })).qInsert r.q [r.handle]) := by
  have noPush : x.waiters.any (fun w => !w.op.isPop) = false := by simpa using hpops
  simp only [execPendingHandlePush, hr, hk, hx]
  refine congrArg Host.Outcome.next (if_pos ?_)
  rw [hroom, noPush, Bool.and_true, Bool.not_false, Bool.and_true, List.all_eq_true]
  intro y hy
  by_cases hq : y.q = r.q
  · cases hj : y.kept with
    | none => simp
    | some j => simpa [hq] using hfirst y hy hq j hj
  · simp [hq]

end

end Sys2Proof.Machine

namespace Sys2Proof.Safety

open Sys2Proof.Machine

/-- Settles O31: each step by what it does under its condition, the commit and the re-issue then by the parts of the state they leave. -/
theorem taskRelaunchAndRaySteps : Obligations.TaskRelaunchAndRaySteps := by
  unfold Obligations.TaskRelaunchAndRaySteps
  refine ⟨⟨fun s n core l t hl ht hp => execTaskDispatch_of_mayPlace hl ht hp, fun s n t ht hst hf hj => ?_,
    fun s r t ht hw hr hk hs => ?_⟩, fun s n r l hr hl hcrew hpark hinv hfault hfirst hgone =>
      execRelaunch_of_first hr hl hcrew hpark hinv hfault hfirst hgone,
    fun s n r l hr hl hpark hran => execRelaunchCompare_of_ran hr hl hpark hran,
    fun s core e l hc hon he hl => execValeService_of_chosen hc hon he hl,
    fun s n r k x hr hk hx hroom hpops hfirst => execPendingHandlePush_of_first hr hk hx hroom hpops hfirst⟩
  · -- TASK_COMMIT
    refine ⟨_, execTaskCommit_of_finished ht hst hf hj, rfl,
      fun hinner => State.commitRelease_mem_of_inner (s := s.performVersions t) hinner, ?_, ?_⟩
    · exact congrArg (List.filter _) (State.commitRelease_tasks (s.performVersions t) _)
    · exact State.commitRelease_crews (s.performVersions t) _
  · -- DEFERRED_FAULT_REISSUE
    have woken := State.thread?_updThread_self (State.thread?_wake_self ht) (fun u => { u with reissuing := true })
    exact ⟨_, _, execDeferredFaultReissue_of_frontier ht hw hr hk hs, woken, by simp [State.wake], rfl, rfl, rfl, rfl, by simp [State.wake]⟩

end Sys2Proof.Safety

/-! ## The limits of SPAWN

SPAWN's body tests R370's conditions one after another and touches nothing before it answers. One lemma per condition says that the
body raises its reason where it is the first to fail; what the raise leaves is then the same for all four. -/

namespace Sys2Proof.Machine

/-! ### The conditions, in R370's order -/

section
variable {n : Nat} {a : Actor} {t : Thread} {v : Vals} {s : State} {k : Task}

theorem spawnBody_outside_task (hk : s.taskOf a = none) : spawnBody n a t v s = .raise (spawnLimit 4) s := by
  simp only [spawnBody, hk]

theorem spawnBody_calls_spent (hk : s.taskOf a = some k) (hcalls : k.calls = 255) :
    spawnBody n a t v s = .raise (spawnLimit 1) s := by
  simp only [spawnBody, hk, if_pos hcalls]

theorem spawnBody_deepest (hk : s.taskOf a = some k) (hcalls : k.calls ≠ 255) (hdepth : k.depth = 7) :
    spawnBody n a t v s = .raise (spawnLimit 2) s := by
  simp only [spawnBody, hk, if_neg hcalls, if_pos hdepth]

theorem spawnBody_earlier_timestamp (hk : s.taskOf a = some k) (hcalls : k.calls ≠ 255) (hdepth : k.depth ≠ 7)
    (hts : (dw (v.a.headD 0) (v.a.getD 1 0)).toNat < keyTs k.key) : spawnBody n a t v s = .raise (spawnLimit 3) s := by
  simp only [spawnBody, hk, if_neg hcalls, if_neg hdepth, if_pos hts]

end

end Sys2Proof.Machine

namespace Sys2Proof.Safety

open Sys2Proof.Machine

/-- A body that raises leaves its cause at the instruction, with the captured sources in the record. -/
@[simp] theorem settle_raise (s : State) (a : Actor) (t : Thread) (p : Iss) (d : Dest) (srcs : List Word) (c : Cause) (w : State) :
    s.settle a t p d srcs (.raise c w) = w.raise a (siteOf w t p srcs d true) c := rfl

/-- A SPAWN whose body meets a limit takes SPAWN_LIMIT in the state its sources left, whatever its lane count. -/
theorem exec_spawn_of_limit {x : Args} {s u : State} {a : Actor} {t : Thread} {v : Vals} {d : Dest} {reason : Nat}
    (hi : Issues s (issOf (.spawn x)) none a t v d u) (hb : ∀ n, spawnBody n a t v u = .raise (spawnLimit reason) u) :
    exec (.spawn x) s = .next (u.raise a (siteOf u t (issOf (.spawn x)) v.all d true) (spawnLimit reason)) := by
  calc exec (.spawn x) s = _ := issue_of_issues (spawnBody _) hi
    _ = _ := by rw [hb, settle_raise]

/-- Settles O30: each limit by the lemma of the condition that fails first. -/
theorem spawnLimits : Obligations.SpawnLimits := by
  unfold Obligations.SpawnLimits
  intro x s a t v d u hi
  refine ⟨fun hk => ?_, fun k hk => ⟨fun hcalls => ?_, fun hcalls hdepth => ?_, fun hcalls hdepth hts => ?_⟩⟩
  · exact exec_spawn_of_limit hi fun _ => spawnBody_outside_task hk
  · exact exec_spawn_of_limit hi fun _ => spawnBody_calls_spent hk hcalls
  · exact exec_spawn_of_limit hi fun _ => spawnBody_deepest hk hcalls hdepth
  · exact exec_spawn_of_limit hi fun _ => spawnBody_earlier_timestamp hk hcalls hdepth hts

end Sys2Proof.Safety

/-! ## The vale scheduler's choice

The scheduler's choice is the least by age of one of two lists: every eligible vale where one is overdue, else those with the most
waiting rays. What the least of a list and the greatest of a measure are is said once; the choice is then read off. -/

namespace Sys2Proof.Machine

section
variable {α : Type} {f : α → Nat}

theorem exists_leastBy_eq_some {l : List α} (h : l ≠ []) : ∃ y, leastBy f l = some y := by
  cases l with
  | nil => exact absurd rfl h
  | cons x r =>
    unfold leastBy
    split
    · exact ⟨x, rfl⟩
    · split <;> exact ⟨_, rfl⟩

/-- The least of a list stands in it, and no element has less. -/
theorem leastBy_eq_some {l : List α} {y : α} (h : leastBy f l = some y) : y ∈ l ∧ ∀ x ∈ l, f y ≤ f x := by
  induction l generalizing y with
  | nil => simp [leastBy] at h
  | cons x r ih =>
    cases hr : leastBy f r with
    | none =>
      obtain rfl : r = [] := by
        refine Decidable.of_not_not fun hne => ?_
        obtain ⟨z, hz⟩ := exists_leastBy_eq_some (f := f) hne
        cases hr.symm.trans hz
      obtain rfl : x = y := by simpa [leastBy] using h
      simp
    | some z =>
      obtain ⟨hz, hmin⟩ := ih hr
      by_cases hlt : f z < f x
      · obtain rfl : z = y := by simpa [leastBy, hr, hlt] using h
        exact ⟨List.mem_cons_of_mem x hz, List.forall_mem_cons.mpr ⟨Nat.le_of_lt hlt, hmin⟩⟩
      · obtain rfl : x = y := by simpa [leastBy, hr, hlt] using h
        have hle : f x ≤ f z := Nat.le_of_not_lt hlt
        exact ⟨List.mem_cons_self, List.forall_mem_cons.mpr ⟨Nat.le_refl _, fun w hw => Nat.le_trans hle (hmin w hw)⟩⟩

/-- A running maximum bounds what it has seen, and is its start or the measure of an element. -/
theorem foldl_max_bounds (f : α → Nat) (l : List α) (n : Nat) :
    let m := l.foldl (fun n x => max n (f x)) n
    n ≤ m ∧ (∀ x ∈ l, f x ≤ m) ∧ (m = n ∨ ∃ x ∈ l, f x = m) := by
  induction l generalizing n with
  | nil => simp
  | cons x r ih =>
    obtain ⟨hstart, hall, hsome⟩ := ih (max n (f x))
    simp only [List.foldl_cons]
    refine ⟨by omega, List.forall_mem_cons.mpr ⟨by omega, hall⟩, ?_⟩
    rcases hsome with heq | ⟨y, hy, heq⟩
    · rw [heq]
      rcases Nat.le_total (f x) n with hle | hle
      · exact .inl (Nat.max_eq_left hle)
      · exact .inr ⟨x, List.mem_cons_self, (Nat.max_eq_right hle).symm⟩
    · exact .inr ⟨y, List.mem_cons_of_mem x hy, heq⟩

end

/-- The most waiting rays of a vale of a list. -/
def mostWaiting (l : List Eligible) : Nat := l.foldl (fun n e => max n e.count) 0

theorem count_le_mostWaiting {l : List Eligible} {e : Eligible} (h : e ∈ l) : e.count ≤ mostWaiting l :=
  (foldl_max_bounds (·.count) l 0).2.1 e h

theorem exists_count_eq_mostWaiting {l : List Eligible} (h : l ≠ []) : ∃ e ∈ l, e.count = mostWaiting l := by
  obtain ⟨e, he⟩ := List.exists_mem_of_ne_nil l h
  rcases (foldl_max_bounds (·.count) l 0).2.2 with hzero | hsome
  · have none : mostWaiting l = 0 := hzero
    exact ⟨e, he, Nat.le_antisymm (count_le_mostWaiting he) (by omega)⟩
  · exact hsome

/-- With an overdue vale the eldest is chosen (R399). -/
theorem chooseVale_of_aged {l : List Eligible} (h : ∃ x ∈ l, x.aged = true) : chooseVale l = leastBy (·.seq) l :=
  if_pos (by simpa using h)

/-- With none the eldest of those with the most waiting rays is (R399). -/
theorem chooseVale_of_none_aged {l : List Eligible} (h : ∀ x ∈ l, x.aged = false) :
    chooseVale l = leastBy (·.seq) (l.filter (fun e => e.count == mostWaiting l)) :=
  if_neg (by simpa using h)

theorem aged_or_none_aged (l : List Eligible) : (∃ x ∈ l, x.aged = true) ∨ ∀ x ∈ l, x.aged = false := by
  by_cases h : ∃ x ∈ l, x.aged = true
  · exact .inl h
  · exact .inr (by simpa using h)

theorem exists_chooseVale_eq_some {l : List Eligible} (h : l ≠ []) : ∃ e, chooseVale l = some e := by
  rcases aged_or_none_aged l with haged | hnone
  · rw [chooseVale_of_aged haged]
    exact exists_leastBy_eq_some h
  · obtain ⟨e, he, hmost⟩ := exists_count_eq_mostWaiting h
    rw [chooseVale_of_none_aged hnone]
    exact exists_leastBy_eq_some (List.ne_nil_of_mem (List.mem_filter.mpr ⟨he, by simpa using hmost⟩))

/-- Of the vales with the most waiting rays the chosen one is the eldest. -/
theorem chooseVale_eq_some_of_none_aged {l : List Eligible} {e : Eligible} (h : chooseVale l = some e) (hnone : ∀ x ∈ l, x.aged = false) :
    e ∈ l ∧ ∀ x ∈ l, x.count ≤ e.count ∧ (x.count = e.count → e.seq ≤ x.seq) := by
  rw [chooseVale_of_none_aged hnone] at h
  obtain ⟨hmem, hleast⟩ := leastBy_eq_some h
  obtain ⟨he, hmost⟩ : e ∈ l ∧ e.count = mostWaiting l := by simpa using hmem
  refine ⟨he, fun x hx => ⟨hmost ▸ count_le_mostWaiting hx, fun hcount => hleast x ?_⟩⟩
  simpa using And.intro hx (hcount.trans hmost)

end Sys2Proof.Machine

namespace Sys2Proof.Safety

open Sys2Proof.Machine

/-- Settles O32: the choice is the least by sequence number of the list that R399 names. -/
theorem valeChoice : Obligations.ValeChoice := by
  unfold Obligations.ValeChoice
  refine ⟨fun l => exists_chooseVale_eq_some, fun l e h => ?_⟩
  have eldest (haged : ∃ x ∈ l, x.aged = true) : e ∈ l ∧ ∀ x ∈ l, e.seq ≤ x.seq :=
    leastBy_eq_some (chooseVale_of_aged haged ▸ h)
  have fullest := chooseVale_eq_some_of_none_aged h
  refine ⟨?_, fun haged => (eldest haged).2, fun hnone => (fullest hnone).2⟩
  rcases aged_or_none_aged l with haged | hnone
  · exact (eldest haged).1
  · exact (fullest hnone).1

end Sys2Proof.Safety

/-! ## Taking a cause

A cause enters the handler in one state: the thread leaves what it waits for, which touches no memory, no register and no packet, and
stands at HENTRY with the filled trap record. The words saved in the record are read back by their numbers. -/

namespace Sys2Proof.Machine

/-! ### The words of the trap record (R438) -/

/-- A word saved from a list is read at its number. -/
theorem cget_numbered (l : List Word) (n i : Nat) : cget 0 (numbered n l) i = if n ≤ i then l.getD (i - n) 0 else 0 := by
  induction l generalizing n with
  | nil => simp [numbered, cget]
  | cons w r ih =>
    have later (hne : i ≠ n) : cget 0 (numbered (n + 1) r) i = if n ≤ i then (w :: r).getD (i - n) 0 else 0 := by
      rw [ih]
      by_cases hle : n ≤ i
      · obtain ⟨k, rfl⟩ : ∃ k, i = n + 1 + k := ⟨i - (n + 1), by omega⟩
        rw [if_pos (by omega), if_pos (by omega), show n + 1 + k - n = k + 1 by omega, Nat.add_sub_cancel_left, List.getD_cons_succ]
      · rw [if_neg (by omega), if_neg hle]
    unfold numbered
    by_cases hi : i = n
    · subst hi
      split
      next hw =>
        rw [ih, if_neg (by omega), if_pos (Nat.le_refl _), Nat.sub_self, hw]
        rfl
      next => simp [cget]
    · split
      · exact later hi
      · rw [cget, if_neg hi]
        exact later hi

/-- The saved registers: those below the register count, else zero. -/
theorem cget_numbered_regs (t : Thread) {i : Nat} (hi : i < 8) :
    cget 0 (numbered 0 ((List.range 8).map (fun i => if i < t.nregs then cget 0 t.regs i else 0))) i =
      if i < t.nregs then cget 0 t.regs i else 0 := by
  rw [cget_numbered, if_pos (Nat.zero_le _), Nat.sub_zero, List.getD_eq_getElem?_getD]
  simp [hi]

/-- The captured sources, up to OPND15. -/
theorem cget_numbered_srcs (l : List Word) {i : Nat} (hi : i < 16) : cget 0 (numbered 0 (l.take 16)) i = l.getD i 0 := by
  rw [cget_numbered, if_pos (Nat.zero_le _), Nat.sub_zero, List.getD_eq_getElem?_getD, List.getElem?_take_of_lt hi, List.getD_eq_getElem?_getD]

/-! ### Leaving a wait (R36, R352) -/

section
variable (s : State)

@[simp] theorem State.queueChanged_mem (q : Nat) : (s.queueChanged q).mem = s.mem := by
  unfold State.queueChanged
  split
  · split <;> rfl
  · rfl

@[simp] theorem State.unform_mem (a : Actor) : (s.unform a).mem = s.mem := by
  unfold State.unform
  split <;> rfl

@[simp] theorem State.dropReads_mem (a : Actor) : (s.dropReads a).mem = s.mem :=
  List.foldlRecOn (motive := fun u : State => u.mem = s.mem) _ _ rfl fun u hu q _ => (u.queueChanged_mem q).trans hu

@[simp] theorem State.leaveWait_mem (a : Actor) : (s.leaveWait a).mem = s.mem :=
  (State.dropReads_mem _ a).trans (s.unform_mem a)

end

/-! ### Entering the handler (R436) -/

/-- A thread that has entered its handler with a trap record. -/
def Thread.entered (t : Thread) (r : TrapRec) (hentry : Dword) (w : Wait) (now : Nat) : Thread :=
  { t.closeRegion with
    met := none, trap := r, pc := hentry, inHandler := true, handlerCycles := 0, pending := none, wait := w, elig := now,
    replay := none, parcels := [], log := none, stepping := 0, reissuing := false, yielded := none }

section
variable {s : State} {a : Actor} {t : Thread}

theorem State.enterHandler_of_thread (h : s.thread? a = some t) (r : TrapRec) : s.enterHandler a r =
    (s.leaveWait a).setThread a (t.entered r (s.pktOf t).hentry ((s.leaveWait a).restWait a) (s.cycle (s.issuerOf a))) := by
  simp only [State.enterHandler, h]
  rfl

theorem State.thread?_enterHandler_self (h : s.thread? a = some t) (r : TrapRec) : (s.enterHandler a r).thread? a =
    some (t.entered r (s.pktOf t).hentry ((s.enterHandler a r).restWait a) (s.cycle (s.issuerOf a))) := by
  rw [State.enterHandler_of_thread h, State.thread?_setThread, if_pos rfl]
  rfl

@[simp] theorem State.enterHandler_mem (s : State) (a : Actor) (r : TrapRec) : (s.enterHandler a r).mem = s.mem := by
  cases h : s.thread? a with
  | none => simp only [State.enterHandler, h]
  | some t => rw [State.enterHandler_of_thread h, State.setThread_mem, State.leaveWait_mem]

end

/-! ### What a cause counts (R460) -/

section
variable (s : State) (off : Nat)

@[simp] theorem State.countMg_mem : (s.countMg off).mem = s.mem := by
  unfold State.countMg
  split <;> rfl

@[simp] theorem State.countMg_flights : (s.countMg off).flights = s.flights := by
  unfold State.countMg
  split <;> rfl

@[simp] theorem State.countMg_threads : (s.countMg off).threads = s.threads := by
  unfold State.countMg
  split <;> rfl

@[simp] theorem State.countMg_launches : (s.countMg off).launches = s.launches := by
  unfold State.countMg
  split <;> rfl

@[simp] theorem State.thread?_countMg (a : Actor) : (s.countMg off).thread? a = s.thread? a := by
  rw [State.thread?, State.countMg_threads, State.thread?]

end

/-- A SOFT_ERROR that is raised is counted on its core (R460). -/
def State.countRaised (s : State) (a : Actor) (c : Cause) : State :=
  if c.code = 0xA3 then s.countMg (coreBlock (s.coreOf a) + 0x304) else s

section
variable (s : State) (a : Actor) (c : Cause)

@[simp] theorem State.countRaised_mem : (s.countRaised a c).mem = s.mem := by
  unfold State.countRaised
  split <;> simp

@[simp] theorem State.thread?_countRaised (b : Actor) : (s.countRaised a c).thread? b = s.thread? b := by
  unfold State.countRaised
  split <;> simp

@[simp] theorem State.pktOf_countRaised (t : Thread) : (s.countRaised a c).pktOf t = s.pktOf t := by
  unfold State.countRaised
  split <;> simp [State.pktOf, State.launch?]

@[simp] theorem State.settled_countRaised (b : Actor) : (s.countRaised a c).settled b = s.settled b := by
  unfold State.countRaised
  split <;> simp [State.settled, State.flightsOf]

end

/-- Out of the handler, with settled results and no task behind the frontier, a cause enters the handler (R436). -/
theorem State.raise_of_settled {s : State} {r : TRef} {t : Thread} (x : Site) (c : Cause) (ht : s.thread? (.thread r) = some t)
    (hout : t.inHandler = false) (hfirst : t.reissuing = false) (hspec : s.speculative (.thread r) = false)
    (hset : s.settled (.thread r) = true) :
    s.raise (.thread r) x c = (s.countRaised (.thread r) c).enterHandler (.thread r) (fillTrap t x c) := by
  have settled : (s.countRaised (.thread r) c).settled (.thread r) = true := by simpa using hset
  unfold State.countRaised at settled ⊢
  simp only [State.raise, ht, hout, hfirst, hspec, Bool.false_and, Bool.false_eq_true, if_false, settled, if_true]

end Sys2Proof.Machine

namespace Sys2Proof.Safety

open Sys2Proof.Machine

/-- Settles O53: the thread has entered its handler with the record filled at the instruction. -/
theorem trapEntryRecord : Obligations.TrapEntryRecord := by
  unfold Obligations.TrapEntryRecord
  intro s r t x c ht hout hfirst hspec hset hnext
  have entered := State.thread?_enterHandler_self ((s.thread?_countRaised (.thread r) c (.thread r)).trans ht) (fillTrap t x c)
  rw [State.raise_of_settled x c ht hout hfirst hspec hset]
  refine ⟨_, entered, rfl, ?_, rfl, rfl, rfl, ?_, rfl, rfl, rfl, rfl, rfl, rfl, rfl, fun i => cget_numbered_regs t,
    fun i => cget_numbered_srcs x.srcs, rfl, rfl, by simp⟩
  · exact congrArg Packet.hentry (s.pktOf_countRaised _ c t)
  · simp [Thread.entered, fillTrap, hnext]

end Sys2Proof.Safety

/-! ## Leaving the handler

HRESUME and HRET put back what the entry saved; HRET then writes the destinations of the faulting instruction. What a write of a
destination leaves of its thread is said once for every kind of destination, and what it does to the registers for a single one. -/

namespace Sys2Proof.Machine

open Sys2Proof.Safety

/-! ### What the handler puts back (R440) -/

/-- Registers written one after another change the registers, and what is noted as written, alone. -/
theorem Thread.foldl_setReg (g : Nat → Word) (l : List Nat) (t : Thread) :
    ∃ noted, l.foldl (fun (u : Thread) i => if i < u.nregs then u.setReg i (g i) else u) t =
      { t with regs := l.foldl (fun r i => if i < t.nregs then cset 0 r i (g i) else r) t.regs, written := noted } := by
  induction l generalizing t with
  | nil => exact ⟨t.written, rfl⟩
  | cons i r ih =>
    rw [List.foldl_cons, List.foldl_cons]
    by_cases hi : i < t.nregs
    · rw [if_pos hi, if_pos hi]
      exact ih (t.setReg i (g i))
    · rw [if_neg hi, if_neg hi]
      exact ih t

/-- The predicates put back: p0-p7 as they were saved, the others as they stand. -/
def Thread.predsBack (t : Thread) : BitVec 24 := (t.preds &&& ~~~0xFF) ||| (t.trap.savep &&& 0xFF).setWidth 24

theorem Thread.restoreSaved_eq (t : Thread) : ∃ noted, t.restoreSaved =
    { t with regs := restored t, written := noted, preds := t.predsBack, inHandler := false, handlerCycles := 0 } := by
  obtain ⟨noted, h⟩ := t.foldl_setReg (fun i => cget 0 t.trap.savev i) (List.range 8)
  refine ⟨noted, ?_⟩
  rw [Thread.restoreSaved, h]
  rfl

section
variable (t : Thread)

@[simp] theorem Thread.restoreSaved_regs : t.restoreSaved.regs = restored t := by
  obtain ⟨noted, h⟩ := t.restoreSaved_eq
  rw [h]

@[simp] theorem Thread.restoreSaved_preds : t.restoreSaved.preds = t.predsBack := by
  obtain ⟨noted, h⟩ := t.restoreSaved_eq
  rw [h]

@[simp] theorem Thread.restoreSaved_chans : t.restoreSaved.chans = t.chans := by
  obtain ⟨noted, h⟩ := t.restoreSaved_eq
  rw [h]

@[simp] theorem Thread.restoreSaved_pc : t.restoreSaved.pc = t.pc := by
  obtain ⟨noted, h⟩ := t.restoreSaved_eq
  rw [h]

@[simp] theorem Thread.restoreSaved_inHandler : t.restoreSaved.inHandler = false := by
  obtain ⟨noted, h⟩ := t.restoreSaved_eq
  rw [h]

end

/-- The mask of the low byte. -/
theorem getLsbD_lowByte {w c : Nat} (hc : c < w) : (0xFF : BitVec w).getLsbD c = decide (c < 8) := by
  change (BitVec.ofNat w (2 ^ 8 - 1)).getLsbD c = _
  rw [BitVec.getLsbD_ofNat, Nat.testBit_two_pow_sub_one, decide_eq_true hc, Bool.true_and]

theorem Thread.getLsbD_predsBack (t : Thread) {c : Nat} (hc : c < 24) :
    t.predsBack.getLsbD c = if c < 8 then t.trap.savep.getLsbD c else t.preds.getLsbD c := by
  have hmask := getLsbD_lowByte hc
  have hmaskWord := getLsbD_lowByte (w := 32) (c := c) (by omega)
  rw [Thread.predsBack, BitVec.getLsbD_or, BitVec.getLsbD_and, BitVec.getLsbD_not, BitVec.getLsbD_setWidth, BitVec.getLsbD_and,
    hmask, hmaskWord]
  by_cases h8 : c < 8 <;> simp [hc, h8]

/-! ### An instruction that has issued -/

/-- A thread that has issued and moved to `pc`, eligible from the cycle after `now`. -/
def Thread.issuedAt (t : Thread) (next : Nat) (pc : Dword) (now : Nat) : Thread := { t.afterIssue next with pc := pc, elig := now + 1 }

section
variable (t : Thread) (next : Nat) (pc : Dword) (now : Nat)

@[simp] theorem Thread.issuedAt_pc : (t.issuedAt next pc now).pc = pc := rfl
@[simp] theorem Thread.issuedAt_trap : (t.issuedAt next pc now).trap = t.trap := rfl
@[simp] theorem Thread.restored_issuedAt : restored (t.issuedAt next pc now) = restored t := rfl
@[simp] theorem Thread.predsBack_issuedAt : (t.issuedAt next pc now).predsBack = t.predsBack := rfl

end

theorem State.thread?_issued_self {s : State} {a : Actor} {t : Thread} (h : s.thread? a = some t) (n : Nat) (pc : Dword) :
    (s.issued a n pc).thread? a = some (t.issuedAt s.next pc (s.cycle (s.issuerOf a))) :=
  State.thread?_updThread_self (s := s.tickWindows a n) h _

@[simp] theorem State.issued_mem (s : State) (a : Actor) (n : Nat) (pc : Dword) : (s.issued a n pc).mem = s.mem :=
  State.updThread_mem (s.tickWindows a n) a _

/-! ### What a write of a destination leaves alone (R107, R108) -/

/-- From `s` to `w` memory stays, the thread of `a` its program counter and its place in or out of the handler, and where `k` holds
its predicates. -/
structure WritesResult (a : Actor) (k : Prop) (s w : State) : Prop where
  mem : w.mem = s.mem
  thread : ∀ t, s.thread? a = some t → ∃ t', w.thread? a = some t' ∧ t'.pc = t.pc ∧ t'.inHandler = t.inHandler ∧ (k → t'.preds = t.preds)

namespace WritesResult

variable {a : Actor} {k k' : Prop} {s u w : State}

theorem of_same (hmem : w.mem = s.mem) (hthread : w.thread? a = s.thread? a) : WritesResult a k s w :=
  ⟨hmem, fun t ht => ⟨t, hthread.trans ht, rfl, rfl, fun _ => rfl⟩⟩

theorem trans (h : WritesResult a k s u) (h' : WritesResult a k u w) : WritesResult a k s w := by
  refine ⟨h'.mem.trans h.mem, fun t ht => ?_⟩
  obtain ⟨t1, ht1, hpc1, hin1, hpreds1⟩ := h.thread t ht
  obtain ⟨t2, ht2, hpc2, hin2, hpreds2⟩ := h'.thread t1 ht1
  exact ⟨t2, ht2, hpc2.trans hpc1, hin2.trans hin1, fun hk => (hpreds2 hk).trans (hpreds1 hk)⟩

theorem mono (hk : k' → k) (h : WritesResult a k s w) : WritesResult a k' s w := by
  refine ⟨h.mem, fun t ht => ?_⟩
  obtain ⟨t', ht', hpc, hin, hpreds⟩ := h.thread t ht
  exact ⟨t', ht', hpc, hin, fun hk' => hpreds (hk hk')⟩

/-- A change of a thread, of `a` or of another, that keeps them. -/
theorem updThread (s : State) (b : Actor) {f : Thread → Thread} (hpc : ∀ t, (f t).pc = t.pc)
    (hin : ∀ t, (f t).inHandler = t.inHandler) (hpreds : k → ∀ t, (f t).preds = t.preds) : WritesResult a k s (s.updThread b f) := by
  refine ⟨s.updThread_mem b f, fun t ht => ?_⟩
  by_cases hb : a = b
  · subst hb
    exact ⟨f t, State.thread?_updThread_self ht f, hpc t, hin t, fun hk => hpreds hk t⟩
  · exact ⟨t, by simpa [hb] using ht, rfl, rfl, fun _ => rfl⟩

end WritesResult

/-- A ring that a register belongs to, spoilt by an ordinary write of it, changes registers alone, and no register outside the ring. -/
theorem Thread.spoilRings_eq (t : Thread) (code : Nat) (free : Nat → Word) :
    ∃ regs, t.spoilRings code free = { t with regs := regs } ∧
      ∀ m, ¬sharesRing t code m → cget 0 regs m = cget 0 t.regs m := by
  refine List.foldlRecOn (motive := fun u : Thread => ∃ regs, u = { t with regs := regs } ∧
    ∀ m, ¬sharesRing t code m → cget 0 regs m = cget 0 t.regs m) _ _ ⟨t.regs, rfl, fun _ _ => rfl⟩ ?_
  rintro _ ⟨regs, rfl, hregs⟩ e he
  dsimp only
  split
  next base depth hkind =>
    split
    next hcode =>
      refine ⟨_, rfl, fun m hm => ?_⟩
      have outside : ¬(base ≤ m ∧ m < base + depth) := fun ⟨hlo, hhi⟩ =>
        hm ⟨e, he, base, depth, hkind, hcode.1, hcode.2, hlo, hhi⟩
      refine List.foldlRecOn (motive := fun r => cget 0 r m = cget 0 t.regs m) _ _ (hregs m hm) fun r hr i hi => ?_
      have hlt : i < depth := List.mem_range.mp hi
      rw [cget_cset, if_neg (by omega), hr]
    next => exact ⟨regs, rfl, hregs⟩
  next => exact ⟨regs, rfl, hregs⟩

section
variable (s : State) (a : Actor) (k : Prop)

theorem State.writeReg_writesResult (code : Nat) (v : Word) : WritesResult a k s (s.writeReg a code v) := by
  unfold State.writeReg
  split
  · refine .updThread s a (fun t => ?_) (fun t => ?_) fun _ t => ?_ <;>
      (obtain ⟨regs, h, -⟩ := t.spoilRings_eq code s.fw; rw [h]; rfl)
  · exact .of_same rfl rfl

theorem State.writeRegs_writesResult (code : Nat) (ws : List Word) : WritesResult a k s (s.writeRegs a code ws) := by
  induction ws generalizing s code with
  | nil => exact .of_same rfl rfl
  | cons w r ih => exact (s.writeReg_writesResult a k code w).trans (ih _ _)

theorem State.armRestart_writesResult (crew : Nat) : WritesResult a k s (s.armRestart crew) := by
  unfold State.armRestart
  split
  · split <;> exact .of_same rfl rfl
  · exact .of_same rfl rfl

theorem State.fillPlace_writesResult (c p : Nat) (v : Word) : WritesResult a k s (s.fillPlace a c p v) := by
  refine WritesResult.trans (.updThread s (s.chanOwner a c) (fun _ => ?_) (fun _ => ?_) fun _ _ => ?_)
    (.updThread _ _ (fun _ => ?_) (fun _ => ?_) fun _ _ => ?_) <;> rfl

theorem State.writePush_writesResult (d : Dest) (w : Word) : WritesResult a k s (s.writePush a d w) := by
  unfold State.writePush
  split
  · exact s.fillPlace_writesResult a k _ _ w
  · exact .of_same rfl rfl
  · exact .of_same rfl rfl
  · exact .of_same rfl rfl

/-- A destination that writes no predicate. -/
def Dest.noPred (d : Dest) : Prop := (∀ n, d ≠ .pred n) ∧ ∀ c n, d ≠ .regPred c n

theorem State.writeDest_writesResult (d : Dest) (ws : List Word) : WritesResult a d.noPred s (s.writeDest a d ws) := by
  cases d with
  | none => exact .of_same rfl rfl
  | reg c => exact s.writeRegs_writesResult a _ c _
  | pair c => exact s.writeRegs_writesResult a _ c _
  | run c n => exact s.writeRegs_writesResult a _ c _
  | pred n => exact .updThread s a (fun _ => rfl) (fun _ => rfl) fun hk => absurd rfl (hk.1 n)
  | regPred c n =>
    exact (s.writeRegs_writesResult a _ c _).trans
      (.updThread _ a (fun _ => rfl) (fun _ => rfl) fun hk => absurd rfl (hk.2 c n))
  | chan c p => exact (s.writePush_writesResult a _ _ _).trans (State.armRestart_writesResult _ a _ _)
  | send i => exact (s.writePush_writesResult a _ _ _).trans (State.armRestart_writesResult _ a _ _)
  | post i => exact (s.writePush_writesResult a _ _ _).trans (State.armRestart_writesResult _ a _ _)

/-! ### HRET's writes (R440) -/

theorem State.hretDest_writesResult (n : Nat) (d : Dest) (lo hi res0 : Word) :
    WritesResult a d.noPred s (s.hretDest a n d lo hi res0) := by
  unfold State.hretDest
  split
  · split <;> exact s.writeDest_writesResult a _ _
  · exact .of_same rfl rfl

theorem State.hretWrites_writesResult (n : Nat) (r : TrapRec) :
    WritesResult a (∀ d ∈ r.dests, d.noPred) s (s.hretWrites a n r) := by
  unfold State.hretWrites
  split
  · exact .of_same rfl rfl
  · split
    next => exact .of_same rfl rfl
    next d h => exact (s.hretDest_writesResult a n d _ _ _).mono fun hk => hk d (by simp [h])
    next d e _ h =>
      exact ((s.hretDest_writesResult a n d _ _ _).mono fun hk => hk d (by simp [h])).trans
        ((State.hretDest_writesResult _ a n e _ _ _).mono fun hk => hk e (by simp [h]))

variable {s a} {n : Nat} {r : TrapRec}

theorem State.hretWrites_of_no_dest (h : r.dests = []) : s.hretWrites a n r = s := by
  simp [State.hretWrites, h]

/-- A single register that the thread has takes RES0. -/
theorem State.hretWrites_of_reg {c : Nat} (hfetch : r.fetch = false) (h : r.dests = [.reg c]) (hin : c < n) (hc : c < 224) :
    s.hretWrites a n r = s.updThread a (fun t => (t.spoilRings c s.fw).setReg c r.res0) := by
  simp [State.hretWrites, hfetch, h, State.hretDest, Dest.inside, Dest.codes, hin, hc, State.writeDest, State.writeRegs, State.writeReg]

end

end Sys2Proof.Machine

namespace Sys2Proof.Safety

open Sys2Proof.Machine

@[simp] theorem settle_gone (s : State) (a : Actor) (t : Thread) (p : Iss) (d : Dest) (srcs : List Word) (w : State) :
    s.settle a t p d srcs (.gone w) = w := rfl

/-- The thread of HRET as its destinations are to be written: what was saved is put back. -/
def hretThread (t : Thread) : Thread := { t.restoreSaved with got := t.got.filter (fun g => g.1 != t.trap.fpc) }

@[simp] theorem hretThread_regs (t : Thread) : (hretThread t).regs = restored t := by
  simp only [hretThread, Thread.restoreSaved_regs]

@[simp] theorem hretThread_preds (t : Thread) : (hretThread t).preds = t.predsBack := by
  simp only [hretThread, Thread.restoreSaved_preds]

@[simp] theorem hretThread_chans (t : Thread) : (hretThread t).chans = t.chans := by
  simp only [hretThread, Thread.restoreSaved_chans]

@[simp] theorem hretThread_pc (t : Thread) : (hretThread t).pc = t.pc := by
  simp only [hretThread, Thread.restoreSaved_pc]

@[simp] theorem hretThread_inHandler (t : Thread) : (hretThread t).inHandler = false := by
  simp only [hretThread, Thread.restoreSaved_inHandler]

/-- HRET writes its destinations with its thread past the faulting instruction. -/
theorem exec_hret_of_issues {x : Args} {s u : State} {a : Actor} {t : Thread} {v : Vals} {d : Dest}
    (hi : Issues s (issOf (.hret x)) none a t v d u) (ht : u.thread? a = some t) : ∃ w : State,
      exec (.hret x) s = .next (w.hretWrites a t.nregs t.trap) ∧ w.mem = u.mem ∧ w.thread? a =
        some (hretThread (t.issuedAt u.next (t.trap.fpc + dword t.trap.len) (u.cycle (u.issuerOf a)))) := by
  have issued := State.thread?_issued_self ht (issOf (.hret x)).count (t.trap.fpc + dword t.trap.len)
  exact ⟨_, issue_of_issues _ hi, by simp, State.thread?_updThread_self issued _⟩

/-- The register that HRET writes takes its word; the others stand as they were put back, but for a ring it belongs to. -/
theorem hretThread_setReg (t : Thread) (n : Nat) (v : Word) (free : Nat → Word) :
    cget 0 (((hretThread t).spoilRings n free).setReg n v).regs n = v ∧
      ∀ m, m ≠ n → ¬sharesRing t n m → cget 0 (((hretThread t).spoilRings n free).setReg n v).regs m = cget 0 (restored t) m := by
  obtain ⟨regs, hspoilt, hregs⟩ := (hretThread t).spoilRings_eq n free
  rw [hspoilt]
  refine ⟨by simp [Thread.setReg, cget_cset], fun m hm hring => ?_⟩
  have other : ¬sharesRing (hretThread t) n m := by simpa [sharesRing] using hring
  calc cget 0 (Thread.setReg { hretThread t with regs := regs } n v).regs m = cget 0 regs m := by simp [Thread.setReg, cget_cset, hm]
    _ = cget 0 (hretThread t).regs m := hregs m other
    _ = cget 0 (restored t) m := by rw [hretThread_regs]

/-- Settles O34: HRESUME by what `Thread.resume` puts back, HRET by what the writes of its destinations leave alone. -/
theorem handlerReturns : Obligations.HandlerReturns := by
  unfold Obligations.HandlerReturns
  refine ⟨fun x s a t v d u hi ht => ?_, fun x s a t v d u hi ht => ?_⟩
  · -- HRESUME
    have issued := State.thread?_issued_self ht (issOf (.hresume x)).count (t.pc + dword (issOf (.hresume x)).len)
    refine ⟨_, _, issue_of_issues _ hi, State.thread?_updThread_self issued _, ?_, ?_, ?_, ?_, fun c hc => ?_, ?_, ?_⟩ <;>
      simp only [Thread.resume]
    · rfl
    · exact Thread.restoreSaved_inHandler _
    · simp [b2n]
    · exact Thread.restoreSaved_regs _
    · rw [Thread.restoreSaved_preds, Thread.predsBack_issuedAt, t.getLsbD_predsBack hc]
    · by_cases hagain : t.trap.epc = t.trap.fpc <;> simp [hagain]
    · simp
  · -- HRET
    obtain ⟨w, hexec, hmem, hthread⟩ := exec_hret_of_issues hi ht
    have written := w.hretWrites_writesResult a t.nregs t.trap
    obtain ⟨t', ht', hpc, hin, hpreds⟩ := written.thread _ hthread
    refine ⟨_, t', hexec, ht', ?_, ?_, written.mem.trans hmem, fun c hc hnone => ?_, fun hdests => ?_, fun n hfetch hdests hn hlow => ?_⟩
    · simpa using hpc
    · simpa using hin
    · have noPred : ∀ e ∈ t.trap.dests, e.noPred := fun e he =>
        ⟨fun n h => (hnone n).1 (h ▸ he), fun k n h => (hnone n).2 k (h ▸ he)⟩
      rw [hpreds noPred, hretThread_preds, Thread.predsBack_issuedAt, t.getLsbD_predsBack hc]
    · rw [State.hretWrites_of_no_dest hdests, hthread] at ht'
      obtain rfl := Option.some.inj ht'
      simp
    · rw [State.hretWrites_of_reg hfetch hdests hn hlow, State.thread?_updThread_self hthread] at ht'
      obtain rfl := Option.some.inj ht'
      exact hretThread_setReg _ n _ _

end Sys2Proof.Safety

/-! ## The handler's instructions and the steps of faults

The four instructions do what their bodies say under their own checks; each step of the trap and fault system answers one state under
its condition: one lemma per step. Which accesses TLBINV awaits and which lines it takes, the FPC of SINGLE_STEP, the watchdog's ACCESS
word, what a soft error leaves and the page a migration may not take are the model's reading (assumption logs 29, 31, 21, 32, 33). -/

namespace Sys2Proof.Machine

section
variable {s : State} {r : TRef} {t : Thread}

/-! ### Entry, watchdog, single step (R436, R437, R440) -/

/-- The words that TRAP_ENTRY saves in a pending record. -/
def TrapRec.withSaved (q : TrapRec) (t : Thread) : TrapRec :=
  { q with savep := word (t.preds.toNat % 256),
           savev := numbered 0 ((List.range 8).map (fun i => if i < t.nregs then cget 0 t.regs i else 0)) }

/-- A thread whose results have settled enters its handler with the pending record. -/
theorem execTrapEntry_of_settled {c : Cause} {q : TrapRec} (ht : s.thread? (.thread r) = some t) (hp : t.pending = some (c, q))
    (hres : s.resident (.thread r) = true) (hset : s.settled (.thread r) = true) (hlive : t.exited = false) :
    execTrapEntry r s = .next (s.enterHandler (.thread r) (q.withSaved t)) := by
  simp [execTrapEntry, ht, hp, hres, hset, hlive, TrapRec.withSaved]

/-- Past HLIMIT the thread ends with a record. -/
theorem execHandlerWatchdog_of_over (ht : s.thread? (.thread r) = some t) (hin : t.inHandler = true) (hlive : t.exited = false)
    (hres : s.resident (.thread r) = true) (hlim : s.ctxField t.ctx 44 4 ≠ 0) (hover : s.ctxField t.ctx 44 4 < t.handlerCycles) :
    execHandlerWatchdog r s = .next ((s.record t.ctx (recWords 6 0xA4 0 0 t.wid 0xFF 0 t.ctx)).exitThread (.thread r)) := by
  simp [execHandlerWatchdog, ht, hin, hlive, hres, hlim, hover]

theorem execSingleStep_of_whole (ht : s.thread? (.thread r) = some t) (h : s.stepWhole (.thread r) t = true) : execSingleStep r s =
    .next (s.raise (.thread r) (s.siteAt { t with pc := t.stepPc }) { code := 0xA1, epc := some t.pc }) := by
  simp [execSingleStep, ht, h]

/-! ### Soft errors (R451) -/

/-- The state in which a soft error has struck a register of a thread outside a region: the register holds a free word. -/
def State.regStruck (s : State) (a : Actor) (n : Nat) : State :=
  let u := s.countMg (coreCounter (s.coreOf a) 3)
  u.updThread a (fun t => { t with regs := cset 0 t.regs n (u.fw 1) })

/-- Outside a region the thread will raise SOFT_ERROR next. -/
theorem execSoftError_reg_of_no_region {n : Nat} (ht : s.thread? (.thread r) = some t) (hlive : t.exited = false)
    (hres : s.resident (.thread r) = true) (hn : n < t.nregs) (hlow : n < 224) (hreg : t.region = none) :
    execSoftError (.thread r) (.reg n) s =
      .next ((s.regStruck (.thread r) n).updThread (.thread r) (fun t => { t with softErr := some (t.softErr.getD (dword n)) })) := by
  simp [execSoftError, ht, hlive, hres, hn, hlow, State.softStrike, hreg, isVector, State.regStruck]

theorem State.thread?_regStruck_self {a : Actor} (h : s.thread? a = some t) (n : Nat) : ∃ v : Word,
    (s.regStruck a n).thread? a = some { t with regs := cset 0 t.regs n v } :=
  ⟨_, State.thread?_updThread_self ((s.thread?_countMg _ a).trans h) _⟩

end

section
variable {s : State} {n : Nat}

/-! ### Items and records (R449, R450) -/

/-- The first free item of its key that REPLAY has removed goes on, or ends with PAGE_NOT_PRESENT. -/
theorem execReplayItemProceed_of_first {i : Item} (hi : s.item? n = some i) (hst : i.st = .proceed ∨ i.st = .failed)
    (hfree : s.itemFree i = true)
    (hfirst : ∀ j ∈ s.items, j.id < n → j.key = i.key → j.table = i.table → j.st = i.st → s.itemFree j = false) :
    execReplayItemProceed n s = .next (s.itemProceed i (if i.st = .failed then some 0x40 else none)) := by
  have none_before : s.items.any (fun j => decide (j.id < n ∧ j.key = i.key ∧ j.table = i.table ∧ j.st = i.st) && s.itemFree j) = false := by
    simpa using hfirst
  unfold execReplayItemProceed
  rw [hi]
  rcases hst with hst | hst
  all_goals
    rw [hst] at none_before
    simp only [hst, none_before, hfree]
    rfl

/-- A record moves to a FAULTQ with room. -/
theorem execFaultRecordPush_of_room {r : FaultRec} {x : BQueue} (hr : s.records[n]? = some r)
    (hx : s.queue? (s.ctxField r.ctx 40 2) = some x) (hkind : x.kind = 1) (hsize : x.esize = 3) (hctx : x.ctx = r.ctx)
    (hrel : x.releasing = false) (hroom : x.room = true) : execFaultRecordPush n s =
      .next (({ s with records := s.records.eraseIdx n } : State).qInsert (s.ctxField r.ctx 40 2) r.words) := by
  simp only [execFaultRecordPush, hr, hx, hkind, hsize, hctx, hrel, hroom, and_self, if_true]

end

/-! ### Page migration (R447) -/

@[simp] theorem State.qTake_mem (s : State) (q n : Nat) : (s.qTake q n).mem = s.mem :=
  State.queueChanged_mem _ q

/-- The state in which a page's frame at `a` has moved to `b`, and its entry at `e` with it. -/
def State.migrated (s : State) (ctx va q a b e p : Nat) : State :=
  let u := ((s.qTake q 1).moveHome a b).homeWrite e 8 (p - a + b)
  { u with mtlb := u.mtlb.filter (fun t => !(t.covers (va / 2 ^ 56) ctx va)) }

theorem State.migrated_mem (s : State) (ctx va q a b e p : Nat) :
    (s.migrated ctx va q a b e p).mem = memWrite (moveFrame 0 1 a b s.mem) e 8 (p - a + b) :=
  congrArg (fun m => memWrite (moveFrame 0 1 a b m) e 8 (p - a + b)) (s.qTake_mem q 1)

theorem State.migrated_mtlb_not_covers {s : State} {ctx va q a b e p : Nat} {t : Tlb} (ht : t ∈ (s.migrated ctx va q a b e p).mtlb) :
    t.covers (va / 2 ^ 56) ctx va = false := by
  simpa using (List.mem_filter.mp ht).2

/-- A frame that is free again goes to the frame queue of its stack where that has room. -/
def State.frameBack (s : State) (a : Nat) : State :=
  let n := (s.mg (0x020 + 8 * (a / 2 ^ 36))).toNat % 65536
  match s.queue? n with
  | some x => if x.room && x.esize == 1 then s.qInsert n [word a, word (a / 2 ^ 32)] else s
  | none => s

/-- The frame of a page without a second entry moves, and the old one goes back. -/
theorem execPageMigrate_of_free {s : State} {ctx va stack p q b e : Nat} (hdie : va / 2 ^ 56 < 4) (hstack : stack < 8)
    (hleaf : s.walkCtx ctx va = .leaf 0 p) (hmig : p.testBit 7 = false) (hdev : pteAddr p < 2 ^ 39) (hother : pteAddr p / 2 ^ 36 ≠ stack)
    (hfree : s.freeFrame stack = some (q, b)) (hentry : leafAt s.mem 3 (s.root ctx (va / 2 ^ 56)) (va % 2 ^ 56) = some e)
    (halias : s.aliased (pteAddr p) e = false) :
    execPageMigrate ctx va stack s = .next ((s.migrated ctx va q (pteAddr p) b e p).frameBack (pteAddr p)) := by
  have movable : ¬(4 ≤ va / 2 ^ 56 ∨ 8 ≤ stack ∨ p.testBit 7 = true ∨ 2 ^ 39 ≤ pteAddr p ∨ pteAddr p / 2 ^ 36 = stack) := by
    simp only [hmig, Bool.false_eq_true, false_or]
    omega
  simp only [execPageMigrate, hleaf, if_neg movable, hfree, hentry, halias, Bool.false_eq_true, if_false]
  rfl

end Sys2Proof.Machine

namespace Sys2Proof.Safety

open Sys2Proof.Machine

/-! ### The instructions (R440, R446, R449) -/

theorem hinsp_completesAs (x : Args) : CompletesAs (.hinsp x) (fun _ => issOf (.hinsp x))
    (fun _ _ _ => if trapListed (immOf x.c) then none else some { code := 0x03 })
    (fun _ t _ u ws w => ws = [t.trap.wordAt (immOf x.c)] ∧ w = u) := by
  refine completesAs_of_issue (fun _ => rfl) ?_
  rintro s a t v u ws w - - ⟨rfl, rfl⟩
  rfl

theorem hpoke_completesAs (x : Args) : CompletesAs (.hpoke x) (fun _ => issOf (.hpoke x))
    (fun _ _ _ => if trapWritable (immOf x.c) then none else some { code := 0x03 })
    (fun a _ v u ws w => ws = [] ∧ w = u.updThread a (fun t => { t with trap := t.trap.poke (immOf x.c) (v.a.headD 0) })) := by
  refine completesAs_of_issue (fun _ => rfl) ?_
  rintro s a t v u ws w - - ⟨rfl, rfl⟩
  rfl

/-- What TLBINV drops and takes, by its form (R446). -/
theorem State.invalidate_of_form (s : State) (k ctx ea : Nat) : s.invalidate (invDrops k ctx ea) (invLines k ctx ea) =
    if k = 0 then s.invalidate (fun t => t.maps ctx ea) (fun l => l.ctx == ctx && 8 * l.gran / 65536 == ea / 65536)
    else if k = 1 then s.invalidate (fun t => t.ctx == ctx) (fun l => l.ctx == ctx)
    else s.invalidate (fun _ => true) (fun _ => true) := by
  by_cases h0 : k = 0
  · have drops : invDrops k ctx ea = fun t => t.maps ctx ea := funext fun _ => if_pos h0
    have lines : invLines k ctx ea = fun l => l.ctx == ctx && 8 * l.gran / 65536 == ea / 65536 := funext fun _ => if_pos h0
    rw [drops, lines, if_pos h0]
  · rw [if_neg h0]
    by_cases h1 : k = 1
    · have drops : invDrops k ctx ea = fun t => t.ctx == ctx := funext fun _ => (if_neg h0).trans (if_pos h1)
      have lines : invLines k ctx ea = fun l => l.ctx == ctx := funext fun _ => (if_neg h0).trans (if_pos h1)
      rw [drops, lines, if_pos h1]
    · have drops : invDrops k ctx ea = fun _ => true := funext fun _ => (if_neg h0).trans (if_neg h1)
      have lines : invLines k ctx ea = fun _ => true := funext fun _ => (if_neg h0).trans (if_neg h1)
      rw [drops, lines, if_neg h1]

/-- Settles O33: the instructions by their bodies, each step by the lemma that says what it answers under its condition. -/
theorem handlerInstructions : Obligations.HandlerInstructions := by
  unfold Obligations.HandlerInstructions
  refine ⟨⟨hinsp_completesAs, hpoke_completesAs, fun x => ?_, fun x => ?_⟩, fun s r t c q ht hp hres hset hlive => ?_,
    fun s r t ht hin hlive hres hlim hover => execHandlerWatchdog_of_over ht hin hlive hres hlim hover,
    fun s r t ht h => execSingleStep_of_whole ht h, fun s r t n ht hlive hres hn hlow hreg => ?_,
    fun s n i hi hst hfree hfirst => execReplayItemProceed_of_first hi hst hfree hfirst,
    fun s n r x hr hx hkind hsize hctx hrel hroom => execFaultRecordPush_of_room hr hx hkind hsize hctx hrel hroom,
    fun s ctx va stack p q b e hdie hstack hleaf hmig hdev hother hfree hentry halias => ?_⟩
  · -- REPLAY
    refine completesIf_of_issue (fun _ => rfl) ?_
    rintro a t v u ws w ⟨rfl, rfl⟩
    by_cases hpage : immOf x.c % 2 = 0 <;> simp [hpage, State.replayKey]
  · -- TLBINV
    refine completesIf_of_issue (fun _ => rfl) ?_
    rintro a t v u ws w ⟨rfl, hstale, rfl⟩
    rw [← State.invalidate_of_form]
    exact if_neg (hstale ▸ Bool.false_ne_true)
  · -- TRAP_ENTRY
    refine ⟨_, _, execTrapEntry_of_settled ht hp hres hset hlive, State.thread?_enterHandler_self ht _, rfl, rfl, rfl, rfl, rfl, rfl, rfl,
      rfl, fun i hi hn => ?_, State.enterHandler_mem ..⟩
    exact (cget_numbered_regs t hi).trans (if_pos hn)
  · -- SOFT_ERROR
    obtain ⟨v, hstruck⟩ := State.thread?_regStruck_self ht n
    refine ⟨_, _, execSoftError_reg_of_no_region ht hlive hres hn hlow hreg, State.thread?_updThread_self hstruck _, rfl, rfl,
      fun m hm => ?_⟩
    rw [cget_cset, if_neg hm]
  · -- PAGE_MIGRATE
    exact ⟨_, s.migrated_mem .., fun t ht => State.migrated_mtlb_not_covers ht,
      execPageMigrate_of_free hdie hstack hleaf hmig hdev hother hfree hentry halias⟩

end Sys2Proof.Safety

/-! ## Windows and service requests

A window command is ignored, or goes on its way to its slot's queue; a service request that firmware can read is taken and its
operation performed: one lemma for each of the two, and the operations' own conditions beside them. The layout of a snapshot, its
context 0 and the registers that WRITE reaches are the model's choices (assumption log 35). -/

namespace Sys2Proof.Machine

/-! ### Windows (R461, R462) -/

section
variable {s : State} {fn n : Nat}

/-- A command on its way from a slot to a queue; the slot is not done until it is performed. -/
def State.windowSent (s : State) (fn n : Nat) (x : BQueue) (op : QOp) : State :=
  State.setSlot { s with next := s.next + 1, qcmds := s.qcmds ++
    [{ id := s.next, q := x.id, sender := .window fn n, ctx := x.ctx, op := op, try' := true }] }
    { s.slot fn n with done := false, cmdQ := x.id }

theorem State.windowCmd_of_right {x : BQueue} {q : Nat} {right : BQueue → Bool} {op : BQueue → QOp} (hfn : s.fnOn fn = true) (hn : n < 16)
    (hd : (s.slot fn n).done = true) (hq : s.slotQueue fn n = some q) (hx : s.queue? q = some x) (hr : right x = true) :
    s.windowCmd fn n right op = s.windowSent fn n x (op x) := by
  have free : (!s.fnOn fn || decide (16 ≤ n) || !(s.slot fn n).done) = false := by simp [hfn, hd, hn]
  simp only [State.windowCmd, free, hq, Option.bind_some, hx, hr, Bool.false_eq_true, if_false, if_true]
  rfl

/-- While a command is in progress another is ignored. -/
theorem State.windowCmd_of_busy (right : BQueue → Bool) (op : BQueue → QOp) (hd : (s.slot fn n).done = false) :
    s.windowCmd fn n right op = s := by
  simp [State.windowCmd, hd]

theorem execWindowEntryWrite_of_done {i : Nat} (v : Word) (hfn : s.fnOn fn = true) (hn : n < 16) (hi : i < 8) (hd : (s.slot fn n).done = true) :
    execWindowEntryWrite fn n i v s = .next (s.setSlot { s.slot fn n with entry := (s.slot fn n).entry.set i v }) := by
  simp [execWindowEntryWrite, hfn, hn, hi, hd]

theorem execWindowEntryWrite_of_busy (i : Nat) (v : Word) (hd : (s.slot fn n).done = false) :
    execWindowEntryWrite fn n i v s = .next s := by
  simp [execWindowEntryWrite, hd]

end

/-! ### Service requests (R464, R472) -/

section
variable {s : State} {fn : Nat} {q : BQueue} {e : QEntry}

/-- The next request of a function, where it can be read and has the operation, is taken and run. -/
theorem State.service_of_request {op : Nat} (run : List Word → State → State) (hv : s.plat.verified = true)
    (hq : s.serviceQueue fn = some q) (he : q.next? = some e) (hbad : e.bad = false) (hop : wAt e.words 0 % 256 = op)
    (hknown : 1 ≤ op ∧ op ≤ 5) : s.service fn op run = run e.words (s.qTake q.id 1) := by
  have known : (e.bad || decide (op = 0 ∨ 5 < op)) = false := by
    rw [hbad, Bool.false_or, decide_eq_false_iff_not]
    omega
  simp only [State.service, hv, hq, he, hop, known, Bool.not_true, Bool.false_eq_true, if_false, if_true]

/-- A request for a page key of a context of the function frees that key's items. -/
theorem State.serviceReplay_of_page {w : List Word} (hpage : (w.getD 0 0).getLsbD 8 = false)
    (hctx : Config.ctxFunction (wAt w 4 % 65536) = fn) (fail : Bool) : s.serviceReplay fn w fail =
      s.replayKey (dAt w 2 / 2 ^ 56 % 8) (.page (wAt w 4 % 65536) (dAt w 2 / 65536 * 65536)) fail := by
  simp only [State.serviceReplay, hctx, hpage, ne_eq, not_true_eq_false, Bool.false_eq_true, if_false]

theorem execSnapshot_of_request (hv : s.plat.verified = true) (hq : s.serviceQueue 0 = some q) (he : q.next? = some e)
    (hbad : e.bad = false) (hop : wAt e.words 0 % 256 = 3) (hdie : dAt e.words 2 / 2 ^ 56 = 4) (hwin : (dAt e.words 2).testBit 55 = false)
    (hal : dAt e.words 2 % 4096 = 0) :
    execSnapshot 0 s = .next ((s.qTake q.id 1).ctxStore 0 (dAt e.words 2) (s.qTake q.id 1).snapshotWords) := by
  rw [execSnapshot, State.service_of_request _ hv hq he hbad hop (by decide)]
  simp only [hdie, hwin, hal, ne_eq, not_true_eq_false, Bool.false_eq_true, or_self, if_false]

theorem execWrite_of_request {n : Nat} (hv : s.plat.verified = true) (hq : s.serviceQueue 0 = some q) (he : q.next? = some e)
    (hbad : e.bad = false) (hop : wAt e.words 0 % 256 = 4) (hctl : ctlSize (wAt e.words 1) = some n) :
    execWrite 0 s = .next ((s.qTake q.id 1).mgWrite (wAt e.words 1) n (dAt e.words 2)) := by
  rw [execWrite, State.service_of_request _ hv hq he hbad hop (by decide)]
  simp only [hctl, ne_eq, not_true_eq_false, if_false]

/-! ### ATTEST (R470) -/

@[simp] theorem State.homeWrite_plat (s : State) (pa n v : Nat) : (s.homeWrite pa n v).plat = s.plat := rfl

@[simp] theorem State.storeBytes_plat (s : State) (pa : Nat) (l : List Byte) : (s.storeBytes pa l).plat = s.plat := by
  induction l generalizing s pa with
  | nil => rfl
  | cons b r ih => rw [State.storeBytes, ih, State.homeWrite_plat]

/-- The report on a nonce, signed. -/
def State.signedReport (s : State) (nonce : List Byte) : List Byte :=
  s.reportBody nonce ++ (Config.sm2Sign (s.reportBody nonce)).take 64

/-- The state in which a report, then DONE, stands in the buffer at `pa`. -/
def State.reported (s : State) (pa : Nat) : State :=
  (s.storeBytes (pa + 0x40) (s.signedReport (memBytes s.mem pa 32))).homeWrite (pa + 0x38) 8 1

theorem State.reported_plat (s : State) (pa : Nat) : (s.reported pa).plat = s.plat := by
  rw [State.reported, State.homeWrite_plat, State.storeBytes_plat]

/-- A report is counted once it is signed. -/
def State.countReport (s : State) : State := { s with plat := { s.plat with reports := s.plat.reports + 1 } }

@[simp] theorem State.countReport_mem (s : State) : s.countReport.mem = s.mem := rfl
@[simp] theorem State.countReport_reports (s : State) : s.countReport.plat.reports = s.plat.reports + 1 := rfl

theorem execAttest_of_request {pa : Nat} {u : State} (hv : s.plat.verified = true) (hq : s.serviceQueue fn = some q)
    (he : q.next? = some e) (hbad : e.bad = false) (hop : wAt e.words 0 % 256 = 5) (hfirst : s.attestFirst fn = true)
    (hctx : Config.ctxFunction (wAt e.words 4 % 65536) = fn) (hdie : dAt e.words 2 / 2 ^ 56 = 4) (hwin : (dAt e.words 2).testBit 55 = false)
    (hal : dAt e.words 2 % 4096 = 0)
    (htr : (s.qTake q.id 1).translate (wAt e.words 4 % 65536) .atomic (dword (dAt e.words 2)) = (.ok pa, u)) :
    execAttest fn s = .next (u.reported pa).countReport := by
  rw [execAttest, State.service_of_request _ hv hq he hbad hop (by decide)]
  simp only [hfirst, hctx, hdie, hwin, hal, htr, Bool.not_true, ne_eq, not_true_eq_false, Bool.false_eq_true, or_self, if_false]
  rfl

end

end Sys2Proof.Machine

namespace Sys2Proof.Safety

open Sys2Proof.Machine

/-- Settles O40: the window commands by what a slot lets through, each service by the request that is taken. -/
theorem windowAndServiceSteps : Obligations.WindowAndServiceSteps := by
  unfold Obligations.WindowAndServiceSteps
  refine ⟨⟨fun s fn n q x hfn hn hd hq hx hr => ?_, fun s fn n q x hfn hn hd hq hx hr => ?_,
      fun s fn n i v hfn hn hi hd => execWindowEntryWrite_of_done v hfn hn hi hd, fun s fn n hd => ⟨?_, ?_, fun i v => ?_⟩⟩,
    fun s fn q e hv hq he hbad hop hpage hctx => ?_, fun s fn q e hv hq he hbad hop hpage hctx => ?_,
    fun s q e hv hq he hbad hop hdie hwin hal => execSnapshot_of_request hv hq he hbad hop hdie hwin hal,
    fun s q e n hv hq he hbad hop hctl => execWrite_of_request hv hq he hbad hop hctl,
    fun s fn q e pa u hv hq he hbad hop hfirst hctx hdie hwin hal htr =>
      ⟨_, execAttest_of_request hv hq he hbad hop hfirst hctx hdie hwin hal htr, ?_, ?_⟩⟩
  · -- WINDOW_PUSH
    exact congrArg Host.Outcome.next (State.windowCmd_of_right hfn hn hd hq hx hr)
  · -- WINDOW_POP
    exact congrArg Host.Outcome.next (State.windowCmd_of_right hfn hn hd hq hx hr)
  · exact congrArg Host.Outcome.next (State.windowCmd_of_busy _ _ hd)
  · exact congrArg Host.Outcome.next (State.windowCmd_of_busy _ _ hd)
  · exact execWindowEntryWrite_of_busy i v hd
  · -- SERVICE_REPLAY
    exact congrArg Host.Outcome.next
      ((State.service_of_request _ hv hq he hbad hop (by decide)).trans (State.serviceReplay_of_page hpage hctx false))
  · -- SERVICE_FAIL
    exact congrArg Host.Outcome.next
      ((State.service_of_request _ hv hq he hbad hop (by decide)).trans (State.serviceReplay_of_page hpage hctx true))
  · -- ATTEST's count
    rw [State.countReport_reports, State.reported_plat]
  · -- ATTEST's report
    rw [State.countReport_mem, State.reported, State.signedReport]

end Sys2Proof.Safety

/-! ## Firmware's writes and marker trace

A write by firmware goes to the kind of register that stands at its offset: the kinds are found once, and what a write of each does is
said beside them. That an enabled VF is READY at once and that samples fall on the multiples of the period are the model's choices
(assumption logs 34 and 27). -/

namespace Sys2Proof.Machine

/-! ### The kinds of registers (R456-R458, R460, R484) -/

theorem mgKind_launchQAt {n : Nat} (hn : n < 256) : mgKind (launchQAt n) = .launchQ n := by
  unfold mgKind launchQAt
  rw [if_neg (by omega), if_neg (by omega), if_pos (by omega)]
  congr 1
  omega

theorem mgKind_slotQAt {f n : Nat} (hf : f < 17) (hn : n < 16) : mgKind (slotQAt f n) = .slotQ f n := by
  unfold mgKind slotQAt fnBlock
  rw [if_neg (by omega), if_neg (by omega), if_neg (by omega), if_pos (by omega)]
  dsimp only
  rw [if_neg (by omega), if_neg (by omega), if_pos (by omega)]
  congr 1 <;> omega

/-- The counters of the device block stand in whole words. -/
theorem devKind_of_counter {o : Nat} (hlo : 0x800 ≤ o) (hhi : o < devCounter devCounters) (h8 : o % 8 = 0) : devKind o = .rw 0xFFFFFFFF := by
  have listed : [0x000, 0x004, 0x008, 0x010, 0x014].contains o = false := by
    simp only [List.contains_eq_mem, List.mem_cons, List.not_mem_nil, or_false, decide_eq_false_iff_not]
    omega
  unfold devKind
  rw [listed, if_neg (by decide), if_neg (by omega), if_neg (by omega), if_neg (by omega), if_neg (by omega), if_pos ⟨hlo, hhi, h8⟩]

/-- So do those of a core block. -/
theorem coreKind_of_counter {c o : Nat} (h : (o = 0x300 ∨ o = 0x304) ∨ (0x400 ≤ o ∧ o < 0x400 + 8 * coreCounters ∧ o % 8 = 0)) :
    coreKind c o = .rw 0xFFFFFFFF := by
  have hcount : coreCounters = 6 := rfl
  unfold coreKind
  rw [if_neg (by omega), if_neg (by omega), if_neg (by omega), if_neg (by omega), if_neg (by omega), if_neg (by omega), if_neg (by omega)]
  rcases h with h | h
  · rw [if_pos h]
  · rw [if_neg (by omega), if_pos h]

/-- A counter is a word that stores what is written. -/
theorem mgKind_of_isCounter {o : Nat} (h : isCounter o = true) : o % 4 = 0 ∧ mgKind o = .rw 0xFFFFFFFF := by
  have hdev : devCounter devCounters = 0x988 := rfl
  have hcount : coreCounters = 6 := rfl
  simp only [isCounter, Bool.or_eq_true, Bool.and_eq_true, decide_eq_true_eq, beq_iff_eq, List.contains_eq_mem, List.mem_cons,
    List.not_mem_nil, or_false] at h
  have h4 : o % 4 = 0 := by omega
  refine ⟨h4, ?_⟩
  unfold mgKind
  rw [if_neg (not_not_intro h4)]
  rcases h with (⟨⟨hlo, hhi⟩, h8⟩ | ⟨⟨hlo, hhi⟩, hoff⟩) | ⟨⟨hlo, hhi⟩, hoff⟩
  · rw [if_pos (by omega), devKind_of_counter hlo hhi h8]
  · rw [if_neg (by omega), if_neg (by omega), if_pos (by omega)]
    dsimp only
    rw [if_neg (by omega), if_pos hoff]
  · rw [if_neg (by omega), if_neg (by omega), if_neg (by omega), if_pos (by omega)]
    exact coreKind_of_counter (by omega)

/-! ### Writes (R455, R483, R484) -/

section
variable {s : State}

/-- Firmware writes once a verified image runs. -/
theorem State.fwWrite_of_verified (hv : s.plat.verified = true) (off n v : Nat) : s.fwWrite off n v = s.mgWrite off n v := if_pos hv

theorem State.mgWrite_word {off : Nat} (h : off % 4 = 0) (v : Nat) : s.mgWrite off 4 v = s.mgWriteWord off (word v) := by
  simp [State.mgWrite, h]

theorem State.mgWriteWord_of_absent {off : Nat} (h : mgKind off = .absent) (v : Word) : s.mgWriteWord off v = s := by
  simp only [State.mgWriteWord, h]

theorem execPlimitWrite_of_verified (hv : s.plat.verified = true) (v : Word) :
    execPlimitWrite v s = .next (s.setMg 0x018 (word (min 2000 (max 1000 (v.toNat % 4096))))) := by
  rw [execPlimitWrite, State.fwWrite_of_verified hv, State.mgWrite_word rfl]
  simp [State.mgWriteWord, show mgKind 0x018 = .plimit from rfl]

theorem execCounterClear_of_counter {o : Nat} (hv : s.plat.verified = true) (h : isCounter o = true) :
    execCounterClear o s = .next (s.setMg o 0) := by
  obtain ⟨h4, hkind⟩ := mgKind_of_isCounter h
  rw [execCounterClear, if_pos h, State.fwWrite_of_verified hv, State.mgWrite_word h4]
  simp [State.mgWriteWord, hkind]

/-! ### Registration entries (R457) -/

theorem State.mgWrite_launchQAt {n : Nat} (hn : n < 256) (v : Nat) : s.mgWrite (launchQAt n) 8 v = s.writeLaunchQ n v := by
  have aligned : ¬launchQAt n % 8 ≠ 0 := by
    unfold launchQAt
    omega
  simp only [State.mgWrite, if_neg aligned, mgKind_launchQAt hn]
  rfl

theorem State.mg64_setMg64 (s : State) (off v : Nat) : (s.setMg64 off v).mg64 off = v % 2 ^ 64 := by
  have low : off ≠ off + 4 := by omega
  simp only [State.mg64, State.setMg64, State.mg_setMg, if_neg low, if_true, BitVec.toNat_ofNat]
  omega

/-- The fields of a registration entry whose valid bit is written 0: the queue stays. -/
theorem State.launchQ_writeLaunchQ_invalid (s : State) (n : Nat) :
    (s.writeLaunchQ n (s.mg64 (launchQAt n) % 2 ^ 32)).launchQ n = (false, (s.launchQ n).2) := by
  have hlt : s.mg64 (launchQAt n) % 2 ^ 32 < 2 ^ 32 := Nat.mod_lt _ (by decide)
  have invalid : (s.mg64 (launchQAt n) % 2 ^ 32).testBit 32 = false := Nat.testBit_lt_two_pow hlt
  have entry : (s.writeLaunchQ n (s.mg64 (launchQAt n) % 2 ^ 32)).mg64 (launchQAt n) = s.mg64 (launchQAt n) % 2 ^ 32 := by
    unfold State.writeLaunchQ
    rw [State.mg64_setMg64, invalid]
    simp only [Bool.false_and, b2n, Bool.false_eq_true, if_false]
    omega
  simp only [State.launchQ, entry, invalid, bits, Nat.shiftRight_eq_div_pow, Prod.mk.injEq, true_and]
  constructor <;> omega

/-! ### Slots (R458, R461) -/

section
variable (s : State) (f n off : Nat) (v : Word) (x : Slot)

theorem State.slot_fn_num : (s.slot f n).fn = f ∧ (s.slot f n).num = n := by
  unfold State.slot
  cases h : s.slots.find? (fun x => x.fn == f && x.num == n) with
  | none => exact ⟨rfl, rfl⟩
  | some x => simpa using List.find?_some h

@[simp] theorem State.slot_setMg : (s.setMg off v).slot f n = s.slot f n := rfl
@[simp] theorem State.mg_setSlot : (s.setSlot x).mg off = s.mg off := rfl

/-- A slot's registers written with its own number are those it has. -/
theorem State.slot_setSlot_self (hfn : x.fn = f) (hnum : x.num = n) : (s.setSlot x).slot f n = x := by
  subst hfn hnum
  simp [State.slot, State.setSlot]

@[simp] theorem State.slot_setSlot_unbind (u : State) (b : Bool) :
    (u.setSlot { s.slot f n with unbind := b }).slot f n = { s.slot f n with unbind := b } :=
  u.slot_setSlot_self f n _ (s.slot_fn_num f n).1 (s.slot_fn_num f n).2

end

/-- A word of SLOTQ that binds names its queue under bit 31. -/
theorem word_bound {q : Nat} (hq : q < 65536) : (word (2 ^ 31 + q)).getLsbD 31 = true ∧ (word (2 ^ 31 + q)).toNat % 65536 = q := by
  have low : q.testBit 31 = false := Nat.testBit_lt_two_pow (by omega)
  constructor
  · rw [BitVec.getLsbD_ofNat, Nat.testBit_two_pow_add_eq, low]
    rfl
  · rw [BitVec.toNat_ofNat]
    omega

/-- One below bit 31 does not bind. -/
theorem word_unbound {q : Nat} (hq : q < 65536) : (word q).getLsbD 31 = false ∧ (word q).toNat % 65536 = q := by
  constructor
  · rw [BitVec.getLsbD_ofNat, Nat.testBit_lt_two_pow (show q < 2 ^ 31 by omega), Bool.and_false]
  · rw [BitVec.toNat_ofNat]
    omega

section
variable {f n q : Nat}

theorem State.slotQueue_of_unbound (h : (s.mg (slotQAt f n)).getLsbD 31 = false) : s.slotQueue f n = none := by
  simp only [State.slotQueue, h, Bool.not_false, if_true]

theorem State.slotQueue_of_bound (hq : q < 65536) (h : s.mg (slotQAt f n) = word (2 ^ 31 + q)) :
    s.slotQueue f n = some (if (s.slot f n).unbind then (s.slot f n).cmdQ else q) := by
  obtain ⟨bound, queue⟩ := word_bound hq
  simp only [State.slotQueue, h, bound, queue, Bool.not_true, Bool.false_eq_true, if_false]
  split <;> rfl

theorem State.mgWrite_slotQAt (hf : f < 17) (hn : n < 16) (v : Nat) : s.mgWrite (slotQAt f n) 4 v = s.writeSlotQ f n (word v) := by
  have aligned : slotQAt f n % 4 = 0 := by
    unfold slotQAt fnBlock
    omega
  rw [State.mgWrite_word aligned, State.mgWriteWord, mgKind_slotQAt hf hn]

/-- A binding to a queue of a context of the function holds at once. -/
theorem State.slotQueue_writeSlotQ_bind {x : BQueue} (hq : q < 65536) (hx : s.queue? q = some x) (hfn : Config.ctxFunction x.ctx = f) :
    (s.writeSlotQ f n (word (2 ^ 31 + q))).slotQueue f n = some q := by
  obtain ⟨bound, queue⟩ := word_bound hq
  simp only [State.writeSlotQ, bound, queue, hx, hfn, beq_self_eq_true, if_true, Nat.add_comm q]
  split
  next => rw [State.slotQueue_of_bound hq (by simp)]; simp
  next h => rw [State.slotQueue_of_bound hq (by simp)]; simp [h]

/-- With no command in progress an unbinding takes effect at once. -/
theorem State.slotQueue_writeSlotQ_unbind (hq : q < 65536) (hd : (s.slot f n).done = true) :
    (s.writeSlotQ f n (word q)).slotQueue f n = none := by
  obtain ⟨unbound, queue⟩ := word_unbound hq
  simp only [State.writeSlotQ, unbound, queue, hd, Bool.true_or, Bool.false_eq_true, if_false, if_true]
  exact State.slotQueue_of_unbound (by rw [State.mg_setMg, if_pos rfl, unbound])

/-- With one it waits. -/
theorem State.writeSlotQ_unbind_of_busy {k : Nat} (hq : q < 65536) (hd : (s.slot f n).done = false) (hk : s.slotQueue f n = some k) :
    s.writeSlotQ f n (word q) =
      (s.setSlot { s.slot f n with unbind := true }).setMg (slotQAt f n) (word (2 ^ 31 + q)) := by
  obtain ⟨unbound, queue⟩ := word_unbound hq
  have busy : ¬((s.slot f n).done || (s.slotQueue f n).isNone) = true := by simp [hd, hk]
  unfold State.writeSlotQ
  simp only [unbound, queue, if_neg busy, Bool.false_eq_true, if_false, Nat.add_comm q]

/-- Meanwhile the slot stays bound to that command's queue. -/
theorem State.slot_writeSlotQ_of_busy {k : Nat} (hq : q < 65536) (hd : (s.slot f n).done = false) (hk : s.slotQueue f n = some k) :
    (s.writeSlotQ f n (word q)).slotQueue f n = some (s.slot f n).cmdQ ∧ ((s.writeSlotQ f n (word q)).slot f n).unbind = true := by
  rw [State.writeSlotQ_unbind_of_busy hq hd hk]
  exact ⟨by rw [State.slotQueue_of_bound hq (by simp)]; simp, by simp⟩

theorem execSlotBind_of_verified (hv : s.plat.verified = true) (hf : f < 17) (hn : n < 16) (q : Nat) :
    execSlotBind f n q s = .next (s.writeSlotQ f n (word (2 ^ 31 + q % 65536))) := by
  rw [execSlotBind, if_pos ⟨hf, hn⟩, State.fwWrite_of_verified hv, State.mgWrite_slotQAt hf hn]

theorem execSlotUnbind_of_verified (hv : s.plat.verified = true) (hf : f < 17) (hn : n < 16) :
    execSlotUnbind f n s = .next (s.writeSlotQ f n (word ((s.mg (slotQAt f n)).toNat % 65536))) := by
  rw [execSlotUnbind, if_pos ⟨hf, hn⟩, State.fwWrite_of_verified hv, State.mgWrite_slotQAt hf hn]

theorem execLaunchQueueRegister_of_verified (hv : s.plat.verified = true) (hn : n < 256) (ctx q : Nat) :
    execLaunchQueueRegister n ctx q s = .next (s.writeLaunchQ n (2 ^ 32 + ctx % 65536 * 2 ^ 16 + q % 65536)) := by
  rw [execLaunchQueueRegister, if_pos hn, State.fwWrite_of_verified hv, State.mgWrite_launchQAt hn]

theorem execLaunchQueueUnregister_of_verified (hv : s.plat.verified = true) (hn : n < 256) :
    execLaunchQueueUnregister n s = .next (s.writeLaunchQ n (s.mg64 (launchQAt n) % 2 ^ 32)) := by
  rw [execLaunchQueueUnregister, if_pos hn, State.fwWrite_of_verified hv, State.mgWrite_launchQAt hn]

/-- A word that no table lists keeps nothing and reads 0 (R455). -/
theorem State.mgRead_of_absent {o : Nat} (h4 : o % 4 = 0) (h : mgKind o = .absent) : s.mgRead o 4 = 0 := by
  simp [State.mgRead, h4, State.mgReadWord, h]

end

/-! ### Virtual functions (R453, R454) -/

/-- READY of VFs 1 to `n`. -/
theorem getLsbD_readyVfs {n f : Nat} (hf : f < 17) : (BitVec.ofNat 17 (2 ^ (n + 1) - 2)).getLsbD f = decide (1 ≤ f ∧ f ≤ n) := by
  have twice : 2 ^ (n + 1) - 2 = 2 * (2 ^ n - 1) := by
    rw [Nat.pow_succ]
    omega
  rw [BitVec.getLsbD_ofNat, decide_eq_true hf, Bool.true_and, twice]
  cases f with
  | zero => simp [Nat.testBit_zero]
  | succ f =>
    rw [Nat.testBit_succ, Nat.mul_div_cancel_left _ (by decide), Nat.testBit_two_pow_sub_one]
    exact decide_eq_decide.mpr (by omega)

/-- The functions that are READY once VFs 1 to `n` are enabled: the PF as it was, and they. -/
def Platform.readyWith (p : Platform) (n : Nat) : BitVec 17 := p.ready &&& 1 ||| BitVec.ofNat 17 (2 ^ (n + 1) - 2)

theorem Platform.getLsbD_readyWith (p : Platform) {n f : Nat} (hf : f < 17) :
    (p.readyWith n).getLsbD f = if f = 0 then p.ready.getLsbD 0 else decide (f ≤ n) := by
  rw [Platform.readyWith, BitVec.getLsbD_or, BitVec.getLsbD_and, getLsbD_readyVfs hf]
  by_cases h0 : f = 0
  · subst h0
    simp
  · simp [h0, Nat.one_le_iff_ne_zero]

theorem execVfEnable_of_verified {n : Nat} (hv : s.plat.verified = true) (hn : n ≤ 16) :
    execVfEnable n s = .next { s with plat := { s.plat with vfs := n, ready := s.plat.readyWith n } } :=
  congrArg Host.Outcome.next (if_pos ⟨hn, hv⟩)

/-! ### Marker trace (R475-R478) -/

section
variable {c : Nat}

theorem State.writeTr_of_verified (hv : s.plat.verified = true) (hc : c < 320) (f : Word → Word) :
    s.writeTr c f = s.writeTrctl c (f (s.mg (trctlAt c) &&& ~~~4)) := if_pos ⟨hc, hv⟩

theorem execTraceSyncPeriodic_of_due (hc : c < 320) (hen : s.trEn c = true) (hdue : 65536 ≤ (s.traceUnit c).sinceSync) :
    execTraceSyncPeriodic c s = .next (s.traceSync c) :=
  congrArg Host.Outcome.next (if_pos ⟨hc, hen, hdue⟩)

/-- In order of a measure the first is a least. -/
theorem least_of_sortBy_eq_cons {α : Type} {dist : α → Nat} {l r : List α} {x : α}
    (h : sortBy (fun x y => decide (dist x ≤ dist y)) l = x :: r) : x ∈ l ∧ ∀ y ∈ l, dist x ≤ dist y := by
  have order := pairwise_sortBy (le := fun x y : α => decide (dist x ≤ dist y))
    (fun a b => by simpa using Nat.le_total (dist a) (dist b)) (fun a b c => by simpa using Nat.le_trans) l
  have mem (y : α) : y ∈ l ↔ y = x ∨ y ∈ r := by rw [← mem_sortBy (fun x y => decide (dist x ≤ dist y)), h, List.mem_cons]
  rw [h, List.pairwise_cons] at order
  refine ⟨(mem x).mpr (.inl rfl), fun y hy => ?_⟩
  rcases (mem y).mp hy with rfl | hr
  · exact Nat.le_refl _
  · simpa using order.1 y hr

theorem State.sampleDue_of_multiple (hs : s.trSampling c = true) (hp : (s.mg (coreBlock c + 0x10C)).toNat % 65536 ≠ 0)
    (hm : s.cycle (.core c) % (1024 * ((s.mg (coreBlock c + 0x10C)).toNat % 65536)) = 0)
    (hl : (s.traceUnit c).lastSample < s.cycle (.core c)) : s.sampleDue c = true := by
  have period : s.samplePeriod c ≠ 0 := Nat.mul_ne_zero (by decide) hp
  have multiple : s.cycle (.core c) % s.samplePeriod c = 0 := hm
  simp [State.sampleDue, hs, period, multiple, hl]

/-- The live threads of a core, in their slots. -/
def State.occupied (s : State) (c : Nat) : List (Actor × Thread) := (s.actorsOn c).filterMap (fun a => (s.thread? a).map (fun t => (a, t)))

/-- How far a thread's slot lies past the last sampled one, with wrap. -/
def State.slotsPast (s : State) (c : Nat) (x : Actor × Thread) : Nat := (x.2.slot + 2047 - (s.traceUnit c).lastSlot) % 2048

/-- The state in which a thread has been sampled. -/
def State.sampled (s : State) (c : Nat) (x : Actor × Thread) : State :=
  let u := s.setTrace { s.traceUnit c with lastSample := s.cycle (.core c), lastSlot := x.2.slot }
  if u.trEn c then u.traceEmit c (u.sampleRecord c x.1 x.2) else u.traceRaw c (u.sampleRecord c x.1 x.2)

/-- The occupied slots in the order in which they are sampled. -/
def State.sampleOrder (s : State) (c : Nat) : List (Actor × Thread) :=
  sortBy (fun x y => decide (s.slotsPast c x ≤ s.slotsPast c y)) (s.occupied c)

theorem execTraceSample_of_order_nil (hc : c < 320) (hdue : s.sampleDue c = true) (h : s.sampleOrder c = []) :
    execTraceSample c s = .next (s.setTrace { s.traceUnit c with lastSample := s.cycle (.core c) }) := by
  have due : ¬(320 ≤ c ∨ s.sampleDue c = false) := by simp [hc, hdue]
  unfold execTraceSample
  rw [if_neg due]
  dsimp only
  split
  next => rfl
  next horder => cases horder.symm.trans h

theorem execTraceSample_of_order_cons {x : Actor × Thread} {r : List (Actor × Thread)} (hc : c < 320) (hdue : s.sampleDue c = true)
    (h : s.sampleOrder c = x :: r) : execTraceSample c s = .next (s.sampled c x) := by
  have due : ¬(320 ≤ c ∨ s.sampleDue c = false) := by simp [hc, hdue]
  unfold execTraceSample
  rw [if_neg due]
  dsimp only
  split
  next horder => cases horder.symm.trans h
  next horder =>
    cases horder.symm.trans h
    rfl

theorem execTraceSample_of_none (hc : c < 320) (hdue : s.sampleDue c = true) (h : s.occupied c = []) :
    execTraceSample c s = .next (s.setTrace { s.traceUnit c with lastSample := s.cycle (.core c) }) :=
  execTraceSample_of_order_nil hc hdue (congrArg (sortBy _) h)

theorem execTraceSample_of_some (hc : c < 320) (hdue : s.sampleDue c = true) (h : s.occupied c ≠ []) :
    ∃ x ∈ s.occupied c, (∀ y ∈ s.occupied c, s.slotsPast c x ≤ s.slotsPast c y) ∧ execTraceSample c s = .next (s.sampled c x) := by
  cases hl : s.sampleOrder c with
  | nil =>
    have length : (s.sampleOrder c).length = (s.occupied c).length := length_sortBy _ _
    rw [hl] at length
    exact absurd (List.eq_nil_of_length_eq_zero length.symm) h
  | cons x r =>
    obtain ⟨hx, hleast⟩ := least_of_sortBy_eq_cons hl
    exact ⟨x, hx, hleast, execTraceSample_of_order_cons hc hdue hl⟩

end

end

end Sys2Proof.Machine

namespace Sys2Proof.Safety

open Sys2Proof.Machine

/-- Settles O41: each write by the kind of register it reaches, the sample by the next occupied slot. -/
theorem firmwareWrites : Obligations.FirmwareWrites := by
  unfold Obligations.FirmwareWrites
  refine ⟨⟨fun s n ctx q hv hn => execLaunchQueueRegister_of_verified hv hn ctx q, fun s n hv hn => ?_,
      fun s fn n q x hv hfn hn hx hctx => ?_, fun s fn n hv hfn hn hd => ?_, fun s fn n q hv hfn hn hd hq _ _ hcmd => ?_, fun s v hv => ?_,
      fun s o hv h => ?_, fun s o n v hv => congrArg Host.Outcome.next (State.fwWrite_of_verified hv ..), fun s o v hv h4 h => ⟨?_, ?_⟩,
      fun s c hv hc => ⟨?_, ?_⟩, fun s n hv hn => ?_⟩,
    fun s c hc hen hdue => execTraceSyncPeriodic_of_due hc hen hdue, fun s c hc hs hp hm hl => ?_⟩
  · -- LAUNCH_QUEUE_UNREGISTER
    have entry := s.launchQ_writeLaunchQ_invalid n
    exact ⟨_, execLaunchQueueUnregister_of_verified hv hn, by rw [entry], by rw [entry]⟩
  · -- SLOT_BIND
    exact ⟨_, execSlotBind_of_verified hv hfn hn q, State.slotQueue_writeSlotQ_bind (Nat.mod_lt _ (by decide)) hx hctx⟩
  · -- SLOT_UNBIND of a slot that is done
    exact ⟨_, execSlotUnbind_of_verified hv hfn hn, State.slotQueue_writeSlotQ_unbind (Nat.mod_lt _ (by decide)) hd⟩
  · -- SLOT_UNBIND of a slot with a command in progress
    obtain ⟨hbound, hunbind⟩ := State.slot_writeSlotQ_of_busy (Nat.mod_lt (s.mg (slotQAt fn n)).toNat (by decide : 0 < 65536)) hd hq
    exact ⟨_, execSlotUnbind_of_verified hv hfn hn, hbound.trans (congrArg some hcmd), hunbind⟩
  · -- PLIMIT_WRITE
    refine ⟨_, execPlimitWrite_of_verified hv v, ?_, fun o ho => by rw [State.mg_setMg, if_neg ho], rfl⟩
    rw [State.mg_setMg, if_pos rfl, BitVec.toNat_ofNat]
    omega
  · -- COUNTER_CLEAR
    exact ⟨_, execCounterClear_of_counter hv h, by rw [State.mg_setMg, if_pos rfl], fun p hp => by rw [State.mg_setMg, if_neg hp]⟩
  · -- MGMT_REGISTER_WRITE of a word that no table lists
    refine congrArg Host.Outcome.next ((State.fwWrite_of_verified hv ..).trans ?_)
    rw [State.mgWrite_word h4, State.mgWriteWord_of_absent h]
  · exact State.mgRead_of_absent h4 h
  · exact congrArg Host.Outcome.next (State.writeTr_of_verified hv hc _)
  · exact congrArg Host.Outcome.next (State.writeTr_of_verified hv hc _)
  · -- VF_ENABLE
    refine ⟨_, execVfEnable_of_verified hv hn, s.plat.getLsbD_readyWith (by decide), fun f hf hf17 => ?_⟩
    rw [s.plat.getLsbD_readyWith hf17, if_neg (by omega)]
  · -- TRACE_SAMPLE
    have due := State.sampleDue_of_multiple hs hp hm hl
    exact ⟨execTraceSample_of_none hc due, execTraceSample_of_some hc due⟩

end Sys2Proof.Safety
